-- ==== Sys2Proof/Word.lean ====
section
/-! DEFINITION. Sys2Proof/Word.lean: the word types of the TW-1768 (R2, R3, R4). -/
namespace Sys2Proof

/-- One byte. -/
abbrev Byte := BitVec 8
/-- One register of the register space (R4). -/
abbrev Word := BitVec 32
/-- A scalar register of an engine, and any 64-bit value (R5, R62). -/
abbrev DWord := BitVec 64
/-- An internal physical address (R489). -/
abbrev PAddr := BitVec 40

end Sys2Proof
end

