-- ==== Sys2Proof/Types.lean ====
section
/-! DEFINITION. Sys2Proof/Types.lean: the types of the commands' operands. -/
namespace Sys2Proof

/-- A render engine, RE0 to RE16. -/
abbrev EngIx := Fin 17
/-- One of an engine's two contexts. -/
abbrev CtxIx := Fin 2

/-- A master of the fabric (R488): its number, and PRIV of its requests (R491). -/
structure Master where
  num : Nat
  priv : Bool
  deriving DecidableEq, Repr

/-- One byte of host memory that the host has written, and the address (the host's memory is the host's own). -/
abbrev HostCell := Nat × Byte

/-- What the host did to its memory before a command: bytes written, and the 64 B lines that answer with an error or a poisoned
TLP from now on (`none`: unchanged). -/
structure HostUpd where
  cells : List HostCell
  bad : Option (List Nat)
  deriving DecidableEq, Repr

/-- The slots of a bundle (R104). -/
inductive Slot where
  | a | b
  deriving DecidableEq, Repr

/-- An instruction's place and fields, but for the opcode, which the command names (R104, R106): the slot of the bundle that
holds it, F1 to F4, K and X. -/
structure SlotWord where
  slot : Slot
  f1 : BitVec 5
  f2 : BitVec 5
  f3 : BitVec 5
  f4 : BitVec 5
  k : BitVec 3
  x : BitVec 33
  deriving DecidableEq, Repr

/-- A core that runs engine instructions: a render engine, or the porch engine PE with its part of the set (R61, R148). -/
inductive Core where
  | re (k : EngIx)
  | pe
  deriving DecidableEq, Repr

/-- A port of the Ethernet block. -/
abbrev PortIx := Fin 4
/-- A host ring (R265). -/
abbrev RingIx := Fin 41
/-- A time base. -/
abbrev TbIx := Fin 4
/-- A flow, receive or transmit. -/
abbrev FlowIx := Fin 512
/-- A serial port. -/
abbrev SapIx := Fin 8
/-- A DRAM channel. -/
abbrev ChanIx := Fin 8
/-- A rank of a channel. -/
abbrev RankIx := Fin 2
/-- A supervisor core, SC0 or SC1. -/
abbrev CoreIx := Fin 2
/-- A performance counter. -/
abbrev PmcIx := Fin 384
/-- A block reset register: RST_ENG, RST_SC, RST_MAC, RST_DMC, RST_SAP, RST_MISC. -/
abbrev RstIx := Fin 6

/-- What a poll of MR4 reports of a rank, as JESD209-5B reads the register: the rate is slower than 1×, 1×, 2×, 4×, or the
temperature is outside the operating range (R467). -/
inductive RefRate where
  | slower | normal | doubled | quadrupled | outside
  deriving DecidableEq, Repr
/-- The pins that cause a cold reset (R511). -/
inductive ColdPin where
  | porchPg
  | resetIn
  deriving DecidableEq, Repr

/-- What causes a warm reset (R511): a write of RST_CTRL, CHIP_PG going low, or the handling of a fatal event. -/
inductive WarmWhy where
  | rstCtrl (m : Master) (v : Word)
  | chipPg
  | fatal
  deriving DecidableEq, Repr

end Sys2Proof
end

