-- ==== Sys2Proof/Syntax.lean ====
section
/-! DEFINITION. Sys2Proof/Syntax.lean: the commands the block takes, one constructor per row of spec/opcode_table.json. -/
namespace Sys2Proof

/-- A command. Each constructor's comment names its row and the rule it stands on. A row that writes or reads a register carries the
master that does it and the word; the register is the row's. A row that the environment brings about carries what the environment
gives (a measured value, a frame, the wrong bits that a scrubbed line shows). The rows stand in the table's order, but for some at the
end and those without operands after them: compiled Lean builds at most 244 constructors with operands of one type. -/
inductive Instr where
  /-- REGISTER_WRITE (R7) -/
  | registerWrite (m : Master) (a : Nat) (v : Word)
  /-- READ_LO_LATCH (R5) -/
  | readLoLatch (m : Master) (a : Nat)
  /-- WRITE_HI_BUFFER (R5) -/
  | writeHiBuffer (m : Master) (a : Nat) (v : Word)
  /-- WRITE_LO_COMMIT (R5) -/
  | writeLoCommit (m : Master) (a : Nat) (v : Word)
  /-- RC_COUNTER_READ (R601) -/
  | rcCounterRead (m : Master) (a : Nat)
  /-- LND_RUN (R29) -/
  | lndRun (m : Master) (v : Word)
  /-- FREEZE_POINT (R38) -/
  | freezePoint (ticks : Nat)
  /-- LANDING (R40) -/
  | landing (ticks : Nat)
  /-- LND_ARM (R37) -/
  | lndArm (m : Master) (v : Word)
  /-- LND_DISARM (R42) -/
  | lndDisarm (m : Master) (v : Word)
  /-- PREEMPT_SWITCH (R86) -/
  | preemptSwitch (k : EngIx) (latency : Nat)
  /-- NOP (R105) -/
  | nop (u : Core) (w : SlotWord)
  /-- VADD (R113) -/
  | vadd (u : Core) (w : SlotWord)
  /-- VADDS (R113) -/
  | vadds (u : Core) (w : SlotWord)
  /-- VSUB (R113) -/
  | vsub (u : Core) (w : SlotWord)
  /-- VSUBS (R113) -/
  | vsubs (u : Core) (w : SlotWord)
  /-- VMULQ (R113) -/
  | vmulq (u : Core) (w : SlotWord)
  /-- VAND (R113) -/
  | vand (u : Core) (w : SlotWord)
  /-- VOR (R113) -/
  | vor (u : Core) (w : SlotWord)
  /-- VXOR (R113) -/
  | vxor (u : Core) (w : SlotWord)
  /-- VANDN (R113) -/
  | vandn (u : Core) (w : SlotWord)
  /-- VSHL (R113) -/
  | vshl (u : Core) (w : SlotWord)
  /-- VSHR (R113) -/
  | vshr (u : Core) (w : SlotWord)
  /-- VSRA (R113) -/
  | vsra (u : Core) (w : SlotWord)
  /-- VSHLS (R113) -/
  | vshls (u : Core) (w : SlotWord)
  /-- VMIN (R113) -/
  | vmin (u : Core) (w : SlotWord)
  /-- VMAX (R113) -/
  | vmax (u : Core) (w : SlotWord)
  /-- VABS (R113) -/
  | vabs (u : Core) (w : SlotWord)
  /-- VNEG (R113) -/
  | vneg (u : Core) (w : SlotWord)
  /-- VSAT (R113) -/
  | vsat (u : Core) (w : SlotWord)
  /-- VCVT (R114) -/
  | vcvt (u : Core) (w : SlotWord)
  /-- VSEL (R113) -/
  | vsel (u : Core) (w : SlotWord)
  /-- VCMP (R113) -/
  | vcmp (u : Core) (w : SlotWord)
  /-- VMOV (R113) -/
  | vmov (u : Core) (w : SlotWord)
  /-- VBCAST (R113) -/
  | vbcast (u : Core) (w : SlotWord)
  /-- VSWZ (R113) -/
  | vswz (u : Core) (w : SlotWord)
  /-- VMAC (R115) -/
  | vmac (u : Core) (w : SlotWord)
  /-- VMAC2 (R115) -/
  | vmac2 (u : Core) (w : SlotWord)
  /-- VCMAC (R116) -/
  | vcmac (u : Core) (w : SlotWord)
  /-- VCMUL (R116) -/
  | vcmul (u : Core) (w : SlotWord)
  /-- BFLY4 (R117) -/
  | bfly4 (u : Core) (w : SlotWord)
  /-- VACS (R118) -/
  | vacs (u : Core) (w : SlotWord)
  /-- ACLR (R115) -/
  | aclr (u : Core) (w : SlotWord)
  /-- AMOV (R115) -/
  | amov (u : Core) (w : SlotWord)
  /-- AADD (R115) -/
  | aadd (u : Core) (w : SlotWord)
  /-- AADDV (R115) -/
  | aaddv (u : Core) (w : SlotWord)
  /-- NARW (R119) -/
  | narw (u : Core) (w : SlotWord)
  /-- ADD (R120) -/
  | add (u : Core) (w : SlotWord)
  /-- SUB (R120) -/
  | sub (u : Core) (w : SlotWord)
  /-- AND (R120) -/
  | and (u : Core) (w : SlotWord)
  /-- OR (R120) -/
  | or (u : Core) (w : SlotWord)
  /-- XOR (R120) -/
  | xor (u : Core) (w : SlotWord)
  /-- SLL (R120) -/
  | sll (u : Core) (w : SlotWord)
  /-- SRL (R120) -/
  | srl (u : Core) (w : SlotWord)
  /-- SRA (R120) -/
  | sra (u : Core) (w : SlotWord)
  /-- MUL (R120) -/
  | mul (u : Core) (w : SlotWord)
  /-- MULH (R120) -/
  | mulh (u : Core) (w : SlotWord)
  /-- SLT (R120) -/
  | slt (u : Core) (w : SlotWord)
  /-- SLTU (R120) -/
  | sltu (u : Core) (w : SlotWord)
  /-- SEQ (R120) -/
  | seq (u : Core) (w : SlotWord)
  /-- ADDI (R120) -/
  | addi (u : Core) (w : SlotWord)
  /-- LI (R120) -/
  | li (u : Core) (w : SlotWord)
  /-- SHI (R120) -/
  | shi (u : Core) (w : SlotWord)
  /-- CSET (R120) -/
  | cset (u : Core) (w : SlotWord)
  /-- CGET (R120) -/
  | cget (u : Core) (w : SlotWord)
  /-- CADD (R120) -/
  | cadd (u : Core) (w : SlotWord)
  /-- KSET (R120) -/
  | kset (u : Core) (w : SlotWord)
  /-- KGET (R120) -/
  | kget (u : Core) (w : SlotWord)
  /-- VEXT (R120) -/
  | vext (u : Core) (w : SlotWord)
  /-- VINS (R120) -/
  | vins (u : Core) (w : SlotWord)
  /-- VCLS (R120) -/
  | vcls (u : Core) (w : SlotWord)
  /-- DGET (R120) -/
  | dget (u : Core) (w : SlotWord)
  /-- DCLR (R120) -/
  | dclr (u : Core) (w : SlotWord)
  /-- LD (R121) -/
  | ld (u : Core) (w : SlotWord)
  /-- ST (R121) -/
  | st (u : Core) (w : SlotWord)
  /-- VLD (R122) -/
  | vld (u : Core) (w : SlotWord)
  /-- VST (R122) -/
  | vst (u : Core) (w : SlotWord)
  /-- PSTEP_LOAD (R128) -/
  | pstepLoad (u : Core) (w : SlotWord)
  /-- PSTEP_LOAD_DONE (R129) -/
  | pstepLoadDone (k : EngIx) (c : CtxIx)
  /-- PSTEP_WAIT (R128) -/
  | pstepWait (u : Core) (w : SlotWord)
  /-- GATHER (R131) -/
  | gather (u : Core) (w : SlotWord)
  /-- HSEND (R134) -/
  | hsend (u : Core) (w : SlotWord)
  /-- HALL_INPUT_PASS (R136) -/
  | hallInputPass (k : EngIx)
  /-- TAPMOVE (R137) -/
  | tapmove (u : Core) (w : SlotWord)
  /-- SMAC (R138) -/
  | smac (u : Core) (w : SlotWord)
  /-- NARS (R138) -/
  | nars (u : Core) (w : SlotWord)
  /-- SDMA (R139) -/
  | sdma (u : Core) (w : SlotWord)
  /-- STREAM_ENTRY_DONE (R80) -/
  | streamEntryDone (k : EngIx) (c : CtxIx)
  /-- SWAIT (R140) -/
  | swait (u : Core) (w : SlotWord)
  /-- FENCE_ROOM (R140) -/
  | fenceRoom (u : Core) (w : SlotWord)
  /-- FENCE_STREAM (R140) -/
  | fenceStream (u : Core) (w : SlotWord)
  /-- BARRIER (R140) -/
  | barrier (u : Core) (w : SlotWord)
  /-- BR (R142) -/
  | br (u : Core) (w : SlotWord)
  /-- BCOND (R142) -/
  | bcond (u : Core) (w : SlotWord)
  /-- JAL (R142) -/
  | jal (u : Core) (w : SlotWord)
  /-- JR (R142) -/
  | jr (u : Core) (w : SlotWord)
  /-- REP (R145) -/
  | rep (u : Core) (w : SlotWord)
  /-- WAITWORK (R144) -/
  | waitwork (u : Core) (w : SlotWord)
  /-- TDONE (R143) -/
  | tdone (u : Core) (w : SlotWord)
  /-- TDONE_COMMIT (R143) -/
  | tdoneCommit (k : EngIx) (c : CtxIx)
  /-- GETP (R146) -/
  | getp (u : Core) (w : SlotWord)
  /-- MFLG (R146) -/
  | mflg (u : Core) (w : SlotWord)
  /-- FCLR (R146) -/
  | fclr (u : Core) (w : SlotWord)
  /-- ICINV (R146) -/
  | icinv (u : Core) (w : SlotWord)
  /-- CYCLE_LIMIT (R90) -/
  | cycleLimit (k : EngIx) (c : CtxIx) (stalls : Nat)
  /-- ICACHE_PARITY (R83) -/
  | icacheParity (k : EngIx) (line : Nat)
  /-- ENG_ENABLE (R95) -/
  | engEnable (m : Master) (k : EngIx) (v : Word)
  /-- ENG_HALT (R97) -/
  | engHalt (m : Master) (k : EngIx) (v : Word)
  /-- ENGINE_HALTED (R97) -/
  | engineHalted (k : EngIx)
  /-- ENG_RESUME (R95) -/
  | engResume (m : Master) (k : EngIx) (v : Word)
  /-- ENG_ICINV (R82) -/
  | engIcinv (m : Master) (k : EngIx) (v : Word)
  /-- SELFTEST_END (R95) -/
  | selftestEnd (k : EngIx) (pass : Bool) (fails : BitVec 16) (rows : List Nat)
  /-- ENG_INJECT (R604) -/
  | engInject (m : Master) (k : EngIx) (v : Word)
  /-- ENG_DBG_DATA_ACCESS (R97) -/
  | engDbgDataAccess (m : Master) (k : EngIx) (v : Option Word)
  /-- OCH_RAISE_LATE_JOB (R207) -/
  | ochRaiseLateJob (m : Master) (slot : Fin 16)
  /-- OCH_RAISE_LATE_SWITCH (R207) -/
  | ochRaiseLateSwitch (m : Master) (slot : Fin 16)
  /-- OCH_RAISE_FIR_SAT (R207) -/
  | ochRaiseFirSat (m : Master) (slot : Fin 16)
  /-- OCH_RAISE_BIQUAD_SAT (R207) -/
  | ochRaiseBiquadSat (m : Master) (slot : Fin 16)
  /-- OCH_RAISE_LIMIT (R207) -/
  | ochRaiseLimit (m : Master) (slot : Fin 16)
  /-- FILTER_PREPARE (R200) -/
  | filterPrepare (r : RingIx)
  /-- TASK_VALID_SET (R211) -/
  | taskValidSet (m : Master) (ix : Fin 16384) (l : List Byte)
  /-- TASK_VALID_CLEAR (R212) -/
  | taskValidClear (m : Master) (ix : Fin 16384)
  /-- TASK_FAULT_REPORT (R226) -/
  | taskFaultReport (k : EngIx) (c : CtxIx)
  /-- ENGINE_FAULT_REPORT (R227) -/
  | engineFaultReport (k : EngIx)
  /-- ADD_SPARE (R230) -/
  | addSpare (m : Master) (v : Word)
  /-- UNSHED (R234) -/
  | unshed (m : Master) (v : Word)
  /-- DOORBELL_WRITE (R268) -/
  | doorbellWrite (u : HostUpd) (r : RingIx) (h : Word)
  /-- DESCRIPTOR_FETCH (R268) -/
  | descriptorFetch (u : HostUpd) (r : RingIx)
  /-- COMMAND_ACCEPT (R284) -/
  | commandAccept (r : RingIx)
  /-- HIF_NOP (R278) -/
  | hifNop (r : RingIx)
  /-- SHADOW_WRITE (R279) -/
  | shadowWrite (r : RingIx)
  /-- DISARM (R278) -/
  | disarm (r : RingIx)
  /-- COPY_IN (R278) -/
  | copyIn (u : HostUpd) (r : RingIx) (granules : Nat)
  /-- COPY_OUT (R278) -/
  | copyOut (u : HostUpd) (r : RingIx) (granules : Nat)
  /-- FENCE (R278) -/
  | fence (r : RingIx)
  /-- HIF_BARRIER (R278) -/
  | hifBarrier (r : RingIx)
  /-- XLT_INVAL (R278) -/
  | xltInval (r : RingIx)
  /-- WAIT_PERIOD (R278) -/
  | waitPeriod (r : RingIx)
  /-- FW_COMMAND_PRESENT (R290) -/
  | fwCommandPresent (r : RingIx)
  /-- FW_DONE (R290) -/
  | fwDone (m : Master) (v : Word)
  /-- COMPLETION_POST (R282) -/
  | completionPost (u : HostUpd) (r : RingIx)
  /-- READ_HOST (R293) -/
  | readHost (u : HostUpd) (r : RingIx) (granules : Nat)
  /-- WRITE_HOST (R293) -/
  | writeHost (u : HostUpd) (r : RingIx) (granules : Nat)
  /-- BULK_ABORT (R293) -/
  | bulkAbort (m : Master) (r : RingIx) (v : Word)
  /-- RING_ENABLE (R275) -/
  | ringEnable (m : Master) (r : RingIx) (v : Word)
  /-- RING_RESUME (R274) -/
  | ringResume (m : Master) (r : RingIx) (v : Word)
  /-- RING_STOP (R272) -/
  | ringStop (m : Master) (r : RingIx) (v : Word)
  /-- RING_DRAIN_END (R275) -/
  | ringDrainEnd (r : RingIx)
  /-- XLT_RESUME (R303) -/
  | xltResume (u : HostUpd) (r : RingIx) (fseq : BitVec 16)
  /-- XLT_RESUME_ABORT (R303) -/
  | xltResumeAbort (u : HostUpd) (r : RingIx) (fseq : BitVec 16)
  /-- XLT_INV (R300) -/
  | xltInv (m : Master) (v : Word)
  /-- XLT_INV_ALL (R300) -/
  | xltInvAll (m : Master) (v : Word)
  /-- XLT_CTX_VALID (R310) -/
  | xltCtxValid (m : Master) (c : Fin 16) (v : Word)
  /-- BAR0_ACCESS (R263) -/
  | bar0Access (o : Nat) (l : Option (List Byte)) (n : Nat)
  /-- BAR4_ACCESS (R264) -/
  | bar4Access (o : Nat) (l : Option (List Byte)) (n : Nat)
  /-- PCIE_LINK_UP (R261) -/
  | pcieLinkUp (width : Nat) (speed : Nat)
  /-- CAPTURE_BLOCK_WRITE (R295) -/
  | captureBlockWrite (u : HostUpd) (c : Fin 4)
  /-- FRAME_TX_DESCRIPTOR (R296) -/
  | frameTxDescriptor (u : HostUpd) (r : RingIx)
  /-- FRAME_RX_DELIVER (R297) -/
  | frameRxDeliver (u : HostUpd) (r : RingIx)
  /-- PORT_START (R312) -/
  | portStart (m : Master) (p : PortIx) (v : Word)
  /-- PORT_STOP (R313) -/
  | portStop (m : Master) (p : PortIx) (v : Word)
  /-- PORT_STOPPED (R313) -/
  | portStopped (p : PortIx)
  /-- CNT_CLR (R349) -/
  | cntClr (m : Master) (p : PortIx) (v : Word)
  /-- LINK_UP (R311) -/
  | linkUp (p : PortIx)
  /-- LINK_DOWN (R334) -/
  | linkDown (p : PortIx) (hiBer : Bool)
  /-- AN_COMPLETE (R314) -/
  | anComplete (p : PortIx) (fd : Bool) (sym : Bool) (asm : Bool) (rf : Fin 4)
  /-- MAC_FRAME_RECEIVE (R320) -/
  | macFrameReceive (p : PortIx) (l : List Byte) (symbol : Option Nat) (align : Option Nat) (corr : Nat) (uncorr : Nat)
  /-- FILTER_VALID_SET (R326) -/
  | filterValidSet (m : Master) (p : PortIx) (n : Fin 128) (v : Word)
  /-- TX_FRAME_START (R333) -/
  | txFrameStart (p : PortIx)
  /-- TX_FRAME_DONE (R296) -/
  | txFrameDone (p : PortIx)
  /-- LAUNCH_TIME_REACHED (R363) -/
  | launchTimeReached (p : PortIx) (q : Fin 33)
  /-- TB_INCR_COMMIT (R351) -/
  | tbIncrCommit (m : Master) (b : TbIx) (v : Word)
  /-- TB_OFFSET_ADD (R352) -/
  | tbOffsetAdd (m : Master) (b : TbIx) (v : Word)
  /-- TB_LOAD (R352) -/
  | tbLoad (m : Master) (b : TbIx) (v : Word)
  /-- TB_TIME_READ (R353) -/
  | tbTimeRead (m : Master) (b : TbIx)
  /-- TSQ_POP (R362) -/
  | tsqPop (m : Master) (p : PortIx)
  /-- PTP_TX_SUBMIT (R358) -/
  | ptpTxSubmit (m : Master) (p : PortIx) (v : Word)
  /-- TIME_OUT_EDGE (R365) -/
  | timeOutEdge (n : Fin 2)
  /-- TIME_IN_CAPTURE (R366) -/
  | timeInCapture (n : Fin 2) (falling : Bool)
  /-- TIN_POP (R366) -/
  | tinPop (m : Master) (n : Fin 2)
  /-- LEG_TIMEOUT (R378) -/
  | legTimeout (f : FlowIx) (g : Fin 2)
  /-- MEDIA_PACKET_SEND (R382) -/
  | mediaPacketSend (f : FlowIx)
  /-- SAP_START (R395) -/
  | sapStart (m : Master) (p : SapIx) (v : Word)
  /-- SAP_SILENT_START_END (R403) -/
  | sapSilentStartEnd (p : SapIx)
  /-- SAP_STOP (R403) -/
  | sapStop (m : Master) (p : SapIx) (v : Word)
  /-- SAP_STOPPED (R403) -/
  | sapStopped (p : SapIx)
  /-- SAP_PORT_FRAME (R404) -/
  | sapPortFrame (p : SapIx) (rx : List Word)
  /-- MIX_OUTRDY (R414) -/
  | mixOutrdy (m : Master) (v : Word)
  /-- FABRIC_REQUEST (R491) -/
  | fabricRequest (m : Master) (id : Fin 64) (a : Nat) (write : Bool) (n : Nat) (cells : List (Nat × Byte)) (flags : List Nat) (cls : Fin 4) (close : Bool)
  /-- FABRIC_RESPONSE (R494) -/
  | fabricResponse (m : Fin 28) (id : Fin 64) (t : Fin 64)
  /-- FILL_GO (R435) -/
  | fillGo (m : Master) (v : Word)
  /-- ECC_LOG_POP (R448) -/
  | eccLogPop (m : Master)
  /-- ECC_INJECT_ARM (R449) -/
  | eccInjectArm (m : Master) (v : Word)
  /-- PANTRY_SELFTEST_END (R439) -/
  | pantrySelftestEnd (fails : Word) (rows : List Nat)
  /-- DMC_INIT (R481) -/
  | dmcInit (m : Master) (c : ChanIx) (v : Word)
  /-- DMC_INIT_KEEP (R481) -/
  | dmcInitKeep (m : Master) (c : ChanIx) (v : Word)
  /-- DMC_POWERUP_DONE (R480) -/
  | dmcPowerupDone (c : ChanIx)
  /-- DMC_FILL (R482) -/
  | dmcFill (m : Master) (c : ChanIx) (v : Word)
  /-- DMC_ENABLE (R480) -/
  | dmcEnable (m : Master) (c : ChanIx) (v : Word)
  /-- DMC_FENCE (R476) -/
  | dmcFence (m : Master) (c : ChanIx) (v : Word)
  /-- DMC_UNFENCE (R478) -/
  | dmcUnfence (m : Master) (c : ChanIx) (v : Word)
  /-- DMC_SREF_ENTER (R484) -/
  | dmcSrefEnter (m : Master) (c : ChanIx) (v : Word)
  /-- DMC_SREF_EXIT (R480) -/
  | dmcSrefExit (m : Master) (c : ChanIx) (v : Word)
  /-- DRAM_REQUEST (R463) -/
  | dramRequest (c : ChanIx)
  /-- RESET_BUSY_CLEAR (R502) -/
  | resetBusyClear (m : Fin 28)
  /-- COLD_RESET (R511) -/
  | coldReset (pin : ColdPin)
  /-- WARM_RESET (R511) -/
  | warmReset (why : WarmWhy)
  /-- ENG_BLOCK_RESET (R513) -/
  | engBlockReset (m : Master) (v : Word)
  /-- SC_BLOCK_RESET (R513) -/
  | scBlockReset (m : Master) (v : Word)
  /-- MAC_BLOCK_RESET (R513) -/
  | macBlockReset (m : Master) (v : Word)
  /-- DMC_BLOCK_RESET (R513) -/
  | dmcBlockReset (m : Master) (v : Word)
  /-- SAP_BLOCK_RESET (R513) -/
  | sapBlockReset (m : Master) (v : Word)
  /-- HIF_BLOCK_RESET (R513) -/
  | hifBlockReset (m : Master) (v : Word)
  /-- FE_BLOCK_RESET (R513) -/
  | feBlockReset (m : Master) (v : Word)
  /-- MIX_BLOCK_RESET (R513) -/
  | mixBlockReset (m : Master) (v : Word)
  /-- BLOCK_RESET_RELEASE (R514) -/
  | blockResetRelease (m : Master) (b : RstIx) (v : Word)
  /-- PORCH_RESET_EXIT (R523) -/
  | porchResetExit (straps : Fin 4) (flash : List (Nat × Byte)) (otp : List (Nat × Word)) (bist : Bool)
  /-- HBOOT_GO (R540) -/
  | hbootGo (m : Master) (v : Word)
  /-- SAFE_FRAME (R529) -/
  | safeFrame (cycles : Nat)
  /-- PE_FAULT (R532) -/
  | peFault (code : BitVec 8) (pc : BitVec 23)
  /-- PCH_FORCE_SAFE (R543) -/
  | pchForceSafe (m : Master) (v : Word)
  /-- SAFE_RELOAD (R537) -/
  | safeReload (m : Master) (v : Word)
  /-- STBY_ENTER (R549) -/
  | stbyEnter (m : Master) (v : Word)
  /-- PCH_THERM_CLEAR (R548) -/
  | pchThermClear (m : Master) (v : Word)
  /-- WATCHDOG_KICK (R545) -/
  | watchdogKick (m : Master) (c : CoreIx) (v : Word)
  /-- GET_ASN (R553) -/
  | getAsn (r : Byte)
  /-- READ_REG (R553) -/
  | readReg (o : BitVec 16)
  /-- FORCE_SAFE (R553) -/
  | forceSafe (pec : Option Byte)
  /-- RESET_MASTER (R554) -/
  | resetMaster (target : Byte) (on : Byte) (pec : Option Byte)
  /-- WARM_RESET_CMD (R553) -/
  | warmResetCmd (pec : Option Byte)
  /-- WAKE (R553) -/
  | wake (pec : Option Byte)
  /-- THERM_CLEAR (R553) -/
  | thermClear (pec : Option Byte)
  /-- EVENT_RING_FLUSH (R565) -/
  | eventRingFlush (u : HostUpd)
  /-- SWTRIG (R566) -/
  | swtrig (m : Master) (v : Word)
  /-- COUNTER_WRAP (R570) -/
  | counterWrap (n : PmcIx) (weight : Nat)
  /-- PMC_CNT_CLEAR (R571) -/
  | pmcCntClear (m : Master) (n : PmcIx) (v : Word)
  /-- PMC_CLR_GRP (R571) -/
  | pmcClrGrp (m : Master) (v : Word)
  /-- MSIX_MOD_EXPIRY (R271) -/
  | msixModExpiry (r : RingIx)
  /-- PAUSE_EXPIRY (R338) -/
  | pauseExpiry (p : PortIx) (cls : Option (Fin 8))
  /-- XOFF_REFRESH (R336) -/
  | xoffRefresh (p : PortIx)
  /-- CONCEAL_HOLD_END (R384) -/
  | concealHoldEnd (x : Fin 1312)
  /-- CONCEAL_RAMP_END (R384) -/
  | concealRampEnd (x : Fin 1312)
  /-- CONCEAL_RESUME_END (R384) -/
  | concealResumeEnd (x : Fin 1312)
  /-- SAP_RATE_MEASURE (R396) -/
  | sapRateMeasure (p : SapIx) (rate : BitVec 26)
  /-- SAP_CLOCK_LOSS (R397) -/
  | sapClockLoss (p : SapIx)
  /-- ASRC_LOCK (R397) -/
  | asrcLock (p : SapIx)
  /-- GAIN_STEP_TIMEOUT (R416) -/
  | gainStepTimeout (j : Fin 1280)
  /-- CE_WRITEBACK (R431) -/
  | ceWriteback (a : Nat)
  /-- SCRUB_LINE (R443) -/
  | scrubLine (l : List (Nat × Nat))
  /-- ROW_SPARE_DONE (R445) -/
  | rowSpareDone (b : Fin 304)
  /-- DMC_FILL_DONE (R482) -/
  | dmcFillDone (c : ChanIx)
  /-- REFRESH_DUE (R466) -/
  | refreshDue (c : ChanIx) (r : RankIx)
  /-- REFRESH_REPAY (R466) -/
  | refreshRepay (c : ChanIx)
  /-- MR4_POLL (R467) -/
  | mr4Poll (c : ChanIx) (v0 : Byte) (v1 : Byte) (r0 : RefRate) (r1 : RefRate)
  /-- WCK2CK_LEVELING (R472) -/
  | wck2ckLeveling (m : Master) (c : ChanIx) (v : Word)
  /-- READ_DQ_CALIBRATION (R472) -/
  | readDqCalibration (m : Master) (c : ChanIx) (v : Word)
  /-- WRITE_READ_COMPARE (R472) -/
  | writeReadCompare (m : Master) (c : ChanIx) (v : Word)
  /-- CA_BUS_TRAINING (R472) -/
  | caBusTraining (m : Master) (c : ChanIx) (v : Word)
  /-- TRAINING_OP_DONE (R472) -/
  | trainingOpDone (c : ChanIx) (fails : Word)
  /-- SLOT_REQ (R473) -/
  | slotReq (m : Master) (c : ChanIx) (v : Word)
  /-- TRAINING_SLOT_OPEN (R473) -/
  | trainingSlotOpen (c : ChanIx)
  /-- COMMIT (R474) -/
  | commit (m : Master) (c : ChanIx) (v : Word)
  /-- END (R474) -/
  | trnEnd (m : Master) (c : ChanIx) (v : Word)
  /-- SLOT_OVERRUN (R474) -/
  | slotOverrun (c : ChanIx)
  /-- PATROL_SCRUB (R483) -/
  | patrolScrub (c : ChanIx) (l : List (Nat × Nat))
  /-- POWER_DOWN_ENTRY (R484) -/
  | powerDownEntry (c : ChanIx) (r : RankIx)
  /-- TARGET_TIMEOUT (R500) -/
  | targetTimeout (t : Fin 37)
  /-- FAB_REJOIN (R501) -/
  | fabRejoin (m : Master) (v : Word)
  /-- STALE_RESPONSE_ABSORB (R502) -/
  | staleResponseAbsorb (m : Fin 28) (id : Fin 64) (t : Fin 64)
  /-- XTAL_RETRY (R508) -/
  | xtalRetry (m : Master) (v : Word)
  /-- MEAS_GO (R510) -/
  | measGo (m : Master) (v : Word)
  /-- MEAS_DONE (R510) -/
  | measDone (khz : Nat)
  /-- NET_PLL_UNLOCK (R509) -/
  | netPllUnlock (p : PortIx)
  /-- WATCHDOG_EXPIRY (R546) -/
  | watchdogExpiry (chans : BitVec 2)
  /-- THERMAL_SAMPLE (R547) -/
  | thermalSample (t : List (BitVec 16))
  /-- OTP_PROGRAM (R539) -/
  | otpProgram (m : Master) (v : Word)
  /-- FLASH_READ (R557) -/
  | flashRead (m : Master) (v : Word)
  /-- FLASH_PROGRAM (R557) -/
  | flashProgram (m : Master) (v : Word)
  /-- FLASH_ERASE_4K (R557) -/
  | flashErase4k (m : Master) (v : Word)
  /-- FLASH_ERASE_64K (R557) -/
  | flashErase64k (m : Master) (v : Word)
  /-- FLASH_OP_DONE (R557) -/
  | flashOpDone (bad : Bool)
  /-- NET_PLL_LOCK (R509) -/
  | netPllLock (p : PortIx)
  /-- WD_CORE_RESET_RELEASE (R546) -/
  | wdCoreResetRelease (c : CoreIx)
  /-- PORCH_SCRUB_LINE (R450) -/
  | porchScrubLine (l : List (Nat × Nat))
  /-- LND_COUNTER_LOAD (R29) -/
  | lndCounterLoad
  /-- MPLL_LOCK (R603) -/
  | mpllLock
  /-- MPLL_UNLOCK (R31) -/
  | mpllUnlock
  /-- TASK_DISPATCH (R215) -/
  | taskDispatch
  /-- HALL_BLOCK_COMPLETE (R173) -/
  | hallBlockComplete
  /-- TASK_COMPLETE (R213) -/
  | taskComplete
  /-- TAKEOVER_COMPLETE (R227) -/
  | takeoverComplete
  /-- TASK_B_COMPLETE (R227) -/
  | taskBComplete
  /-- LORTIS_PARTIAL_SEND (R248) -/
  | lortisPartialSend
  /-- LORTIS_FRAME_RECEIVE (R249) -/
  | lortisFrameReceive
  /-- DIGEST_COMPARE (R255) -/
  | digestCompare
  /-- XLT_INV_DONE (R300) -/
  | xltInvDone
  /-- PCIE_LINK_DOWN (R272) -/
  | pcieLinkDown
  /-- PCIE_FLR (R272) -/
  | pcieFlr
  /-- PCIE_HOT_RESET (R272) -/
  | pcieHotReset
  /-- PCIE_PERST (R593) -/
  | pciePerst
  /-- MEDIA_PACKET_RECEIVE (R371) -/
  | mediaPacketReceive
  /-- FILL_DONE (R435) -/
  | fillDone
  /-- XTAL_FAIL (R508) -/
  | xtalFail
  /-- ROOT_PLL_LOCK (R507) -/
  | rootPllLock
  /-- PCIE_PLL_UNLOCK (R509) -/
  | pciePllUnlock
  /-- CHIP_RESET_EXIT (R512) -/
  | chipResetExit
  /-- CHIP_PG_RISE (R526) -/
  | chipPgRise
  /-- PE_RESTART (R532) -/
  | peRestart
  /-- STANDBY_WAKE (R551) -/
  | standbyWake
  /-- GET_ID (R553) -/
  | getId
  /-- GET_STATUS (R554) -/
  | getStatus
  /-- GET_TEMP (R553) -/
  | getTemp
  /-- GET_EVENT (R553) -/
  | getEvent
  /-- ALERT_RESPONSE (R552) -/
  | alertResponse
  /-- SMB_SCL_TIMEOUT (R591) -/
  | smbSclTimeout
  /-- XTAL_OK_RETURN (R508) -/
  | xtalOkReturn
  /-- PCIE_PLL_LOCK (R509) -/
  | pciePllLock
  /-- PCIE_PERST_N_RISE (R593) -/
  | pciePerstNRise
  deriving DecidableEq, Repr

end Sys2Proof
end

