-- ==== Sys2Proof/Decode.lean ====
section
/-! DEFINITION. Sys2Proof/Decode.lean: the command that a word of the table's bits spells. -/
namespace Sys2Proof

/-- The rows of spec/opcode_table.json give no bits: the block takes commands, not words, so no word spells one. -/
def decodeTableWord (_nbits _w : Nat) : Option Instr := none

end Sys2Proof
end

