-- ==== Sys2Proof/Config.lean ====
section
/-! DEFINITION. Sys2Proof/Config.lean: the free values (what the spec leaves open and does not fix). Each is a constant with no body. -/
namespace Sys2Proof

/-- The n-th free value of the run: nothing constrains it. -/
opaque Config.free : Nat → Nat

/-- The n-th sample of a tone generator since it restarted, by its settings and the render rate (R421, R422): a function of these
alone, the same in every device; the spec fixes its kind and its level and not its samples. -/
opaque Config.tone : List Nat → Nat → Int

/-- The contents of the boot ROM, by offset (R489). -/
opaque Config.rom : Nat → BitVec 8

/-- What porch SRAM holds at an internal address that no PE store has written: the safe kernel, its tables and lines, the porch records
(R527). The spec lays out none of it. -/
opaque Config.porchSram : Nat → BitVec 8

/-- The version of the porch ROM, which GET_ID returns (R553). -/
opaque Config.porchVersion : BitVec 8

end Sys2Proof
end

