-- ==== Sys2Proof/Machine/Bits.lean ====
section
/-! DEFINITION. Sys2Proof/Machine/Bits.lean: bit fields, sign extension, byte order and the sparse maps that registers and memory are kept in. -/
namespace Sys2Proof.Machine

/-- Bits `lo` to `lo + w − 1` of `v` (R2). -/
def bitsOf (v lo w : Nat) : Nat := v / 2 ^ lo % 2 ^ w

/-- `v` with bits `lo` to `lo + w − 1` replaced by the low `w` bits of `x`. -/
def withBits (v lo w x : Nat) : Nat :=
  v % 2 ^ lo + 2 ^ lo * (x % 2 ^ w) + 2 ^ (lo + w) * (v / 2 ^ (lo + w))

/-- Bit `i` of `v`. -/
def bitOf (v i : Nat) : Bool := v / 2 ^ i % 2 == 1

/-- 1 for true, 0 for false. -/
def b2n (b : Bool) : Nat := if b then 1 else 0

/-- The two's-complement value of the low `w` bits of `n`. -/
def signedOf (w n : Nat) : Int :=
  if n % 2 ^ w < 2 ^ (w - 1) then ((n % 2 ^ w : Nat) : Int) else ((n % 2 ^ w : Nat) : Int) - ((2 ^ w : Nat) : Int)

/-- The low `w` bits of the two's complement of `z`. -/
def unsignedOf (w : Nat) (z : Int) : Nat := (z % ((2 ^ w : Nat) : Int)).toNat

/-- `z` saturated to a signed width `w`. -/
def satTo (w : Nat) (z : Int) : Int :=
  if ((2 ^ (w - 1) : Nat) : Int) ≤ z then ((2 ^ (w - 1) : Nat) : Int) - 1
  else if z < -((2 ^ (w - 1) : Nat) : Int) then -((2 ^ (w - 1) : Nat) : Int) else z

/-- Whether `z` lies outside the signed width `w`. -/
def outside (w : Nat) (z : Int) : Bool :=
  decide (((2 ^ (w - 1) : Nat) : Int) ≤ z) || decide (z < -((2 ^ (w - 1) : Nat) : Int))

/-- Little-endian bytes of `v`, `n` of them (R3). -/
def bytesOf : Nat → Nat → List Byte
  | 0, _ => []
  | n + 1, v => BitVec.ofNat 8 v :: bytesOf n (v / 256)

/-- The value of little-endian bytes (R3). -/
def ofBytes : List Byte → Nat
  | [] => 0
  | b :: t => b.toNat + 256 * ofBytes t

/-- The value of bytes in network order (R3). -/
def ofNet (l : List Byte) : Nat := l.foldl (fun a b => 256 * a + b.toNat) 0

/-- `n` bytes of `v` in network order (R3). -/
def netOf (n v : Nat) : List Byte := (bytesOf n v).reverse

/-- Bytes `i` to `i + n − 1` of `l`, short at its end. -/
def slice (l : List Byte) (i n : Nat) : List Byte := (l.drop i).take n

/-- The positions of the bits set in the low `w` bits of `m`, ascending. -/
def bitList (w m : Nat) : List Nat := (List.range w).filter (bitOf m)

/-- The number of the bits set in the low `w` bits of `m`. -/
def popCount (w m : Nat) : Nat := (bitList w m).length

/-! ### Sparse maps

A sparse map lists, by rising key, the keys whose value differs from what an unlisted key reads as. -/

/-- The value at `k`. -/
def sget {α : Type} (dflt : Nat → α) : List (Nat × α) → Nat → α
  | [], k => dflt k
  | (j, v) :: t, k => if j = k then v else sget dflt t k

/-- The map without an entry at `k`. -/
def serase {α : Type} : List (Nat × α) → Nat → List (Nat × α)
  | [], _ => []
  | (j, v) :: t, k => if j = k then serase t k else (j, v) :: serase t k

/-- The map with `v` put at `k` in key order. -/
def sput {α : Type} : List (Nat × α) → Nat → α → List (Nat × α)
  | [], k, v => [(k, v)]
  | (j, w) :: t, k, v =>
    if k < j then (k, v) :: (j, w) :: t
    else if j = k then (k, v) :: t
    else (j, w) :: sput t k v

/-- The map with the value at `k` set to `v`: an entry equal to the default is not listed. -/
def sset {α : Type} [DecidableEq α] (dflt : Nat → α) (m : List (Nat × α)) (k : Nat) (v : α) : List (Nat × α) :=
  if v = dflt k then serase m k else sput m k v

/-- Keys strictly rising, each above `lo` when one is given, and no entry equal to the default. -/
def swf {α : Type} [DecidableEq α] (dflt : Nat → α) : Option Nat → List (Nat × α) → Bool
  | _, [] => true
  | lo, (k, v) :: t =>
    (match lo with
      | none => true
      | some b => decide (b < k)) && decide (v ≠ dflt k) && swf dflt (some k) t

end Sys2Proof.Machine
end

