-- ==== Sys2Proof/Machine/RegNames.lean ====
section
/-! DEFINITION. Sys2Proof/Machine/RegNames.lean: the addresses of the registers in the register space (R577 and each chapter's offset table) and their fields by name (R9).
`u` is the number of the block (channel, port, engine), `i` the index within it. A pair is named by its low half. -/
namespace Sys2Proof.Machine

/-- A field of a register: the register's offset in the register space, the field's lowest bit, its width. -/
structure Fld where
  a : Nat
  lo : Nat
  w : Nat
  deriving DecidableEq, Repr

abbrev Adr.MAC0_WAKE_DATA (p i : Nat) : Nat := 0x0101100 + 0x100 * p + 4 * i
abbrev Adr.MAC0_WAKE_MASK (p i : Nat) : Nat := 0x0101180 + 0x100 * p + 4 * i
abbrev Adr.MAC0_WAKE_LEN (p : Nat) : Nat := 0x0101190 + 0x100 * p
abbrev Adr.MAC_FLT_WORD (p n j : Nat) : Nat := 0x0104000 + 0x10000 * p + 0x40 * n + 4 * j
abbrev Adr.LND_CTRL : Nat := 0x0000000
abbrev LND_CTRL.RUN : Fld := ⟨Adr.LND_CTRL, 0, 1⟩
abbrev LND_CTRL.MODE : Fld := ⟨Adr.LND_CTRL, 1, 1⟩
abbrev LND_CTRL.RATE : Fld := ⟨Adr.LND_CTRL, 2, 1⟩
abbrev LND_CTRL.PERIOD_LEN : Fld := ⟨Adr.LND_CTRL, 4, 2⟩
abbrev LND_CTRL.TB_SEL : Fld := ⟨Adr.LND_CTRL, 8, 2⟩
abbrev LND_CTRL.CTRL_INTERVAL : Fld := ⟨Adr.LND_CTRL, 16, 6⟩
abbrev LND_CTRL.STEP_TOL : Fld := ⟨Adr.LND_CTRL, 24, 4⟩
abbrev Adr.LND_STATUS : Nat := 0x0000004
abbrev LND_STATUS.RUNNING : Fld := ⟨Adr.LND_STATUS, 0, 1⟩
abbrev LND_STATUS.WAIT_LOCK : Fld := ⟨Adr.LND_STATUS, 1, 1⟩
abbrev LND_STATUS.SHADOW_BUSY : Fld := ⟨Adr.LND_STATUS, 8, 1⟩
abbrev LND_STATUS.MISSED : Fld := ⟨Adr.LND_STATUS, 9, 1⟩
abbrev LND_STATUS.ARM_REFUSED : Fld := ⟨Adr.LND_STATUS, 10, 1⟩
abbrev LND_STATUS.DISARM_LATE : Fld := ⟨Adr.LND_STATUS, 11, 1⟩
abbrev LND_STATUS.RESYNC : Fld := ⟨Adr.LND_STATUS, 12, 1⟩
abbrev LND_STATUS.CFG_LOCKED : Fld := ⟨Adr.LND_STATUS, 13, 1⟩
abbrev LND_STATUS.LANDING_FAULT : Fld := ⟨Adr.LND_STATUS, 14, 1⟩
abbrev Adr.LND_PERIOD_LO : Nat := 0x0000008
abbrev Adr.LND_TARGET_LO : Nat := 0x0000010
abbrev Adr.LND_ARM_LO : Nat := 0x0000018
abbrev Adr.LND_DISARM_LO : Nat := 0x0000020
abbrev Adr.LND_ARMED_LO : Nat := 0x0000028
abbrev Adr.LND_MISSED_LO : Nat := 0x0000030
abbrev Adr.LND_BUSY_LO : Nat := 0x0000038
abbrev Adr.LND_LANDED_PERIOD_LO : Nat := 0x0000040
abbrev Adr.LND_LANDED_MASK_LO : Nat := 0x0000048
abbrev Adr.LND_SAMPLE_LO : Nat := 0x0000050
abbrev Adr.LND_MPLL_CFG : Nat := 0x0000058
abbrev LND_MPLL_CFG.BW : Fld := ⟨Adr.LND_MPLL_CFG, 0, 3⟩
abbrev LND_MPLL_CFG.SLEW_PPM : Fld := ⟨Adr.LND_MPLL_CFG, 8, 8⟩
abbrev Adr.LND_MPLL_STATUS : Nat := 0x000005C
abbrev LND_MPLL_STATUS.LOCK : Fld := ⟨Adr.LND_MPLL_STATUS, 0, 1⟩
abbrev LND_MPLL_STATUS.HOLDOVER : Fld := ⟨Adr.LND_MPLL_STATUS, 1, 1⟩
abbrev LND_MPLL_STATUS.PHASE_ERR : Fld := ⟨Adr.LND_MPLL_STATUS, 16, 16⟩
abbrev Adr.LND_BANK_TARGET_LO (i : Nat) : Nat := 0x0000100 + 8 * i
abbrev Adr.CLK_CTRL : Nat := 0x0010000
abbrev CLK_CTRL.XTAL_RETRY : Fld := ⟨Adr.CLK_CTRL, 0, 1⟩
abbrev CLK_CTRL.MEAS_GO : Fld := ⟨Adr.CLK_CTRL, 1, 1⟩
abbrev CLK_CTRL.MEAS_SEL : Fld := ⟨Adr.CLK_CTRL, 8, 4⟩
abbrev CLK_CTRL.MEAS_IDX : Fld := ⟨Adr.CLK_CTRL, 12, 3⟩
abbrev Adr.CLK_STATUS : Nat := 0x0010004
abbrev CLK_STATUS.XTAL_OK : Fld := ⟨Adr.CLK_STATUS, 0, 1⟩
abbrev CLK_STATUS.ON_BACKUP : Fld := ⟨Adr.CLK_STATUS, 1, 1⟩
abbrev CLK_STATUS.ROOT_LOCK : Fld := ⟨Adr.CLK_STATUS, 2, 1⟩
abbrev CLK_STATUS.PCIE_LOCK : Fld := ⟨Adr.CLK_STATUS, 3, 1⟩
abbrev CLK_STATUS.NET_LOCK : Fld := ⟨Adr.CLK_STATUS, 4, 4⟩
abbrev CLK_STATUS.MEAS_BUSY : Fld := ⟨Adr.CLK_STATUS, 8, 1⟩
abbrev CLK_STATUS.XTAL_FAIL : Fld := ⟨Adr.CLK_STATUS, 16, 1⟩
abbrev CLK_STATUS.ROOT_UNLOCK : Fld := ⟨Adr.CLK_STATUS, 17, 1⟩
abbrev CLK_STATUS.IGNORED : Fld := ⟨Adr.CLK_STATUS, 18, 1⟩
abbrev Adr.CLK_MEAS_RESULT : Nat := 0x0010008
abbrev Adr.CLK_XTAL_FAIL_CNT : Nat := 0x001000C
abbrev Adr.CLK_ROOT_UNLOCK_CNT : Nat := 0x0010010
abbrev Adr.RST_CTRL : Nat := 0x0020000
abbrev RST_CTRL.WARM : Fld := ⟨Adr.RST_CTRL, 0, 1⟩
abbrev Adr.RST_CAUSE : Nat := 0x0020004
abbrev RST_CAUSE.CAUSE : Fld := ⟨Adr.RST_CAUSE, 0, 4⟩
abbrev RST_CAUSE.WARM_CNT : Fld := ⟨Adr.RST_CAUSE, 8, 16⟩
abbrev Adr.RST_STATUS : Nat := 0x0020008
abbrev RST_STATUS.REFUSED : Fld := ⟨Adr.RST_STATUS, 0, 1⟩
abbrev RST_STATUS.IGNORED : Fld := ⟨Adr.RST_STATUS, 1, 1⟩
abbrev Adr.RST_IGNORED_CNT : Nat := 0x002000C
abbrev Adr.RST_ENG : Nat := 0x0020010
abbrev RST_ENG.ENG : Fld := ⟨Adr.RST_ENG, 0, 17⟩
abbrev Adr.RST_ENG_BUSY : Nat := 0x0020040
abbrev RST_ENG_BUSY.BUSY : Fld := ⟨Adr.RST_ENG_BUSY, 0, 17⟩
abbrev Adr.RST_SC : Nat := 0x0020014
abbrev RST_SC.SC : Fld := ⟨Adr.RST_SC, 0, 2⟩
abbrev Adr.RST_SC_BUSY : Nat := 0x0020044
abbrev RST_SC_BUSY.BUSY : Fld := ⟨Adr.RST_SC_BUSY, 0, 2⟩
abbrev Adr.RST_MAC : Nat := 0x0020018
abbrev RST_MAC.MAC : Fld := ⟨Adr.RST_MAC, 0, 4⟩
abbrev Adr.RST_MAC_BUSY : Nat := 0x0020048
abbrev RST_MAC_BUSY.BUSY : Fld := ⟨Adr.RST_MAC_BUSY, 0, 4⟩
abbrev Adr.RST_DMC : Nat := 0x002001C
abbrev RST_DMC.DMC : Fld := ⟨Adr.RST_DMC, 0, 8⟩
abbrev Adr.RST_DMC_BUSY : Nat := 0x002004C
abbrev RST_DMC_BUSY.BUSY : Fld := ⟨Adr.RST_DMC_BUSY, 0, 8⟩
abbrev Adr.RST_SAP : Nat := 0x0020020
abbrev RST_SAP.SAP : Fld := ⟨Adr.RST_SAP, 0, 8⟩
abbrev Adr.RST_SAP_BUSY : Nat := 0x0020050
abbrev RST_SAP_BUSY.BUSY : Fld := ⟨Adr.RST_SAP_BUSY, 0, 8⟩
abbrev Adr.RST_MISC : Nat := 0x0020024
abbrev RST_MISC.MISC : Fld := ⟨Adr.RST_MISC, 0, 3⟩
abbrev Adr.RST_MISC_BUSY : Nat := 0x0020054
abbrev RST_MISC_BUSY.BUSY : Fld := ⟨Adr.RST_MISC_BUSY, 0, 3⟩
abbrev Adr.EVC_STATUS : Nat := 0x0030000
abbrev EVC_STATUS.WAITING : Fld := ⟨Adr.EVC_STATUS, 0, 1⟩
abbrev Adr.EVC_SWTRIG : Nat := 0x0030004
abbrev EVC_SWTRIG.MASK : Fld := ⟨Adr.EVC_SWTRIG, 0, 4⟩
abbrev EVC_SWTRIG.DETAIL : Fld := ⟨Adr.EVC_SWTRIG, 16, 16⟩
abbrev Adr.EVC_OVF_CNT : Nat := 0x0030008
abbrev Adr.EVC_SC_CLAIM (i : Nat) : Nat := 0x003000C + 4 * i
abbrev EVC_SC_CLAIM.SOURCE (i : Nat) : Fld := ⟨Adr.EVC_SC_CLAIM i, 0, 9⟩
abbrev Adr.EVC_PEND (i : Nat) : Nat := 0x0030100 + 4 * i
abbrev Adr.EVC_LEVEL (i : Nat) : Nat := 0x0030120 + 4 * i
abbrev Adr.EVC_SRC_CFG (i : Nat) : Nat := 0x0030400 + 4 * i
abbrev EVC_SRC_CFG.EN (i : Nat) : Fld := ⟨Adr.EVC_SRC_CFG i, 0, 1⟩
abbrev EVC_SRC_CFG.RING (i : Nat) : Fld := ⟨Adr.EVC_SRC_CFG i, 1, 1⟩
abbrev EVC_SRC_CFG.PORCH (i : Nat) : Fld := ⟨Adr.EVC_SRC_CFG i, 2, 1⟩
abbrev EVC_SRC_CFG.MSIX (i : Nat) : Fld := ⟨Adr.EVC_SRC_CFG i, 3, 1⟩
abbrev EVC_SRC_CFG.SC0 (i : Nat) : Fld := ⟨Adr.EVC_SRC_CFG i, 4, 1⟩
abbrev EVC_SRC_CFG.SC1 (i : Nat) : Fld := ⟨Adr.EVC_SRC_CFG i, 5, 1⟩
abbrev EVC_SRC_CFG.VEC (i : Nat) : Fld := ⟨Adr.EVC_SRC_CFG i, 8, 6⟩
abbrev EVC_SRC_CFG.KIND (i : Nat) : Fld := ⟨Adr.EVC_SRC_CFG i, 31, 1⟩
abbrev Adr.PMC_PERM_ENG : Nat := 0x0040000
abbrev PMC_PERM_ENG.GROUPS : Fld := ⟨Adr.PMC_PERM_ENG, 0, 24⟩
abbrev Adr.PMC_PERM_HOST : Nat := 0x0040004
abbrev PMC_PERM_HOST.GROUPS : Fld := ⟨Adr.PMC_PERM_HOST, 0, 24⟩
abbrev Adr.PMC_MIRROR : Nat := 0x0040008
abbrev PMC_MIRROR.EN : Fld := ⟨Adr.PMC_MIRROR, 0, 1⟩
abbrev PMC_MIRROR.BASE : Fld := ⟨Adr.PMC_MIRROR, 12, 20⟩
abbrev Adr.PMC_CLR_GRP : Nat := 0x004000C
abbrev PMC_CLR_GRP.GROUP : Fld := ⟨Adr.PMC_CLR_GRP, 0, 5⟩
abbrev Adr.PMC_STATUS : Nat := 0x0040010
abbrev PMC_STATUS.WRAP : Fld := ⟨Adr.PMC_STATUS, 0, 1⟩
abbrev PMC_STATUS.MIRROR_ERR : Fld := ⟨Adr.PMC_STATUS, 1, 1⟩
abbrev Adr.PMC_MODE (i : Nat) : Nat := 0x0040040 + 4 * i
abbrev Adr.PMC_WRAP (i : Nat) : Nat := 0x0040080 + 4 * i
abbrev Adr.PMC_CNT_LO (i : Nat) : Nat := 0x0041000 + 8 * i
abbrev Adr.TSK_CTRL : Nat := 0x0050000
abbrev TSK_CTRL.RUN : Fld := ⟨Adr.TSK_CTRL, 0, 1⟩
abbrev TSK_CTRL.SPARE_ENG : Fld := ⟨Adr.TSK_CTRL, 8, 5⟩
abbrev TSK_CTRL.ADD_SPARE : Fld := ⟨Adr.TSK_CTRL, 13, 1⟩
abbrev TSK_CTRL.UNSHED : Fld := ⟨Adr.TSK_CTRL, 16, 5⟩
abbrev TSK_CTRL.UNSHED_GO : Fld := ⟨Adr.TSK_CTRL, 21, 1⟩
abbrev Adr.TSK_CFG : Nat := 0x0050004
abbrev TSK_CFG.CLASS_BUDGET : Fld := ⟨Adr.TSK_CFG, 0, 8⟩
abbrev TSK_CFG.LATE_ABORT : Fld := ⟨Adr.TSK_CFG, 8, 1⟩
abbrev TSK_CFG.RETRY : Fld := ⟨Adr.TSK_CFG, 9, 1⟩
abbrev TSK_CFG.AUTO_SHED : Fld := ⟨Adr.TSK_CFG, 10, 1⟩
abbrev Adr.TSK_STATUS : Nat := 0x0050008
abbrev TSK_STATUS.RUNNING : Fld := ⟨Adr.TSK_STATUS, 0, 1⟩
abbrev TSK_STATUS.TAKEOVER : Fld := ⟨Adr.TSK_STATUS, 1, 1⟩
abbrev TSK_STATUS.ORPHAN : Fld := ⟨Adr.TSK_STATUS, 2, 5⟩
abbrev TSK_STATUS.CFG_LOCKED : Fld := ⟨Adr.TSK_STATUS, 7, 1⟩
abbrev Adr.TSK_POOL_BASE : Nat := 0x005000C
abbrev TSK_POOL_BASE.BASE : Fld := ⟨Adr.TSK_POOL_BASE, 6, 26⟩
abbrev Adr.TSK_POOL_SIZE : Nat := 0x0050010
abbrev TSK_POOL_SIZE.SIZE : Fld := ⟨Adr.TSK_POOL_SIZE, 0, 15⟩
abbrev Adr.TSK_RECOVERY : Nat := 0x0050014
abbrev TSK_RECOVERY.TASK_A : Fld := ⟨Adr.TSK_RECOVERY, 0, 14⟩
abbrev TSK_RECOVERY.TASK_B : Fld := ⟨Adr.TSK_RECOVERY, 16, 14⟩
abbrev Adr.TSK_SPARE : Nat := 0x0050018
abbrev TSK_SPARE.ENG : Fld := ⟨Adr.TSK_SPARE, 0, 5⟩
abbrev TSK_SPARE.NONE : Fld := ⟨Adr.TSK_SPARE, 5, 1⟩
abbrev Adr.TSK_SHED : Nat := 0x005001C
abbrev TSK_SHED.STEP : Fld := ⟨Adr.TSK_SHED, 0, 5⟩
abbrev Adr.TSK_VERR : Nat := 0x0050020
abbrev TSK_VERR.INDEX : Fld := ⟨Adr.TSK_VERR, 0, 14⟩
abbrev TSK_VERR.CODE : Fld := ⟨Adr.TSK_VERR, 16, 3⟩
abbrev Adr.TSK_CLOG_BASE : Nat := 0x0050024
abbrev TSK_CLOG_BASE.BASE : Fld := ⟨Adr.TSK_CLOG_BASE, 4, 28⟩
abbrev Adr.TSK_CLOG_CFG : Nat := 0x0050028
abbrev TSK_CLOG_CFG.SIZE_LOG2 : Fld := ⟨Adr.TSK_CLOG_CFG, 0, 4⟩
abbrev TSK_CLOG_CFG.WR : Fld := ⟨Adr.TSK_CLOG_CFG, 16, 16⟩
abbrev Adr.TSK_CLOG_RD : Nat := 0x005002C
abbrev TSK_CLOG_RD.RD : Fld := ⟨Adr.TSK_CLOG_RD, 0, 16⟩
abbrev Adr.TSK_CLOG_DROP_CNT : Nat := 0x0050030
abbrev Adr.TSK_TMPL_EN_LO : Nat := 0x0050038
abbrev Adr.TSK_OVERBUDGET_CNT : Nat := 0x0050080
abbrev Adr.TSK_OVERRUN_CNT : Nat := 0x0050084
abbrev Adr.TSK_DEPERR_CNT : Nat := 0x0050088
abbrev Adr.TSK_TAKEOVER_CNT : Nat := 0x005008C
abbrev Adr.TSK_TK_CYCLES : Nat := 0x00500B0
abbrev Adr.TSK_CLIMIT (i : Nat) : Nat := 0x0050040 + 4 * i
abbrev Adr.TSK_READY (i : Nat) : Nat := 0x0050050 + 4 * i
abbrev TSK_READY.DEPTH (i : Nat) : Fld := ⟨Adr.TSK_READY i, 0, 15⟩
abbrev Adr.TSK_OLDEST (i : Nat) : Nat := 0x0050060 + 4 * i
abbrev Adr.TSK_LATE (i : Nat) : Nat := 0x0050070 + 4 * i
abbrev Adr.TSK_SLOT_ENG (i : Nat) : Nat := 0x0050090 + 4 * i
abbrev TSK_SLOT_ENG.ENG0 (i : Nat) : Fld := ⟨Adr.TSK_SLOT_ENG i, 0, 5⟩
abbrev TSK_SLOT_ENG.ENG1 (i : Nat) : Fld := ⟨Adr.TSK_SLOT_ENG i, 8, 5⟩
abbrev TSK_SLOT_ENG.ENG2 (i : Nat) : Fld := ⟨Adr.TSK_SLOT_ENG i, 16, 5⟩
abbrev TSK_SLOT_ENG.ENG3 (i : Nat) : Fld := ⟨Adr.TSK_SLOT_ENG i, 24, 5⟩
abbrev Adr.TSK_FOSTER (i : Nat) : Nat := 0x00500A0 + 4 * i
abbrev TSK_FOSTER.SLOT0 (i : Nat) : Fld := ⟨Adr.TSK_FOSTER i, 0, 4⟩
abbrev TSK_FOSTER.SLOT1 (i : Nat) : Fld := ⟨Adr.TSK_FOSTER i, 4, 4⟩
abbrev TSK_FOSTER.SLOT2 (i : Nat) : Fld := ⟨Adr.TSK_FOSTER i, 8, 4⟩
abbrev TSK_FOSTER.SLOT3 (i : Nat) : Fld := ⟨Adr.TSK_FOSTER i, 12, 4⟩
abbrev TSK_FOSTER.SLOT4 (i : Nat) : Fld := ⟨Adr.TSK_FOSTER i, 16, 4⟩
abbrev TSK_FOSTER.SLOT5 (i : Nat) : Fld := ⟨Adr.TSK_FOSTER i, 20, 4⟩
abbrev TSK_FOSTER.SLOT6 (i : Nat) : Fld := ⟨Adr.TSK_FOSTER i, 24, 4⟩
abbrev TSK_FOSTER.SLOT7 (i : Nat) : Fld := ⟨Adr.TSK_FOSTER i, 28, 4⟩
abbrev Adr.TSK_ENG_BUSY0 (i : Nat) : Nat := 0x0050100 + 8 * i
abbrev Adr.TSK_ENG_BUSY (i : Nat) : Nat := 0x0050104 + 8 * i
abbrev Adr.TSK_HISTA (i : Nat) : Nat := 0x0050200 + 4 * i
abbrev Adr.TSK_HISTB (i : Nat) : Nat := 0x0050240 + 4 * i
abbrev Adr.TSK_OBJPRI (i : Nat) : Nat := 0x0050300 + 4 * i
abbrev TSK_OBJPRI.PRI0 (i : Nat) : Fld := ⟨Adr.TSK_OBJPRI i, 0, 4⟩
abbrev TSK_OBJPRI.PRI1 (i : Nat) : Fld := ⟨Adr.TSK_OBJPRI i, 4, 4⟩
abbrev TSK_OBJPRI.PRI2 (i : Nat) : Fld := ⟨Adr.TSK_OBJPRI i, 8, 4⟩
abbrev TSK_OBJPRI.PRI3 (i : Nat) : Fld := ⟨Adr.TSK_OBJPRI i, 12, 4⟩
abbrev TSK_OBJPRI.PRI4 (i : Nat) : Fld := ⟨Adr.TSK_OBJPRI i, 16, 4⟩
abbrev TSK_OBJPRI.PRI5 (i : Nat) : Fld := ⟨Adr.TSK_OBJPRI i, 20, 4⟩
abbrev TSK_OBJPRI.PRI6 (i : Nat) : Fld := ⟨Adr.TSK_OBJPRI i, 24, 4⟩
abbrev TSK_OBJPRI.PRI7 (i : Nat) : Fld := ⟨Adr.TSK_OBJPRI i, 28, 4⟩
abbrev Adr.TSK_TMPL_BASE (i : Nat) : Nat := 0x0050400 + 0x10 * i
abbrev TSK_TMPL_BASE.BASE (i : Nat) : Fld := ⟨Adr.TSK_TMPL_BASE i, 0, 14⟩
abbrev Adr.TSK_TMPL_COUNT (i : Nat) : Nat := 0x0050404 + 0x10 * i
abbrev TSK_TMPL_COUNT.COUNT (i : Nat) : Fld := ⟨Adr.TSK_TMPL_COUNT i, 0, 15⟩
abbrev Adr.TSK_TMPL_CFG (i : Nat) : Nat := 0x0050408 + 0x10 * i
abbrev TSK_TMPL_CFG.DIV (i : Nat) : Fld := ⟨Adr.TSK_TMPL_CFG i, 0, 6⟩
abbrev TSK_TMPL_CFG.OFS (i : Nat) : Fld := ⟨Adr.TSK_TMPL_CFG i, 6, 6⟩
abbrev TSK_TMPL_CFG.BLOCK_OFS (i : Nat) : Fld := ⟨Adr.TSK_TMPL_CFG i, 12, 3⟩
abbrev TSK_TMPL_CFG.TRIG (i : Nat) : Fld := ⟨Adr.TSK_TMPL_CFG i, 15, 1⟩
abbrev TSK_TMPL_CFG.DL (i : Nat) : Fld := ⟨Adr.TSK_TMPL_CFG i, 16, 8⟩
abbrev TSK_TMPL_CFG.PHASE (i : Nat) : Fld := ⟨Adr.TSK_TMPL_CFG i, 24, 2⟩
abbrev TSK_TMPL_CFG.HIST (i : Nat) : Fld := ⟨Adr.TSK_TMPL_CFG i, 26, 1⟩
abbrev Adr.TSK_TMPL_STATUS (i : Nat) : Nat := 0x005040C + 0x10 * i
abbrev TSK_TMPL_STATUS.PENDING (i : Nat) : Fld := ⟨Adr.TSK_TMPL_STATUS i, 0, 15⟩
abbrev TSK_TMPL_STATUS.LATE (i : Nat) : Fld := ⟨Adr.TSK_TMPL_STATUS i, 15, 1⟩
abbrev TSK_TMPL_STATUS.BLOCK (i : Nat) : Fld := ⟨Adr.TSK_TMPL_STATUS i, 16, 16⟩
abbrev Adr.HIF_CTRL : Nat := 0x0060000
abbrev HIF_CTRL.BAR4_EN : Fld := ⟨Adr.HIF_CTRL, 0, 1⟩
abbrev HIF_CTRL.BAR4_WR_EN : Fld := ⟨Adr.HIF_CTRL, 1, 1⟩
abbrev Adr.HIF_STATUS : Nat := 0x0060004
abbrev HIF_STATUS.LINK_UP : Fld := ⟨Adr.HIF_STATUS, 0, 1⟩
abbrev HIF_STATUS.WIDTH : Fld := ⟨Adr.HIF_STATUS, 1, 2⟩
abbrev HIF_STATUS.SPEED : Fld := ⟨Adr.HIF_STATUS, 3, 3⟩
abbrev HIF_STATUS.FW_OWNER : Fld := ⟨Adr.HIF_STATUS, 6, 1⟩
abbrev HIF_STATUS.CFG_LOCKED : Fld := ⟨Adr.HIF_STATUS, 7, 1⟩
abbrev HIF_STATUS.JRNL_UE : Fld := ⟨Adr.HIF_STATUS, 8, 1⟩
abbrev HIF_STATUS.JRNL_LOST : Fld := ⟨Adr.HIF_STATUS, 9, 1⟩
abbrev HIF_STATUS.EVRING_FAULT : Fld := ⟨Adr.HIF_STATUS, 10, 1⟩
abbrev Adr.HIF_JRNL_BASE0 : Nat := 0x0060008
abbrev HIF_JRNL_BASE0.BASE : Fld := ⟨Adr.HIF_JRNL_BASE0, 16, 16⟩
abbrev Adr.HIF_JRNL_BASE1 : Nat := 0x006000C
abbrev HIF_JRNL_BASE1.BASE : Fld := ⟨Adr.HIF_JRNL_BASE1, 16, 16⟩
abbrev Adr.HIF_JRNL_CFG : Nat := 0x0060010
abbrev HIF_JRNL_CFG.RING_KIB_LOG2 : Fld := ⟨Adr.HIF_JRNL_CFG, 0, 4⟩
abbrev Adr.HIF_FW_PEND : Nat := 0x0060014
abbrev HIF_FW_PEND.RINGS : Fld := ⟨Adr.HIF_FW_PEND, 0, 8⟩
abbrev Adr.HIF_FW_RESULT_LO : Nat := 0x0060018
abbrev Adr.HIF_FW_DONE : Nat := 0x0060020
abbrev HIF_FW_DONE.RING : Fld := ⟨Adr.HIF_FW_DONE, 0, 3⟩
abbrev HIF_FW_DONE.STATUS : Fld := ⟨Adr.HIF_FW_DONE, 16, 16⟩
abbrev Adr.HIF_FW_STRAY_CNT : Nat := 0x0060024
abbrev Adr.HIF_JRNL_UE_CNT : Nat := 0x0060028
abbrev Adr.HIF_BAR4_REFUSED_CNT : Nat := 0x006002C
abbrev Adr.HIF_LINKDOWN_CNT : Nat := 0x0060030
abbrev Adr.HIF_EVFAULT_ADDR_LO : Nat := 0x0060040
abbrev Adr.HIF_EVFAULT_INFO : Nat := 0x0060048
abbrev HIF_EVFAULT_INFO.CAUSE : Fld := ⟨Adr.HIF_EVFAULT_INFO, 0, 8⟩
abbrev HIF_EVFAULT_INFO.CTX : Fld := ⟨Adr.HIF_EVFAULT_INFO, 8, 4⟩
abbrev HIF_EVFAULT_INFO.FSEQ : Fld := ⟨Adr.HIF_EVFAULT_INFO, 16, 16⟩
abbrev Adr.HIF_RING_BASE_LO (i : Nat) : Nat := 0x0060800 + 0x40 * i
abbrev Adr.HIF_RING_CFG (i : Nat) : Nat := 0x0060808 + 0x40 * i
abbrev HIF_RING_CFG.SIZE (i : Nat) : Fld := ⟨Adr.HIF_RING_CFG i, 0, 4⟩
abbrev HIF_RING_CFG.CTX (i : Nat) : Fld := ⟨Adr.HIF_RING_CFG i, 4, 4⟩
abbrev HIF_RING_CFG.CQ (i : Nat) : Fld := ⟨Adr.HIF_RING_CFG i, 8, 3⟩
abbrev HIF_RING_CFG.PORT (i : Nat) : Fld := ⟨Adr.HIF_RING_CFG i, 11, 2⟩
abbrev HIF_RING_CFG.QUEUE (i : Nat) : Fld := ⟨Adr.HIF_RING_CFG i, 13, 5⟩
abbrev HIF_RING_CFG.VEC (i : Nat) : Fld := ⟨Adr.HIF_RING_CFG i, 18, 6⟩
abbrev HIF_RING_CFG.MOD (i : Nat) : Fld := ⟨Adr.HIF_RING_CFG i, 24, 8⟩
abbrev Adr.HIF_RING_CTRL (i : Nat) : Nat := 0x006080C + 0x40 * i
abbrev HIF_RING_CTRL.EN (i : Nat) : Fld := ⟨Adr.HIF_RING_CTRL i, 0, 1⟩
abbrev HIF_RING_CTRL.RESUME (i : Nat) : Fld := ⟨Adr.HIF_RING_CTRL i, 1, 1⟩
abbrev HIF_RING_CTRL.ABORT (i : Nat) : Fld := ⟨Adr.HIF_RING_CTRL i, 2, 1⟩
abbrev Adr.HIF_RING_STATUS (i : Nat) : Nat := 0x0060810 + 0x40 * i
abbrev HIF_RING_STATUS.STATE (i : Nat) : Fld := ⟨Adr.HIF_RING_STATUS i, 0, 3⟩
abbrev HIF_RING_STATUS.DRAINING (i : Nat) : Fld := ⟨Adr.HIF_RING_STATUS i, 3, 1⟩
abbrev HIF_RING_STATUS.ERR (i : Nat) : Fld := ⟨Adr.HIF_RING_STATUS i, 8, 4⟩
abbrev Adr.HIF_RING_HOST_IDX (i : Nat) : Nat := 0x0060814 + 0x40 * i
abbrev Adr.HIF_RING_DEV_IDX (i : Nat) : Nat := 0x0060818 + 0x40 * i
abbrev Adr.HIF_RING_DISCARD_CNT (i : Nat) : Nat := 0x006081C + 0x40 * i
abbrev Adr.HIF_RING_LAST_ACCEPTED_LO (i : Nat) : Nat := 0x0060820 + 0x40 * i
abbrev Adr.HIF_RING_LAST_COMPLETED_LO (i : Nat) : Nat := 0x0060828 + 0x40 * i
abbrev Adr.HIF_RING_FW_JADDR (i : Nat) : Nat := 0x0060830 + 0x40 * i
abbrev Adr.HIF_MSIX_ADDR_LO (i : Nat) : Nat := 0x0068000 + 0x10 * i
abbrev Adr.HIF_MSIX_ADDR_HI (i : Nat) : Nat := 0x0068004 + 0x10 * i
abbrev Adr.HIF_MSIX_DATA (i : Nat) : Nat := 0x0068008 + 0x10 * i
abbrev Adr.HIF_MSIX_CTRL (i : Nat) : Nat := 0x006800C + 0x10 * i
abbrev HIF_MSIX_CTRL.MASK (i : Nat) : Fld := ⟨Adr.HIF_MSIX_CTRL i, 0, 1⟩
abbrev Adr.HIF_MSIX_PBA (i : Nat) : Nat := 0x0069000 + 4 * i
abbrev Adr.XLT_STATUS : Nat := 0x0070000
abbrev XLT_STATUS.INV_BUSY : Fld := ⟨Adr.XLT_STATUS, 0, 1⟩
abbrev XLT_STATUS.CFG_ERR : Fld := ⟨Adr.XLT_STATUS, 1, 1⟩
abbrev Adr.XLT_VERR : Nat := 0x0070004
abbrev XLT_VERR.CTX : Fld := ⟨Adr.XLT_VERR, 0, 4⟩
abbrev XLT_VERR.CODE : Fld := ⟨Adr.XLT_VERR, 8, 2⟩
abbrev Adr.XLT_INV_ADDR_LO : Nat := 0x0070008
abbrev Adr.XLT_INV_PAGES : Nat := 0x0070010
abbrev XLT_INV_PAGES.PAGES : Fld := ⟨Adr.XLT_INV_PAGES, 0, 21⟩
abbrev Adr.XLT_INV : Nat := 0x0070014
abbrev XLT_INV.CTX : Fld := ⟨Adr.XLT_INV, 0, 4⟩
abbrev XLT_INV.ALL : Fld := ⟨Adr.XLT_INV, 4, 1⟩
abbrev XLT_INV.GO : Fld := ⟨Adr.XLT_INV, 5, 1⟩
abbrev Adr.XLT_FAULT_CNT : Nat := 0x0070018
abbrev Adr.XLT_CTX_ROOT_LO (i : Nat) : Nat := 0x0070100 + 0x10 * i
abbrev Adr.XLT_CTX_CFG (i : Nat) : Nat := 0x0070108 + 0x10 * i
abbrev XLT_CTX_CFG.VALID (i : Nat) : Fld := ⟨Adr.XLT_CTX_CFG i, 0, 1⟩
abbrev XLT_CTX_CFG.MODE (i : Nat) : Fld := ⟨Adr.XLT_CTX_CFG i, 1, 1⟩
abbrev Adr.XLT_CTX_FSEQ (i : Nat) : Nat := 0x007010C + 0x10 * i
abbrev XLT_CTX_FSEQ.FSEQ (i : Nat) : Fld := ⟨Adr.XLT_CTX_FSEQ i, 0, 16⟩
abbrev Adr.ECC_SCRUB_CTRL : Nat := 0x0080000
abbrev ECC_SCRUB_CTRL.EN : Fld := ⟨Adr.ECC_SCRUB_CTRL, 0, 1⟩
abbrev Adr.ECC_SCRUB_CFG : Nat := 0x0080004
abbrev ECC_SCRUB_CFG.PASS_S : Fld := ⟨Adr.ECC_SCRUB_CFG, 0, 8⟩
abbrev Adr.ECC_STATUS : Nat := 0x0080008
abbrev ECC_STATUS.SCRUB_RUNNING : Fld := ⟨Adr.ECC_STATUS, 0, 1⟩
abbrev ECC_STATUS.FILL_BUSY : Fld := ⟨Adr.ECC_STATUS, 1, 1⟩
abbrev ECC_STATUS.BIST_FAIL : Fld := ⟨Adr.ECC_STATUS, 2, 1⟩
abbrev ECC_STATUS.SPARE_EXHAUSTED : Fld := ⟨Adr.ECC_STATUS, 3, 1⟩
abbrev ECC_STATUS.CE : Fld := ⟨Adr.ECC_STATUS, 8, 1⟩
abbrev ECC_STATUS.UE : Fld := ⟨Adr.ECC_STATUS, 9, 1⟩
abbrev ECC_STATUS.POISON_READ : Fld := ⟨Adr.ECC_STATUS, 10, 1⟩
abbrev ECC_STATUS.PW_UE : Fld := ⟨Adr.ECC_STATUS, 11, 1⟩
abbrev ECC_STATUS.SCRUB_UE : Fld := ⟨Adr.ECC_STATUS, 12, 1⟩
abbrev ECC_STATUS.SCRUB_SLOW : Fld := ⟨Adr.ECC_STATUS, 13, 1⟩
abbrev ECC_STATUS.FILL_BAD : Fld := ⟨Adr.ECC_STATUS, 14, 1⟩
abbrev ECC_STATUS.CFG_LOCKED : Fld := ⟨Adr.ECC_STATUS, 15, 1⟩
abbrev Adr.ECC_SCRUB_PASS_CNT : Nat := 0x008000C
abbrev Adr.ECC_SCRUB_LAST_MS : Nat := 0x0080010
abbrev Adr.ECC_SPARE_CFG : Nat := 0x0080014
abbrev ECC_SPARE_CFG.THRESH : Fld := ⟨Adr.ECC_SPARE_CFG, 0, 4⟩
abbrev Adr.ECC_FILL_ADDR_LO : Nat := 0x0080018
abbrev Adr.ECC_FILL_LEN : Nat := 0x0080020
abbrev ECC_FILL_LEN.LEN : Fld := ⟨Adr.ECC_FILL_LEN, 6, 26⟩
abbrev Adr.ECC_FILL_CTRL : Nat := 0x0080024
abbrev ECC_FILL_CTRL.GO : Fld := ⟨Adr.ECC_FILL_CTRL, 0, 1⟩
abbrev Adr.ECC_INJ_ADDR_LO : Nat := 0x0080028
abbrev Adr.ECC_INJ_CTRL : Nat := 0x0080030
abbrev ECC_INJ_CTRL.MODE : Fld := ⟨Adr.ECC_INJ_CTRL, 0, 2⟩
abbrev ECC_INJ_CTRL.BIT : Fld := ⟨Adr.ECC_INJ_CTRL, 8, 7⟩
abbrev ECC_INJ_CTRL.BIT2 : Fld := ⟨Adr.ECC_INJ_CTRL, 16, 7⟩
abbrev ECC_INJ_CTRL.ARM : Fld := ⟨Adr.ECC_INJ_CTRL, 31, 1⟩
abbrev Adr.ECC_LOG_CFG : Nat := 0x0080034
abbrev ECC_LOG_CFG.LOG_CE : Fld := ⟨Adr.ECC_LOG_CFG, 0, 1⟩
abbrev ECC_LOG_CFG.COUNT : Fld := ⟨Adr.ECC_LOG_CFG, 8, 6⟩
abbrev Adr.ECC_LOG_POP : Nat := 0x0080038
abbrev ECC_LOG_POP.VALID : Fld := ⟨Adr.ECC_LOG_POP, 0, 1⟩
abbrev Adr.ECC_LOG_ADDR_LO : Nat := 0x008003C
abbrev Adr.ECC_LOG_INFO : Nat := 0x0080044
abbrev ECC_LOG_INFO.TYPE : Fld := ⟨Adr.ECC_LOG_INFO, 0, 4⟩
abbrev ECC_LOG_INFO.BIT : Fld := ⟨Adr.ECC_LOG_INFO, 4, 7⟩
abbrev ECC_LOG_INFO.REQ : Fld := ⟨Adr.ECC_LOG_INFO, 11, 5⟩
abbrev ECC_LOG_INFO.REGION : Fld := ⟨Adr.ECC_LOG_INFO, 16, 7⟩
abbrev ECC_LOG_INFO.ROW : Fld := ⟨Adr.ECC_LOG_INFO, 23, 9⟩
abbrev Adr.ECC_LOG_DROP_CNT : Nat := 0x0080048
abbrev Adr.ECC_REGEN_CNT : Nat := 0x0080050
abbrev Adr.ECC_PRECIOUS_CNT : Nat := 0x0080054
abbrev Adr.ECC_PW_CE_CNT : Nat := 0x0080058
abbrev Adr.ECC_PW_UE_CNT : Nat := 0x008005C
abbrev Adr.ECC_POISON_READ_CNT : Nat := 0x0080060
abbrev Adr.ECC_REGION_BASE (i : Nat) : Nat := 0x0080100 + 0x10 * i
abbrev ECC_REGION_BASE.BASE (i : Nat) : Fld := ⟨Adr.ECC_REGION_BASE i, 0, 28⟩
abbrev Adr.ECC_REGION_LIMIT (i : Nat) : Nat := 0x0080104 + 0x10 * i
abbrev ECC_REGION_LIMIT.LIMIT (i : Nat) : Fld := ⟨Adr.ECC_REGION_LIMIT i, 0, 28⟩
abbrev Adr.ECC_REGION_CFG (i : Nat) : Nat := 0x0080108 + 0x10 * i
abbrev ECC_REGION_CFG.CLASS (i : Nat) : Fld := ⟨Adr.ECC_REGION_CFG i, 0, 2⟩
abbrev Adr.ECC_BANK_STATUS (i : Nat) : Nat := 0x0081000 + 0x10 * i
abbrev ECC_BANK_STATUS.BIST_DONE (i : Nat) : Fld := ⟨Adr.ECC_BANK_STATUS i, 0, 1⟩
abbrev ECC_BANK_STATUS.BIST_PASS (i : Nat) : Fld := ⟨Adr.ECC_BANK_STATUS i, 1, 1⟩
abbrev ECC_BANK_STATUS.SPARES_USED (i : Nat) : Fld := ⟨Adr.ECC_BANK_STATUS i, 4, 4⟩
abbrev ECC_BANK_STATUS.SPARE_EXHAUSTED (i : Nat) : Fld := ⟨Adr.ECC_BANK_STATUS i, 8, 1⟩
abbrev ECC_BANK_STATUS.BIST_SPARED (i : Nat) : Fld := ⟨Adr.ECC_BANK_STATUS i, 9, 4⟩
abbrev Adr.ECC_BANK_CE_CNT (i : Nat) : Nat := 0x0081004 + 0x10 * i
abbrev Adr.ECC_BANK_UE_CNT (i : Nat) : Nat := 0x0081008 + 0x10 * i
abbrev Adr.DMC_CTRL (u : Nat) : Nat := 0x0090000 + (0x4000 * u + 0x10000 * (u / 4))
abbrev DMC_CTRL.INIT (u : Nat) : Fld := ⟨Adr.DMC_CTRL u, 0, 1⟩
abbrev DMC_CTRL.KEEP (u : Nat) : Fld := ⟨Adr.DMC_CTRL u, 1, 1⟩
abbrev DMC_CTRL.FILL (u : Nat) : Fld := ⟨Adr.DMC_CTRL u, 2, 1⟩
abbrev DMC_CTRL.EN (u : Nat) : Fld := ⟨Adr.DMC_CTRL u, 3, 1⟩
abbrev DMC_CTRL.FENCE (u : Nat) : Fld := ⟨Adr.DMC_CTRL u, 4, 1⟩
abbrev DMC_CTRL.SREF (u : Nat) : Fld := ⟨Adr.DMC_CTRL u, 5, 1⟩
abbrev Adr.DMC_CFG (u : Nat) : Nat := 0x0090004 + (0x4000 * u + 0x10000 * (u / 4))
abbrev DMC_CFG.RATE (u : Nat) : Fld := ⟨Adr.DMC_CFG u, 0, 2⟩
abbrev DMC_CFG.RANKS (u : Nat) : Fld := ⟨Adr.DMC_CFG u, 2, 1⟩
abbrev DMC_CFG.RANK_SIZE (u : Nat) : Fld := ⟨Adr.DMC_CFG u, 3, 2⟩
abbrev DMC_CFG.REF_MODE (u : Nat) : Fld := ⟨Adr.DMC_CFG u, 5, 1⟩
abbrev DMC_CFG.MAP (u : Nat) : Fld := ⟨Adr.DMC_CFG u, 8, 1⟩
abbrev Adr.DMC_STATUS (u : Nat) : Nat := 0x0090008 + (0x4000 * u + 0x10000 * (u / 4))
abbrev DMC_STATUS.STATE (u : Nat) : Fld := ⟨Adr.DMC_STATUS u, 0, 3⟩
abbrev DMC_STATUS.STEP (u : Nat) : Fld := ⟨Adr.DMC_STATUS u, 4, 2⟩
abbrev DMC_STATUS.DEBT (u : Nat) : Fld := ⟨Adr.DMC_STATUS u, 8, 4⟩
abbrev DMC_STATUS.HOT (u : Nat) : Fld := ⟨Adr.DMC_STATUS u, 12, 1⟩
abbrev DMC_STATUS.OOR (u : Nat) : Fld := ⟨Adr.DMC_STATUS u, 13, 1⟩
abbrev DMC_STATUS.CFG_LOCKED (u : Nat) : Fld := ⟨Adr.DMC_STATUS u, 16, 1⟩
abbrev DMC_STATUS.CFG_BAD (u : Nat) : Fld := ⟨Adr.DMC_STATUS u, 17, 1⟩
abbrev DMC_STATUS.FORCED (u : Nat) : Fld := ⟨Adr.DMC_STATUS u, 18, 1⟩
abbrev DMC_STATUS.ERR_RESP (u : Nat) : Fld := ⟨Adr.DMC_STATUS u, 19, 1⟩
abbrev Adr.DMC_MR4 (u : Nat) : Nat := 0x009000C + (0x4000 * u + 0x10000 * (u / 4))
abbrev DMC_MR4.RANK0 (u : Nat) : Fld := ⟨Adr.DMC_MR4 u, 0, 8⟩
abbrev DMC_MR4.RANK1 (u : Nat) : Fld := ⟨Adr.DMC_MR4 u, 8, 8⟩
abbrev Adr.DMC_REF0 (u : Nat) : Nat := 0x0090010 + (0x4000 * u + 0x10000 * (u / 4))
abbrev DMC_REF0.TREFI_NS (u : Nat) : Fld := ⟨Adr.DMC_REF0 u, 0, 13⟩
abbrev Adr.DMC_REF1 (u : Nat) : Nat := 0x0090014 + (0x4000 * u + 0x10000 * (u / 4))
abbrev DMC_REF1.TRFCAB_NS (u : Nat) : Fld := ⟨Adr.DMC_REF1 u, 0, 10⟩
abbrev DMC_REF1.TRFCPB_NS (u : Nat) : Fld := ⟨Adr.DMC_REF1 u, 16, 10⟩
abbrev Adr.DMC_AC0 (u : Nat) : Nat := 0x0090018 + (0x4000 * u + 0x10000 * (u / 4))
abbrev DMC_AC0.TRCD (u : Nat) : Fld := ⟨Adr.DMC_AC0 u, 0, 8⟩
abbrev DMC_AC0.TRPAB (u : Nat) : Fld := ⟨Adr.DMC_AC0 u, 8, 8⟩
abbrev DMC_AC0.TRPPB (u : Nat) : Fld := ⟨Adr.DMC_AC0 u, 16, 8⟩
abbrev DMC_AC0.TRAS (u : Nat) : Fld := ⟨Adr.DMC_AC0 u, 24, 8⟩
abbrev Adr.DMC_AC1 (u : Nat) : Nat := 0x009001C + (0x4000 * u + 0x10000 * (u / 4))
abbrev DMC_AC1.TWR (u : Nat) : Fld := ⟨Adr.DMC_AC1 u, 0, 8⟩
abbrev DMC_AC1.TWTR (u : Nat) : Fld := ⟨Adr.DMC_AC1 u, 8, 8⟩
abbrev DMC_AC1.TRTP (u : Nat) : Fld := ⟨Adr.DMC_AC1 u, 16, 8⟩
abbrev DMC_AC1.TRRD (u : Nat) : Fld := ⟨Adr.DMC_AC1 u, 24, 8⟩
abbrev Adr.DMC_AC2 (u : Nat) : Nat := 0x0090020 + (0x4000 * u + 0x10000 * (u / 4))
abbrev DMC_AC2.RL (u : Nat) : Fld := ⟨Adr.DMC_AC2 u, 0, 8⟩
abbrev DMC_AC2.WL (u : Nat) : Fld := ⟨Adr.DMC_AC2 u, 8, 8⟩
abbrev DMC_AC2.TFAW (u : Nat) : Fld := ⟨Adr.DMC_AC2 u, 16, 8⟩
abbrev DMC_AC2.TXP (u : Nat) : Fld := ⟨Adr.DMC_AC2 u, 24, 8⟩
abbrev Adr.DMC_AC3 (u : Nat) : Nat := 0x0090024 + (0x4000 * u + 0x10000 * (u / 4))
abbrev DMC_AC3.TCCDL (u : Nat) : Fld := ⟨Adr.DMC_AC3 u, 0, 8⟩
abbrev DMC_AC3.TRTW (u : Nat) : Fld := ⟨Adr.DMC_AC3 u, 8, 8⟩
abbrev Adr.DMC_QOS (u : Nat) : Nat := 0x0090028 + (0x4000 * u + 0x10000 * (u / 4))
abbrev DMC_QOS.AGE_LIMIT (u : Nat) : Fld := ⟨Adr.DMC_QOS u, 0, 16⟩
abbrev DMC_QOS.WQ_HIGH (u : Nat) : Fld := ⟨Adr.DMC_QOS u, 16, 6⟩
abbrev DMC_QOS.WQ_LOW (u : Nat) : Fld := ⟨Adr.DMC_QOS u, 24, 6⟩
abbrev Adr.DMC_PD (u : Nat) : Nat := 0x009002C + (0x4000 * u + 0x10000 * (u / 4))
abbrev DMC_PD.IDLE (u : Nat) : Fld := ⟨Adr.DMC_PD u, 0, 16⟩
abbrev Adr.DMC_SCRUB (u : Nat) : Nat := 0x0090030 + (0x4000 * u + 0x10000 * (u / 4))
abbrev DMC_SCRUB.EN (u : Nat) : Fld := ⟨Adr.DMC_SCRUB u, 0, 1⟩
abbrev DMC_SCRUB.PASS_H (u : Nat) : Fld := ⟨Adr.DMC_SCRUB u, 8, 8⟩
abbrev Adr.DMC_CE_CNT (u : Nat) : Nat := 0x0090034 + (0x4000 * u + 0x10000 * (u / 4))
abbrev Adr.DMC_UE_CNT (u : Nat) : Nat := 0x0090038 + (0x4000 * u + 0x10000 * (u / 4))
abbrev Adr.DMC_ERR_ADDR_LO (u : Nat) : Nat := 0x009003C + (0x4000 * u + 0x10000 * (u / 4))
abbrev Adr.DMC_FORCED_CNT (u : Nat) : Nat := 0x0090044 + (0x4000 * u + 0x10000 * (u / 4))
abbrev Adr.DMC_ERRRESP_CNT (u : Nat) : Nat := 0x0090048 + (0x4000 * u + 0x10000 * (u / 4))
abbrev Adr.DMC_TRN_CTRL (u : Nat) : Nat := 0x0090080 + (0x4000 * u + 0x10000 * (u / 4))
abbrev DMC_TRN_CTRL.OP (u : Nat) : Fld := ⟨Adr.DMC_TRN_CTRL u, 0, 3⟩
abbrev DMC_TRN_CTRL.RANK (u : Nat) : Fld := ⟨Adr.DMC_TRN_CTRL u, 3, 1⟩
abbrev DMC_TRN_CTRL.REPEAT (u : Nat) : Fld := ⟨Adr.DMC_TRN_CTRL u, 8, 8⟩
abbrev DMC_TRN_CTRL.GO (u : Nat) : Fld := ⟨Adr.DMC_TRN_CTRL u, 24, 1⟩
abbrev DMC_TRN_CTRL.SLOT_REQ (u : Nat) : Fld := ⟨Adr.DMC_TRN_CTRL u, 25, 1⟩
abbrev DMC_TRN_CTRL.COMMIT (u : Nat) : Fld := ⟨Adr.DMC_TRN_CTRL u, 26, 1⟩
abbrev DMC_TRN_CTRL.END (u : Nat) : Fld := ⟨Adr.DMC_TRN_CTRL u, 27, 1⟩
abbrev Adr.DMC_TRN_STATUS (u : Nat) : Nat := 0x0090084 + (0x4000 * u + 0x10000 * (u / 4))
abbrev DMC_TRN_STATUS.BUSY (u : Nat) : Fld := ⟨Adr.DMC_TRN_STATUS u, 0, 1⟩
abbrev DMC_TRN_STATUS.DONE (u : Nat) : Fld := ⟨Adr.DMC_TRN_STATUS u, 1, 1⟩
abbrev DMC_TRN_STATUS.REFUSED (u : Nat) : Fld := ⟨Adr.DMC_TRN_STATUS u, 2, 1⟩
abbrev DMC_TRN_STATUS.SLOT_OVERRUN (u : Nat) : Fld := ⟨Adr.DMC_TRN_STATUS u, 3, 1⟩
abbrev DMC_TRN_STATUS.FILL_BUSY (u : Nat) : Fld := ⟨Adr.DMC_TRN_STATUS u, 4, 1⟩
abbrev DMC_TRN_STATUS.SLOT_PENDING (u : Nat) : Fld := ⟨Adr.DMC_TRN_STATUS u, 5, 1⟩
abbrev Adr.DMC_TRN_RESULT (u : Nat) : Nat := 0x0090088 + (0x4000 * u + 0x10000 * (u / 4))
abbrev DMC_TRN_RESULT.FAIL (u : Nat) : Fld := ⟨Adr.DMC_TRN_RESULT u, 0, 18⟩
abbrev Adr.DMC_WCK_DLY (u : Nat) : Nat := 0x0090180 + (0x4000 * u + 0x10000 * (u / 4))
abbrev DMC_WCK_DLY.WCK0 (u : Nat) : Fld := ⟨Adr.DMC_WCK_DLY u, 0, 8⟩
abbrev DMC_WCK_DLY.WCK1 (u : Nat) : Fld := ⟨Adr.DMC_WCK_DLY u, 8, 8⟩
abbrev Adr.DMC_DQ_DLY (u i : Nat) : Nat := 0x0090100 + (0x4000 * u + 0x10000 * (u / 4)) + 4 * i
abbrev DMC_DQ_DLY.RD (u i : Nat) : Fld := ⟨Adr.DMC_DQ_DLY u i, 0, 8⟩
abbrev DMC_DQ_DLY.WR (u i : Nat) : Fld := ⟨Adr.DMC_DQ_DLY u i, 8, 8⟩
abbrev Adr.DMC_CA_DLY (u i : Nat) : Nat := 0x0090160 + (0x4000 * u + 0x10000 * (u / 4)) + 4 * i
abbrev DMC_CA_DLY.DLY (u i : Nat) : Fld := ⟨Adr.DMC_CA_DLY u i, 0, 8⟩
abbrev Adr.FAB_CFG : Nat := 0x00A0000
abbrev FAB_CFG.TO_LOCAL_US : Fld := ⟨Adr.FAB_CFG, 0, 16⟩
abbrev FAB_CFG.TO_HOST_100US : Fld := ⟨Adr.FAB_CFG, 16, 16⟩
abbrev Adr.FAB_STATUS : Nat := 0x00A0004
abbrev FAB_STATUS.DECODE : Fld := ⟨Adr.FAB_STATUS, 0, 1⟩
abbrev FAB_STATUS.TIMEOUT : Fld := ⟨Adr.FAB_STATUS, 1, 1⟩
abbrev Adr.FAB_ISOLATED_LO : Nat := 0x00A0008
abbrev Adr.FAB_REJOIN_LO : Nat := 0x00A0010
abbrev Adr.FAB_ERR_ADDR_LO : Nat := 0x00A0018
abbrev Adr.FAB_ERR_INFO : Nat := 0x00A0020
abbrev FAB_ERR_INFO.MASTER : Fld := ⟨Adr.FAB_ERR_INFO, 0, 5⟩
abbrev FAB_ERR_INFO.TARGET : Fld := ⟨Adr.FAB_ERR_INFO, 8, 6⟩
abbrev FAB_ERR_INFO.CODE : Fld := ⟨Adr.FAB_ERR_INFO, 16, 2⟩
abbrev FAB_ERR_INFO.WRITE : Fld := ⟨Adr.FAB_ERR_INFO, 18, 1⟩
abbrev Adr.FAB_DECODE_CNT : Nat := 0x00A0024
abbrev Adr.FAB_TIMEOUT_CNT : Nat := 0x00A0028
abbrev Adr.FAB_MSTR_STATUS (i : Nat) : Nat := 0x00A0100 + 4 * i
abbrev FAB_MSTR_STATUS.OUTSTANDING (i : Nat) : Fld := ⟨Adr.FAB_MSTR_STATUS i, 0, 6⟩
abbrev FAB_MSTR_STATUS.IN_RESET (i : Nat) : Fld := ⟨Adr.FAB_MSTR_STATUS i, 6, 1⟩
abbrev FAB_MSTR_STATUS.DISCARD (i : Nat) : Fld := ⟨Adr.FAB_MSTR_STATUS i, 8, 6⟩
abbrev Adr.MAC_CTRL (u : Nat) : Nat := 0x0100000 + 0x10000 * u
abbrev MAC_CTRL.PORT_EN (u : Nat) : Fld := ⟨Adr.MAC_CTRL u, 0, 1⟩
abbrev MAC_CTRL.CNT_CLR (u : Nat) : Fld := ⟨Adr.MAC_CTRL u, 1, 1⟩
abbrev Adr.MAC_CFG (u : Nat) : Nat := 0x0100004 + 0x10000 * u
abbrev MAC_CFG.DEFAULT (u : Nat) : Fld := ⟨Adr.MAC_CFG u, 0, 1⟩
abbrev MAC_CFG.DEFAULT_Q (u : Nat) : Fld := ⟨Adr.MAC_CFG u, 8, 5⟩
abbrev MAC_CFG.MIRROR_Q (u : Nat) : Fld := ⟨Adr.MAC_CFG u, 16, 5⟩
abbrev MAC_CFG.TS_TB (u : Nat) : Fld := ⟨Adr.MAC_CFG u, 24, 2⟩
abbrev Adr.MAC_STATUS (u : Nat) : Nat := 0x0100008 + 0x10000 * u
abbrev MAC_STATUS.LINK (u : Nat) : Fld := ⟨Adr.MAC_STATUS u, 0, 1⟩
abbrev MAC_STATUS.BLOCK_LOCK (u : Nat) : Fld := ⟨Adr.MAC_STATUS u, 1, 1⟩
abbrev MAC_STATUS.HI_BER (u : Nat) : Fld := ⟨Adr.MAC_STATUS u, 2, 1⟩
abbrev MAC_STATUS.RUNNING (u : Nat) : Fld := ⟨Adr.MAC_STATUS u, 3, 1⟩
abbrev MAC_STATUS.XOFF (u : Nat) : Fld := ⟨Adr.MAC_STATUS u, 4, 1⟩
abbrev MAC_STATUS.RX_PAUSED (u : Nat) : Fld := ⟨Adr.MAC_STATUS u, 5, 1⟩
abbrev MAC_STATUS.CFG_LOCKED (u : Nat) : Fld := ⟨Adr.MAC_STATUS u, 8, 1⟩
abbrev MAC_STATUS.CFG_BAD (u : Nat) : Fld := ⟨Adr.MAC_STATUS u, 9, 1⟩
abbrev MAC_STATUS.VERR (u : Nat) : Fld := ⟨Adr.MAC_STATUS u, 10, 1⟩
abbrev MAC_STATUS.HOST_OVF (u : Nat) : Fld := ⟨Adr.MAC_STATUS u, 11, 1⟩
abbrev Adr.MAC_PHY_CFG (u : Nat) : Nat := 0x0100010 + 0x10000 * u
abbrev MAC_PHY_CFG.MODE (u : Nat) : Fld := ⟨Adr.MAC_PHY_CFG u, 0, 2⟩
abbrev MAC_PHY_CFG.FEC (u : Nat) : Fld := ⟨Adr.MAC_PHY_CFG u, 2, 2⟩
abbrev MAC_PHY_CFG.TX_POL (u : Nat) : Fld := ⟨Adr.MAC_PHY_CFG u, 4, 1⟩
abbrev MAC_PHY_CFG.RX_POL (u : Nat) : Fld := ⟨Adr.MAC_PHY_CFG u, 5, 1⟩
abbrev MAC_PHY_CFG.LOOPBACK (u : Nat) : Fld := ⟨Adr.MAC_PHY_CFG u, 6, 1⟩
abbrev Adr.MAC_ADDR_LO (u : Nat) : Nat := 0x0100018 + 0x10000 * u
abbrev Adr.MAC_MAX_FRAME (u : Nat) : Nat := 0x0100020 + 0x10000 * u
abbrev MAC_MAX_FRAME.MAX (u : Nat) : Fld := ⟨Adr.MAC_MAX_FRAME u, 0, 14⟩
abbrev Adr.MAC_FC_CFG (u : Nat) : Nat := 0x0100024 + 0x10000 * u
abbrev MAC_FC_CFG.MODE (u : Nat) : Fld := ⟨Adr.MAC_FC_CFG u, 0, 2⟩
abbrev MAC_FC_CFG.TX_EN (u : Nat) : Fld := ⟨Adr.MAC_FC_CFG u, 2, 1⟩
abbrev MAC_FC_CFG.RX_EN (u : Nat) : Fld := ⟨Adr.MAC_FC_CFG u, 3, 1⟩
abbrev MAC_FC_CFG.PFC_PRI (u : Nat) : Fld := ⟨Adr.MAC_FC_CFG u, 8, 8⟩
abbrev Adr.MAC_FC_WM (u : Nat) : Nat := 0x0100028 + 0x10000 * u
abbrev MAC_FC_WM.HIGH (u : Nat) : Fld := ⟨Adr.MAC_FC_WM u, 0, 10⟩
abbrev MAC_FC_WM.LOW (u : Nat) : Fld := ⟨Adr.MAC_FC_WM u, 16, 10⟩
abbrev Adr.MAC_AN_CFG (u : Nat) : Nat := 0x010002C + 0x10000 * u
abbrev MAC_AN_CFG.AN_EN (u : Nat) : Fld := ⟨Adr.MAC_AN_CFG u, 0, 1⟩
abbrev MAC_AN_CFG.ADV_SYM (u : Nat) : Fld := ⟨Adr.MAC_AN_CFG u, 1, 1⟩
abbrev MAC_AN_CFG.ADV_ASM (u : Nat) : Fld := ⟨Adr.MAC_AN_CFG u, 2, 1⟩
abbrev Adr.MAC_AN_STATUS (u : Nat) : Nat := 0x0100030 + 0x10000 * u
abbrev MAC_AN_STATUS.DONE (u : Nat) : Fld := ⟨Adr.MAC_AN_STATUS u, 0, 1⟩
abbrev MAC_AN_STATUS.LP_FD (u : Nat) : Fld := ⟨Adr.MAC_AN_STATUS u, 1, 1⟩
abbrev MAC_AN_STATUS.LP_SYM (u : Nat) : Fld := ⟨Adr.MAC_AN_STATUS u, 2, 1⟩
abbrev MAC_AN_STATUS.LP_ASM (u : Nat) : Fld := ⟨Adr.MAC_AN_STATUS u, 3, 1⟩
abbrev MAC_AN_STATUS.LP_RF (u : Nat) : Fld := ⟨Adr.MAC_AN_STATUS u, 4, 2⟩
abbrev MAC_AN_STATUS.PAUSE_TX (u : Nat) : Fld := ⟨Adr.MAC_AN_STATUS u, 8, 1⟩
abbrev MAC_AN_STATUS.PAUSE_RX (u : Nat) : Fld := ⟨Adr.MAC_AN_STATUS u, 9, 1⟩
abbrev Adr.MAC_PT_CFG (u : Nat) : Nat := 0x0100034 + 0x10000 * u
abbrev MAC_PT_CFG.PASS_EN (u : Nat) : Fld := ⟨Adr.MAC_PT_CFG u, 0, 1⟩
abbrev MAC_PT_CFG.TC_EN (u : Nat) : Fld := ⟨Adr.MAC_PT_CFG u, 1, 1⟩
abbrev MAC_PT_CFG.PT_PRIO (u : Nat) : Fld := ⟨Adr.MAC_PT_CFG u, 4, 3⟩
abbrev Adr.MAC_FLT_VERR (u : Nat) : Nat := 0x0100038 + 0x10000 * u
abbrev MAC_FLT_VERR.INDEX (u : Nat) : Fld := ⟨Adr.MAC_FLT_VERR u, 0, 7⟩
abbrev MAC_FLT_VERR.CODE (u : Nat) : Fld := ⟨Adr.MAC_FLT_VERR u, 8, 4⟩
abbrev Adr.MAC_RXQ_CFG (u i : Nat) : Nat := 0x0100040 + 0x10000 * u + 4 * i
abbrev MAC_RXQ_CFG.EN (u i : Nat) : Fld := ⟨Adr.MAC_RXQ_CFG u i, 0, 1⟩
abbrev MAC_RXQ_CFG.KIND (u i : Nat) : Fld := ⟨Adr.MAC_RXQ_CFG u i, 1, 2⟩
abbrev Adr.MAC_TXQ_CFG (u i : Nat) : Nat := 0x01000C0 + 0x10000 * u + 4 * i
abbrev MAC_TXQ_CFG.EN (u i : Nat) : Fld := ⟨Adr.MAC_TXQ_CFG u i, 0, 1⟩
abbrev MAC_TXQ_CFG.KIND (u i : Nat) : Fld := ⟨Adr.MAC_TXQ_CFG u i, 1, 2⟩
abbrev MAC_TXQ_CFG.PRIO (u i : Nat) : Fld := ⟨Adr.MAC_TXQ_CFG u i, 3, 3⟩
abbrev MAC_TXQ_CFG.TS_MODE (u i : Nat) : Fld := ⟨Adr.MAC_TXQ_CFG u i, 6, 2⟩
abbrev MAC_TXQ_CFG.LATE_SEND (u i : Nat) : Fld := ⟨Adr.MAC_TXQ_CFG u i, 8, 1⟩
abbrev MAC_TXQ_CFG.PFC_CLASS (u i : Nat) : Fld := ⟨Adr.MAC_TXQ_CFG u i, 9, 3⟩
abbrev MAC_TXQ_CFG.LATE_WIN (u i : Nat) : Fld := ⟨Adr.MAC_TXQ_CFG u i, 16, 16⟩
abbrev Adr.MAC_RX_OCTETS_LO (u : Nat) : Nat := 0x0100200 + 0x10000 * u
abbrev Adr.MAC_RX_FRAMES_LO (u : Nat) : Nat := 0x0100208 + 0x10000 * u
abbrev Adr.MAC_TX_OCTETS_LO (u : Nat) : Nat := 0x0100210 + 0x10000 * u
abbrev Adr.MAC_TX_FRAMES_LO (u : Nat) : Nat := 0x0100218 + 0x10000 * u
abbrev Adr.MAC_PT_FWD_LO (u : Nat) : Nat := 0x0100220 + 0x10000 * u
abbrev Adr.MAC_RX_MULTICAST (u : Nat) : Nat := 0x0100240 + 0x10000 * u
abbrev Adr.MAC_RX_BROADCAST (u : Nat) : Nat := 0x0100244 + 0x10000 * u
abbrev Adr.MAC_RX_RUNT (u : Nat) : Nat := 0x0100248 + 0x10000 * u
abbrev Adr.MAC_RX_OVERSIZE (u : Nat) : Nat := 0x010024C + 0x10000 * u
abbrev Adr.MAC_RX_FCS (u : Nat) : Nat := 0x0100250 + 0x10000 * u
abbrev Adr.MAC_RX_ALIGN (u : Nat) : Nat := 0x0100254 + 0x10000 * u
abbrev Adr.MAC_RX_SYMBOL (u : Nat) : Nat := 0x0100258 + 0x10000 * u
abbrev Adr.MAC_RX_FILTER_MISS (u : Nat) : Nat := 0x010025C + 0x10000 * u
abbrev Adr.MAC_RX_FILTER_DROP (u : Nat) : Nat := 0x0100260 + 0x10000 * u
abbrev Adr.MAC_RX_MIRROR (u : Nat) : Nat := 0x0100264 + 0x10000 * u
abbrev Adr.MAC_RX_PAUSE (u : Nat) : Nat := 0x0100268 + 0x10000 * u
abbrev Adr.MAC_RX_MACCTL_BAD (u : Nat) : Nat := 0x010026C + 0x10000 * u
abbrev Adr.MAC_RX_HOST_OVF (u : Nat) : Nat := 0x0100270 + 0x10000 * u
abbrev Adr.MAC_RX_QFULL (u : Nat) : Nat := 0x0100274 + 0x10000 * u
abbrev Adr.MAC_TX_PAD (u : Nat) : Nat := 0x0100278 + 0x10000 * u
abbrev Adr.MAC_TX_FRAME_LEN (u : Nat) : Nat := 0x010027C + 0x10000 * u
abbrev Adr.MAC_TX_XOFF (u : Nat) : Nat := 0x0100280 + 0x10000 * u
abbrev Adr.MAC_TX_XON (u : Nat) : Nat := 0x0100284 + 0x10000 * u
abbrev Adr.MAC_TX_LINK_DOWN (u : Nat) : Nat := 0x0100288 + 0x10000 * u
abbrev Adr.MAC_TX_LATE_DROP (u : Nat) : Nat := 0x010028C + 0x10000 * u
abbrev Adr.MAC_TX_LATE_SENT (u : Nat) : Nat := 0x0100290 + 0x10000 * u
abbrev Adr.MAC_TX_TSQ_OVF (u : Nat) : Nat := 0x0100294 + 0x10000 * u
abbrev Adr.MAC_PT_STOMP (u : Nat) : Nat := 0x0100298 + 0x10000 * u
abbrev Adr.MAC_PT_BUF_DROP (u : Nat) : Nat := 0x010029C + 0x10000 * u
abbrev Adr.MAC_PT_CORR (u : Nat) : Nat := 0x01002A0 + 0x10000 * u
abbrev Adr.MAC_PT_CORR_SAT (u : Nat) : Nat := 0x01002A4 + 0x10000 * u
abbrev Adr.MAC_LINK_DOWN (u : Nat) : Nat := 0x01002A8 + 0x10000 * u
abbrev Adr.MAC_FEC_CORR (u : Nat) : Nat := 0x01002AC + 0x10000 * u
abbrev Adr.MAC_FEC_UNCORR (u : Nat) : Nat := 0x01002B0 + 0x10000 * u
abbrev Adr.MAC_HI_BER (u : Nat) : Nat := 0x01002B4 + 0x10000 * u
abbrev Adr.MAC0_WAKE_CTRL (u : Nat) : Nat := 0x0101000 + 0x10000 * u
abbrev MAC0_WAKE_CTRL.PAT_EN (u : Nat) : Fld := ⟨Adr.MAC0_WAKE_CTRL u, 0, 8⟩
abbrev MAC0_WAKE_CTRL.MAGIC_EN (u : Nat) : Fld := ⟨Adr.MAC0_WAKE_CTRL u, 8, 1⟩
abbrev Adr.MAC0_WAKE_STATUS (u : Nat) : Nat := 0x0101004 + 0x10000 * u
abbrev MAC0_WAKE_STATUS.PAT_HIT (u : Nat) : Fld := ⟨Adr.MAC0_WAKE_STATUS u, 0, 8⟩
abbrev MAC0_WAKE_STATUS.MAGIC_HIT (u : Nat) : Fld := ⟨Adr.MAC0_WAKE_STATUS u, 8, 1⟩
abbrev Adr.MAC_FLT_DMAC_LO (u i : Nat) : Nat := 0x0104000 + 0x10000 * u + 0x40 * i
abbrev Adr.MAC_FLT_DMASK_LO (u i : Nat) : Nat := 0x0104008 + 0x10000 * u + 0x40 * i
abbrev Adr.MAC_FLT_VLAN (u i : Nat) : Nat := 0x0104010 + 0x10000 * u + 0x40 * i
abbrev MAC_FLT_VLAN.VID (u i : Nat) : Fld := ⟨Adr.MAC_FLT_VLAN u i, 0, 12⟩
abbrev MAC_FLT_VLAN.PCP (u i : Nat) : Fld := ⟨Adr.MAC_FLT_VLAN u i, 12, 3⟩
abbrev Adr.MAC_FLT_ETYPE (u i : Nat) : Nat := 0x0104014 + 0x10000 * u + 0x40 * i
abbrev MAC_FLT_ETYPE.ETYPE (u i : Nat) : Fld := ⟨Adr.MAC_FLT_ETYPE u i, 0, 16⟩
abbrev Adr.MAC_FLT_IPDST0 (u i : Nat) : Nat := 0x0104018 + 0x10000 * u + 0x40 * i
abbrev Adr.MAC_FLT_IPDST1 (u i : Nat) : Nat := 0x010401C + 0x10000 * u + 0x40 * i
abbrev Adr.MAC_FLT_IPDST2 (u i : Nat) : Nat := 0x0104020 + 0x10000 * u + 0x40 * i
abbrev Adr.MAC_FLT_IPDST3 (u i : Nat) : Nat := 0x0104024 + 0x10000 * u + 0x40 * i
abbrev Adr.MAC_FLT_IP (u i : Nat) : Nat := 0x0104028 + 0x10000 * u + 0x40 * i
abbrev MAC_FLT_IP.IPVER (u i : Nat) : Fld := ⟨Adr.MAC_FLT_IP u i, 0, 2⟩
abbrev MAC_FLT_IP.PREFIX (u i : Nat) : Fld := ⟨Adr.MAC_FLT_IP u i, 8, 8⟩
abbrev Adr.MAC_FLT_UDP (u i : Nat) : Nat := 0x010402C + 0x10000 * u + 0x40 * i
abbrev MAC_FLT_UDP.DPORT (u i : Nat) : Fld := ⟨Adr.MAC_FLT_UDP u i, 0, 16⟩
abbrev Adr.MAC_FLT_MATCH (u i : Nat) : Nat := 0x0104030 + 0x10000 * u + 0x40 * i
abbrev MAC_FLT_MATCH.DMAC_EN (u i : Nat) : Fld := ⟨Adr.MAC_FLT_MATCH u i, 0, 1⟩
abbrev MAC_FLT_MATCH.VID_EN (u i : Nat) : Fld := ⟨Adr.MAC_FLT_MATCH u i, 1, 1⟩
abbrev MAC_FLT_MATCH.PCP_EN (u i : Nat) : Fld := ⟨Adr.MAC_FLT_MATCH u i, 2, 1⟩
abbrev MAC_FLT_MATCH.ETYPE_EN (u i : Nat) : Fld := ⟨Adr.MAC_FLT_MATCH u i, 3, 1⟩
abbrev MAC_FLT_MATCH.IP_EN (u i : Nat) : Fld := ⟨Adr.MAC_FLT_MATCH u i, 4, 1⟩
abbrev MAC_FLT_MATCH.UDP_EN (u i : Nat) : Fld := ⟨Adr.MAC_FLT_MATCH u i, 5, 1⟩
abbrev MAC_FLT_MATCH.UNTAGGED (u i : Nat) : Fld := ⟨Adr.MAC_FLT_MATCH u i, 6, 1⟩
abbrev MAC_FLT_MATCH.TAGGED (u i : Nat) : Fld := ⟨Adr.MAC_FLT_MATCH u i, 7, 1⟩
abbrev Adr.MAC_FLT_HITS (u i : Nat) : Nat := 0x0104038 + 0x10000 * u + 0x40 * i
abbrev Adr.MAC_FLT_ACTION (u i : Nat) : Nat := 0x010403C + 0x10000 * u + 0x40 * i
abbrev MAC_FLT_ACTION.ACTION (u i : Nat) : Fld := ⟨Adr.MAC_FLT_ACTION u i, 0, 2⟩
abbrev MAC_FLT_ACTION.QUEUE (u i : Nat) : Fld := ⟨Adr.MAC_FLT_ACTION u i, 8, 5⟩
abbrev MAC_FLT_ACTION.PASS (u i : Nat) : Fld := ⟨Adr.MAC_FLT_ACTION u i, 16, 1⟩
abbrev MAC_FLT_ACTION.VALID (u i : Nat) : Fld := ⟨Adr.MAC_FLT_ACTION u i, 31, 1⟩
abbrev Adr.MAC_FLT_RSVD (u i : Nat) : Nat := 0x0104034 + 0x10000 * u + 0x40 * i
abbrev Adr.TB_STATUS : Nat := 0x0140000
abbrev TB_STATUS.INCR_BAD : Fld := ⟨Adr.TB_STATUS, 0, 1⟩
abbrev TB_STATUS.ADJ_CLAMP : Fld := ⟨Adr.TB_STATUS, 1, 1⟩
abbrev Adr.TBN_CTRL (i : Nat) : Nat := 0x0140100 + 0x40 * i
abbrev TBN_CTRL.EN (i : Nat) : Fld := ⟨Adr.TBN_CTRL i, 0, 1⟩
abbrev TBN_CTRL.LOAD (i : Nat) : Fld := ⟨Adr.TBN_CTRL i, 1, 1⟩
abbrev Adr.TBN_INCR_LO (i : Nat) : Nat := 0x0140104 + 0x40 * i
abbrev Adr.TBN_TIME_FRAC (i : Nat) : Nat := 0x014010C + 0x40 * i
abbrev TBN_TIME_FRAC.FRAC (i : Nat) : Fld := ⟨Adr.TBN_TIME_FRAC i, 0, 16⟩
abbrev Adr.TBN_TIME_NS (i : Nat) : Nat := 0x0140110 + 0x40 * i
abbrev TBN_TIME_NS.NS (i : Nat) : Fld := ⟨Adr.TBN_TIME_NS i, 0, 30⟩
abbrev Adr.TBN_TIME_SEC_LO (i : Nat) : Nat := 0x0140114 + 0x40 * i
abbrev Adr.TBN_SET_NS (i : Nat) : Nat := 0x014011C + 0x40 * i
abbrev TBN_SET_NS.NS (i : Nat) : Fld := ⟨Adr.TBN_SET_NS i, 0, 30⟩
abbrev Adr.TBN_SET_SEC_LO (i : Nat) : Nat := 0x0140120 + 0x40 * i
abbrev Adr.TBN_ADJ_LO (i : Nat) : Nat := 0x0140128 + 0x40 * i
abbrev Adr.TB_PORT_RX_ADJ (i : Nat) : Nat := 0x0140200 + 0x40 * i
abbrev TB_PORT_RX_ADJ.ADJ (i : Nat) : Fld := ⟨Adr.TB_PORT_RX_ADJ i, 0, 16⟩
abbrev Adr.TB_PORT_TX_ADJ (i : Nat) : Nat := 0x0140204 + 0x40 * i
abbrev TB_PORT_TX_ADJ.ADJ (i : Nat) : Fld := ⟨Adr.TB_PORT_TX_ADJ i, 0, 16⟩
abbrev Adr.TB_TSQ_STATUS (i : Nat) : Nat := 0x0140208 + 0x40 * i
abbrev TB_TSQ_STATUS.COUNT (i : Nat) : Fld := ⟨Adr.TB_TSQ_STATUS i, 0, 7⟩
abbrev TB_TSQ_STATUS.OVF (i : Nat) : Fld := ⟨Adr.TB_TSQ_STATUS i, 8, 1⟩
abbrev TB_TSQ_STATUS.NEXT_SEQ (i : Nat) : Fld := ⟨Adr.TB_TSQ_STATUS i, 16, 16⟩
abbrev Adr.TB_TSQ_POP (i : Nat) : Nat := 0x014020C + 0x40 * i
abbrev TB_TSQ_POP.TS_SEQ (i : Nat) : Fld := ⟨Adr.TB_TSQ_POP i, 0, 16⟩
abbrev TB_TSQ_POP.VALID (i : Nat) : Fld := ⟨Adr.TB_TSQ_POP i, 16, 1⟩
abbrev Adr.TB_TSQ_FRAC (i : Nat) : Nat := 0x0140210 + 0x40 * i
abbrev TB_TSQ_FRAC.FRAC (i : Nat) : Fld := ⟨Adr.TB_TSQ_FRAC i, 0, 16⟩
abbrev Adr.TB_TSQ_NS (i : Nat) : Nat := 0x0140214 + 0x40 * i
abbrev TB_TSQ_NS.NS (i : Nat) : Fld := ⟨Adr.TB_TSQ_NS i, 0, 30⟩
abbrev Adr.TB_TSQ_SEC_LO (i : Nat) : Nat := 0x0140218 + 0x40 * i
abbrev Adr.TB_PTP_RXBASE (i : Nat) : Nat := 0x0140220 + 0x40 * i
abbrev TB_PTP_RXBASE.BASE (i : Nat) : Fld := ⟨Adr.TB_PTP_RXBASE i, 9, 23⟩
abbrev Adr.TB_PTP_RXCFG (i : Nat) : Nat := 0x0140224 + 0x40 * i
abbrev TB_PTP_RXCFG.SIZE_LOG2 (i : Nat) : Fld := ⟨Adr.TB_PTP_RXCFG i, 0, 4⟩
abbrev TB_PTP_RXCFG.WR (i : Nat) : Fld := ⟨Adr.TB_PTP_RXCFG i, 16, 16⟩
abbrev Adr.TB_PTP_RXRD (i : Nat) : Nat := 0x0140228 + 0x40 * i
abbrev TB_PTP_RXRD.RD (i : Nat) : Fld := ⟨Adr.TB_PTP_RXRD i, 0, 16⟩
abbrev Adr.TB_PTP_RXDROP_CNT (i : Nat) : Nat := 0x014022C + 0x40 * i
abbrev Adr.TB_PTP_TXBASE (i : Nat) : Nat := 0x0140230 + 0x40 * i
abbrev TB_PTP_TXBASE.BASE (i : Nat) : Fld := ⟨Adr.TB_PTP_TXBASE i, 9, 23⟩
abbrev Adr.TB_PTP_TXCFG (i : Nat) : Nat := 0x0140234 + 0x40 * i
abbrev TB_PTP_TXCFG.SIZE_LOG2 (i : Nat) : Fld := ⟨Adr.TB_PTP_TXCFG i, 0, 4⟩
abbrev TB_PTP_TXCFG.RD (i : Nat) : Fld := ⟨Adr.TB_PTP_TXCFG i, 16, 16⟩
abbrev Adr.TB_PTP_TXWR (i : Nat) : Nat := 0x0140238 + 0x40 * i
abbrev TB_PTP_TXWR.WR (i : Nat) : Fld := ⟨Adr.TB_PTP_TXWR i, 0, 16⟩
abbrev Adr.TB_TOUT_CFG (i : Nat) : Nat := 0x0140400 + 0x20 * i
abbrev TB_TOUT_CFG.MODE (i : Nat) : Fld := ⟨Adr.TB_TOUT_CFG i, 0, 2⟩
abbrev TB_TOUT_CFG.TB_SEL (i : Nat) : Fld := ⟨Adr.TB_TOUT_CFG i, 2, 2⟩
abbrev TB_TOUT_CFG.POL (i : Nat) : Fld := ⟨Adr.TB_TOUT_CFG i, 4, 1⟩
abbrev Adr.TB_TOUT_START_NS (i : Nat) : Nat := 0x0140404 + 0x20 * i
abbrev TB_TOUT_START_NS.NS (i : Nat) : Fld := ⟨Adr.TB_TOUT_START_NS i, 0, 30⟩
abbrev Adr.TB_TOUT_START_SEC_LO (i : Nat) : Nat := 0x0140408 + 0x20 * i
abbrev Adr.TB_TOUT_PERIOD_NS (i : Nat) : Nat := 0x0140410 + 0x20 * i
abbrev Adr.TB_TOUT_PERIOD_FRAC (i : Nat) : Nat := 0x0140414 + 0x20 * i
abbrev TB_TOUT_PERIOD_FRAC.FRAC (i : Nat) : Fld := ⟨Adr.TB_TOUT_PERIOD_FRAC i, 0, 16⟩
abbrev Adr.TB_TOUT_WIDTH (i : Nat) : Nat := 0x0140418 + 0x20 * i
abbrev Adr.TB_TIN_CFG (i : Nat) : Nat := 0x0140480 + 0x20 * i
abbrev TB_TIN_CFG.EN (i : Nat) : Fld := ⟨Adr.TB_TIN_CFG i, 0, 1⟩
abbrev TB_TIN_CFG.EDGE (i : Nat) : Fld := ⟨Adr.TB_TIN_CFG i, 1, 2⟩
abbrev TB_TIN_CFG.TB_SEL (i : Nat) : Fld := ⟨Adr.TB_TIN_CFG i, 4, 2⟩
abbrev Adr.TB_TIN_STATUS (i : Nat) : Nat := 0x0140484 + 0x20 * i
abbrev TB_TIN_STATUS.COUNT (i : Nat) : Fld := ⟨Adr.TB_TIN_STATUS i, 0, 3⟩
abbrev TB_TIN_STATUS.OVF (i : Nat) : Fld := ⟨Adr.TB_TIN_STATUS i, 8, 1⟩
abbrev Adr.TB_TIN_POP (i : Nat) : Nat := 0x0140488 + 0x20 * i
abbrev TB_TIN_POP.VALID (i : Nat) : Fld := ⟨Adr.TB_TIN_POP i, 0, 1⟩
abbrev TB_TIN_POP.FALLING (i : Nat) : Fld := ⟨Adr.TB_TIN_POP i, 1, 1⟩
abbrev Adr.TB_TIN_FRAC (i : Nat) : Nat := 0x014048C + 0x20 * i
abbrev TB_TIN_FRAC.FRAC (i : Nat) : Fld := ⟨Adr.TB_TIN_FRAC i, 0, 16⟩
abbrev Adr.TB_TIN_NS (i : Nat) : Nat := 0x0140490 + 0x20 * i
abbrev TB_TIN_NS.NS (i : Nat) : Fld := ⟨Adr.TB_TIN_NS i, 0, 30⟩
abbrev Adr.TB_TIN_SEC_LO (i : Nat) : Nat := 0x0140494 + 0x20 * i
abbrev Adr.FE_CTRL : Nat := 0x0150000
abbrev FE_CTRL.RUN : Fld := ⟨Adr.FE_CTRL, 0, 1⟩
abbrev Adr.FE_STATUS : Nat := 0x0150004
abbrev FE_STATUS.RUNNING : Fld := ⟨Adr.FE_STATUS, 0, 1⟩
abbrev FE_STATUS.CFG_BAD : Fld := ⟨Adr.FE_STATUS, 1, 1⟩
abbrev FE_STATUS.CFG_LOCKED : Fld := ⟨Adr.FE_STATUS, 2, 1⟩
abbrev Adr.FE_CFG : Nat := 0x0150008
abbrev FE_CFG.LEG_TIMEOUT : Fld := ⟨Adr.FE_CFG, 0, 8⟩
abbrev Adr.FE_CONCEAL : Nat := 0x015000C
abbrev FE_CONCEAL.HOLD_LIMIT : Fld := ⟨Adr.FE_CONCEAL, 0, 4⟩
abbrev Adr.FE_TMPL_BASE : Nat := 0x0150010
abbrev FE_TMPL_BASE.BASE : Fld := ⟨Adr.FE_TMPL_BASE, 12, 20⟩
abbrev Adr.FE_NOFLOW_CNT : Nat := 0x0150014
abbrev Adr.FE_BAD_TMPL_CNT : Nat := 0x0150018
abbrev Adr.FE_VERR : Nat := 0x015001C
abbrev FE_VERR.BANK : Fld := ⟨Adr.FE_VERR, 0, 2⟩
abbrev FE_VERR.FLOW : Fld := ⟨Adr.FE_VERR, 4, 9⟩
abbrev FE_VERR.CODE : Fld := ⟨Adr.FE_VERR, 16, 4⟩
abbrev Adr.FE_CONC (i : Nat) : Nat := 0x0150040 + 4 * i
abbrev Adr.FE_GRP (i : Nat) : Nat := 0x0150100 + 4 * i
abbrev FE_GRP.LINK (i : Nat) : Fld := ⟨Adr.FE_GRP i, 0, 10⟩
abbrev FE_GRP.EN (i : Nat) : Fld := ⟨Adr.FE_GRP i, 31, 1⟩
abbrev Adr.FE_GRP_MISS (i : Nat) : Nat := 0x0150200 + 4 * i
abbrev Adr.FE_TXF_CFG (i : Nat) : Nat := 0x0154000 + 0x20 * i
abbrev FE_TXF_CFG.EN (i : Nat) : Fld := ⟨Adr.FE_TXF_CFG i, 0, 1⟩
abbrev FE_TXF_CFG.RATE (i : Nat) : Fld := ⟨Adr.FE_TXF_CFG i, 1, 1⟩
abbrev FE_TXF_CFG.FMT (i : Nat) : Fld := ⟨Adr.FE_TXF_CFG i, 2, 1⟩
abbrev FE_TXF_CFG.PTIME (i : Nat) : Fld := ⟨Adr.FE_TXF_CFG i, 3, 2⟩
abbrev FE_TXF_CFG.CH_M1 (i : Nat) : Fld := ⟨Adr.FE_TXF_CFG i, 5, 6⟩
abbrev FE_TXF_CFG.LEGA_EN (i : Nat) : Fld := ⟨Adr.FE_TXF_CFG i, 11, 1⟩
abbrev FE_TXF_CFG.LEGA_PORT (i : Nat) : Fld := ⟨Adr.FE_TXF_CFG i, 12, 2⟩
abbrev FE_TXF_CFG.LEGB_EN (i : Nat) : Fld := ⟨Adr.FE_TXF_CFG i, 14, 1⟩
abbrev FE_TXF_CFG.LEGB_PORT (i : Nat) : Fld := ⟨Adr.FE_TXF_CFG i, 15, 2⟩
abbrev FE_TXF_CFG.QUEUE (i : Nat) : Fld := ⟨Adr.FE_TXF_CFG i, 17, 5⟩
abbrev Adr.FE_TXF_TMPL (i : Nat) : Nat := 0x0154004 + 0x20 * i
abbrev FE_TXF_TMPL.TMPL_A (i : Nat) : Fld := ⟨Adr.FE_TXF_TMPL i, 0, 10⟩
abbrev FE_TXF_TMPL.TMPL_B (i : Nat) : Fld := ⟨Adr.FE_TXF_TMPL i, 16, 10⟩
abbrev Adr.FE_TXF_RTPOFS (i : Nat) : Nat := 0x0154008 + 0x20 * i
abbrev Adr.FE_TXF_SEQ (i : Nat) : Nat := 0x015400C + 0x20 * i
abbrev FE_TXF_SEQ.SEQ0 (i : Nat) : Fld := ⟨Adr.FE_TXF_SEQ i, 0, 16⟩
abbrev FE_TXF_SEQ.CH_BASE (i : Nat) : Fld := ⟨Adr.FE_TXF_SEQ i, 16, 11⟩
abbrev Adr.FE_TXF_PKT_CNT (i : Nat) : Nat := 0x0154010 + 0x20 * i
abbrev Adr.FE_TXF_LATE_CNT (i : Nat) : Nat := 0x0154014 + 0x20 * i
abbrev Adr.FE_TXF_STATUS (i : Nat) : Nat := 0x0154018 + 0x20 * i
abbrev FE_TXF_STATUS.ACTIVE (i : Nat) : Fld := ⟨Adr.FE_TXF_STATUS i, 0, 1⟩
abbrev FE_TXF_STATUS.TMPL_BAD (i : Nat) : Fld := ⟨Adr.FE_TXF_STATUS i, 1, 1⟩
abbrev Adr.FE_RXF_CFG (i : Nat) : Nat := 0x0158000 + 0x40 * i
abbrev FE_RXF_CFG.EN (i : Nat) : Fld := ⟨Adr.FE_RXF_CFG i, 0, 1⟩
abbrev FE_RXF_CFG.RATE (i : Nat) : Fld := ⟨Adr.FE_RXF_CFG i, 1, 1⟩
abbrev FE_RXF_CFG.FMT (i : Nat) : Fld := ⟨Adr.FE_RXF_CFG i, 2, 1⟩
abbrev FE_RXF_CFG.PTIME (i : Nat) : Fld := ⟨Adr.FE_RXF_CFG i, 3, 2⟩
abbrev FE_RXF_CFG.CH_M1 (i : Nat) : Fld := ⟨Adr.FE_RXF_CFG i, 5, 6⟩
abbrev FE_RXF_CFG.PT (i : Nat) : Fld := ⟨Adr.FE_RXF_CFG i, 11, 7⟩
abbrev FE_RXF_CFG.SSRC_CHK (i : Nat) : Fld := ⟨Adr.FE_RXF_CFG i, 18, 1⟩
abbrev FE_RXF_CFG.LEGA_EN (i : Nat) : Fld := ⟨Adr.FE_RXF_CFG i, 19, 1⟩
abbrev FE_RXF_CFG.LEGA_PORT (i : Nat) : Fld := ⟨Adr.FE_RXF_CFG i, 20, 2⟩
abbrev FE_RXF_CFG.LEGB_EN (i : Nat) : Fld := ⟨Adr.FE_RXF_CFG i, 22, 1⟩
abbrev FE_RXF_CFG.LEGB_PORT (i : Nat) : Fld := ⟨Adr.FE_RXF_CFG i, 23, 2⟩
abbrev FE_RXF_CFG.DEPTH_LOG2 (i : Nat) : Fld := ⟨Adr.FE_RXF_CFG i, 25, 4⟩
abbrev Adr.FE_RXF_DST_A (i : Nat) : Nat := 0x0158004 + 0x40 * i
abbrev Adr.FE_RXF_DST_B (i : Nat) : Nat := 0x0158008 + 0x40 * i
abbrev Adr.FE_RXF_PORTS (i : Nat) : Nat := 0x015800C + 0x40 * i
abbrev FE_RXF_PORTS.UDP_A (i : Nat) : Fld := ⟨Adr.FE_RXF_PORTS i, 0, 16⟩
abbrev FE_RXF_PORTS.UDP_B (i : Nat) : Fld := ⟨Adr.FE_RXF_PORTS i, 16, 16⟩
abbrev Adr.FE_RXF_SSRC (i : Nat) : Nat := 0x0158010 + 0x40 * i
abbrev Adr.FE_RXF_RTPOFS (i : Nat) : Nat := 0x0158014 + 0x40 * i
abbrev Adr.FE_RXF_LINK (i : Nat) : Nat := 0x0158018 + 0x40 * i
abbrev FE_RXF_LINK.LINK (i : Nat) : Fld := ⟨Adr.FE_RXF_LINK i, 0, 10⟩
abbrev FE_RXF_LINK.CH_BASE (i : Nat) : Fld := ⟨Adr.FE_RXF_LINK i, 16, 11⟩
abbrev Adr.FE_RXF_BUF (i : Nat) : Nat := 0x015801C + 0x40 * i
abbrev FE_RXF_BUF.BUF (i : Nat) : Fld := ⟨Adr.FE_RXF_BUF i, 6, 26⟩
abbrev Adr.FE_RXF_GRP (i : Nat) : Nat := 0x0158020 + 0x40 * i
abbrev FE_RXF_GRP.GROUP (i : Nat) : Fld := ⟨Adr.FE_RXF_GRP i, 0, 6⟩
abbrev FE_RXF_GRP.G_EN (i : Nat) : Fld := ⟨Adr.FE_RXF_GRP i, 31, 1⟩
abbrev Adr.FE_RXF_STATUS (i : Nat) : Nat := 0x0158024 + 0x40 * i
abbrev FE_RXF_STATUS.CSTATE (i : Nat) : Fld := ⟨Adr.FE_RXF_STATUS i, 0, 3⟩
abbrev FE_RXF_STATUS.LEGA_UP (i : Nat) : Fld := ⟨Adr.FE_RXF_STATUS i, 3, 1⟩
abbrev FE_RXF_STATUS.LEGB_UP (i : Nat) : Fld := ⟨Adr.FE_RXF_STATUS i, 4, 1⟩
abbrev FE_RXF_STATUS.SSRC_CHANGED (i : Nat) : Fld := ⟨Adr.FE_RXF_STATUS i, 5, 1⟩
abbrev Adr.FE_RXF_PKT_CNT (i : Nat) : Nat := 0x0158028 + 0x40 * i
abbrev Adr.FE_RXF_DUP_CNT (i : Nat) : Nat := 0x015802C + 0x40 * i
abbrev Adr.FE_RXF_MISS_CNT (i : Nat) : Nat := 0x0158030 + 0x40 * i
abbrev Adr.FE_RXF_LATE_CNT (i : Nat) : Nat := 0x0158034 + 0x40 * i
abbrev Adr.FE_RXF_EARLY_CNT (i : Nat) : Nat := 0x0158038 + 0x40 * i
abbrev Adr.FE_RXF_BAD_CNT (i : Nat) : Nat := 0x015803C + 0x40 * i
abbrev Adr.SAP_CTRL (u : Nat) : Nat := 0x0160000 + 0x1000 * u
abbrev SAP_CTRL.EN (u : Nat) : Fld := ⟨Adr.SAP_CTRL u, 0, 1⟩
abbrev Adr.SAP_CFG (u : Nat) : Nat := 0x0160004 + 0x1000 * u
abbrev SAP_CFG.FORMAT (u : Nat) : Fld := ⟨Adr.SAP_CFG u, 0, 2⟩
abbrev SAP_CFG.MASTER (u : Nat) : Fld := ⟨Adr.SAP_CFG u, 2, 1⟩
abbrev SAP_CFG.SLOTS_M1 (u : Nat) : Fld := ⟨Adr.SAP_CFG u, 3, 5⟩
abbrev SAP_CFG.SLOT_BITS (u : Nat) : Fld := ⟨Adr.SAP_CFG u, 8, 2⟩
abbrev SAP_CFG.WORD_BITS (u : Nat) : Fld := ⟨Adr.SAP_CFG u, 10, 2⟩
abbrev SAP_CFG.DELAY (u : Nat) : Fld := ⟨Adr.SAP_CFG u, 12, 1⟩
abbrev SAP_CFG.FS_WIDTH (u : Nat) : Fld := ⟨Adr.SAP_CFG u, 13, 2⟩
abbrev SAP_CFG.BCLK_INV (u : Nat) : Fld := ⟨Adr.SAP_CFG u, 15, 1⟩
abbrev SAP_CFG.FS_INV (u : Nat) : Fld := ⟨Adr.SAP_CFG u, 16, 1⟩
abbrev SAP_CFG.NOM_RATE (u : Nat) : Fld := ⟨Adr.SAP_CFG u, 17, 3⟩
abbrev SAP_CFG.SYNC (u : Nat) : Fld := ⟨Adr.SAP_CFG u, 20, 1⟩
abbrev Adr.SAP_CLK (u : Nat) : Nat := 0x0160008 + 0x1000 * u
abbrev SAP_CLK.MCLK_DIV (u : Nat) : Fld := ⟨Adr.SAP_CLK u, 0, 2⟩
abbrev Adr.SAP_STATUS (u : Nat) : Nat := 0x016000C + 0x1000 * u
abbrev SAP_STATUS.RUNNING (u : Nat) : Fld := ⟨Adr.SAP_STATUS u, 0, 1⟩
abbrev SAP_STATUS.CLK_OK (u : Nat) : Fld := ⟨Adr.SAP_STATUS u, 1, 1⟩
abbrev SAP_STATUS.ASRC_LOCK (u : Nat) : Fld := ⟨Adr.SAP_STATUS u, 2, 1⟩
abbrev SAP_STATUS.RATE_OOB (u : Nat) : Fld := ⟨Adr.SAP_STATUS u, 3, 1⟩
abbrev SAP_STATUS.FAMILY (u : Nat) : Fld := ⟨Adr.SAP_STATUS u, 4, 3⟩
abbrev SAP_STATUS.CFG_LOCKED (u : Nat) : Fld := ⟨Adr.SAP_STATUS u, 8, 1⟩
abbrev SAP_STATUS.CFG_BAD (u : Nat) : Fld := ⟨Adr.SAP_STATUS u, 9, 1⟩
abbrev SAP_STATUS.XRUN (u : Nat) : Fld := ⟨Adr.SAP_STATUS u, 10, 1⟩
abbrev SAP_STATUS.RATE_EVT (u : Nat) : Fld := ⟨Adr.SAP_STATUS u, 11, 1⟩
abbrev Adr.SAP_RATE (u : Nat) : Nat := 0x0160010 + 0x1000 * u
abbrev SAP_RATE.RATE (u : Nat) : Fld := ⟨Adr.SAP_RATE u, 0, 26⟩
abbrev Adr.SAP_RATE_CFG (u : Nat) : Nat := 0x0160014 + 0x1000 * u
abbrev SAP_RATE_CFG.TOL_PPM (u : Nat) : Fld := ⟨Adr.SAP_RATE_CFG u, 0, 16⟩
abbrev SAP_RATE_CFG.GATE (u : Nat) : Fld := ⟨Adr.SAP_RATE_CFG u, 16, 4⟩
abbrev Adr.SAP_ASRC_DELAY (u : Nat) : Nat := 0x0160018 + 0x1000 * u
abbrev SAP_ASRC_DELAY.RX (u : Nat) : Fld := ⟨Adr.SAP_ASRC_DELAY u, 0, 16⟩
abbrev SAP_ASRC_DELAY.TX (u : Nat) : Fld := ⟨Adr.SAP_ASRC_DELAY u, 16, 16⟩
abbrev Adr.SAP_START (u : Nat) : Nat := 0x016001C + 0x1000 * u
abbrev SAP_START.FRAMES (u : Nat) : Fld := ⟨Adr.SAP_START u, 0, 16⟩
abbrev Adr.SAP_MASK_RX0 (u : Nat) : Nat := 0x0160020 + 0x1000 * u
abbrev Adr.SAP_MASK_RX1 (u : Nat) : Nat := 0x0160024 + 0x1000 * u
abbrev Adr.SAP_MASK_TX0 (u : Nat) : Nat := 0x0160028 + 0x1000 * u
abbrev Adr.SAP_MASK_TX1 (u : Nat) : Nat := 0x016002C + 0x1000 * u
abbrev Adr.SAP_DP_CFG (u i : Nat) : Nat := 0x0160040 + 0x1000 * u + 8 * i
abbrev SAP_DP_CFG.EN (u i : Nat) : Fld := ⟨Adr.SAP_DP_CFG u i, 0, 1⟩
abbrev SAP_DP_CFG.SRC_LINE (u i : Nat) : Fld := ⟨Adr.SAP_DP_CFG u i, 1, 1⟩
abbrev SAP_DP_CFG.SRC_SLOT (u i : Nat) : Fld := ⟨Adr.SAP_DP_CFG u i, 2, 5⟩
abbrev SAP_DP_CFG.DST_LINE (u i : Nat) : Fld := ⟨Adr.SAP_DP_CFG u i, 7, 1⟩
abbrev SAP_DP_CFG.DST_SLOT (u i : Nat) : Fld := ⟨Adr.SAP_DP_CFG u i, 8, 5⟩
abbrev Adr.SAP_DP_GAIN (u i : Nat) : Nat := 0x0160044 + 0x1000 * u + 8 * i
abbrev Adr.SAP_RX_UNDER_CNT (u : Nat) : Nat := 0x0160080 + 0x1000 * u
abbrev Adr.SAP_TX_UNDER_CNT (u : Nat) : Nat := 0x0160084 + 0x1000 * u
abbrev Adr.SAP_RX_OVER_CNT (u : Nat) : Nat := 0x0160088 + 0x1000 * u
abbrev Adr.SAP_TX_OVER_CNT (u : Nat) : Nat := 0x016008C + 0x1000 * u
abbrev Adr.SAP_TX_SAT_CNT (u : Nat) : Nat := 0x0160090 + 0x1000 * u
abbrev Adr.SAP_CLKLOSS_CNT (u : Nat) : Nat := 0x0160094 + 0x1000 * u
abbrev Adr.MIX_CTRL : Nat := 0x0170000
abbrev MIX_CTRL.RUN : Fld := ⟨Adr.MIX_CTRL, 0, 1⟩
abbrev Adr.MIX_STATUS : Nat := 0x0170004
abbrev MIX_STATUS.RUNNING : Fld := ⟨Adr.MIX_STATUS, 0, 1⟩
abbrev MIX_STATUS.CFG_BAD : Fld := ⟨Adr.MIX_STATUS, 1, 1⟩
abbrev MIX_STATUS.CFG_LOCKED : Fld := ⟨Adr.MIX_STATUS, 2, 1⟩
abbrev MIX_STATUS.PRIV_REFUSED : Fld := ⟨Adr.MIX_STATUS, 3, 1⟩
abbrev MIX_STATUS.OUT_LATE : Fld := ⟨Adr.MIX_STATUS, 4, 1⟩
abbrev MIX_STATUS.CLIP : Fld := ⟨Adr.MIX_STATUS, 5, 1⟩
abbrev Adr.MIX_INSTAGE_BASE : Nat := 0x0170008
abbrev MIX_INSTAGE_BASE.BASE : Fld := ⟨Adr.MIX_INSTAGE_BASE, 20, 12⟩
abbrev Adr.MIX_OUTSTAGE_BASE : Nat := 0x017000C
abbrev MIX_OUTSTAGE_BASE.BASE : Fld := ⟨Adr.MIX_OUTSTAGE_BASE, 21, 11⟩
abbrev Adr.MIX_VERR : Nat := 0x0170010
abbrev MIX_VERR.BANK : Fld := ⟨Adr.MIX_VERR, 0, 2⟩
abbrev MIX_VERR.INDEX : Fld := ⟨Adr.MIX_VERR, 4, 12⟩
abbrev MIX_VERR.CODE : Fld := ⟨Adr.MIX_VERR, 16, 4⟩
abbrev Adr.MIX_OUTRDY : Nat := 0x0170014
abbrev MIX_OUTRDY.SLOT : Fld := ⟨Adr.MIX_OUTRDY, 0, 4⟩
abbrev MIX_OUTRDY.BLOCK : Fld := ⟨Adr.MIX_OUTRDY, 16, 16⟩
abbrev Adr.MIX_LATE_CNT : Nat := 0x0170018
abbrev Adr.MIX_PRIV_CNT : Nat := 0x017001C
abbrev Adr.MIX_CLIP_CNT : Nat := 0x0170020
abbrev Adr.MIX_OUT_SLOTS : Nat := 0x0170024
abbrev MIX_OUT_SLOTS.SLOTS : Fld := ⟨Adr.MIX_OUT_SLOTS, 0, 16⟩
abbrev Adr.MIX_GAIN_CFG : Nat := 0x0170028
abbrev MIX_GAIN_CFG.TIMEOUT_MS : Fld := ⟨Adr.MIX_GAIN_CFG, 0, 6⟩
abbrev Adr.MIX_DELAY_BASE : Nat := 0x017002C
abbrev MIX_DELAY_BASE.BASE : Fld := ⟨Adr.MIX_DELAY_BASE, 20, 12⟩
abbrev Adr.MIX_CAP_CFG (i : Nat) : Nat := 0x0170040 + 0x10 * i
abbrev MIX_CAP_CFG.EN (i : Nat) : Fld := ⟨Adr.MIX_CAP_CFG i, 0, 1⟩
abbrev MIX_CAP_CFG.KIND (i : Nat) : Fld := ⟨Adr.MIX_CAP_CFG i, 1, 1⟩
abbrev MIX_CAP_CFG.CH_M1 (i : Nat) : Fld := ⟨Adr.MIX_CAP_CFG i, 2, 6⟩
abbrev MIX_CAP_CFG.BLOCK_M1 (i : Nat) : Fld := ⟨Adr.MIX_CAP_CFG i, 8, 8⟩
abbrev MIX_CAP_CFG.GROUPS (i : Nat) : Fld := ⟨Adr.MIX_CAP_CFG i, 16, 4⟩
abbrev Adr.MIX_CAP_INTERVAL (i : Nat) : Nat := 0x0170044 + 0x10 * i
abbrev MIX_CAP_INTERVAL.N_M1 (i : Nat) : Fld := ⟨Adr.MIX_CAP_INTERVAL i, 0, 16⟩
abbrev Adr.MIX_METER_CFG (i : Nat) : Nat := 0x0170100 + 4 * i
abbrev MIX_METER_CFG.RMS_LOG2 (i : Nat) : Fld := ⟨Adr.MIX_METER_CFG i, 0, 4⟩
abbrev MIX_METER_CFG.HOLD_MS (i : Nat) : Fld := ⟨Adr.MIX_METER_CFG i, 4, 12⟩
abbrev MIX_METER_CFG.DECAY (i : Nat) : Fld := ⟨Adr.MIX_METER_CFG i, 16, 8⟩
abbrev Adr.MIX_TG_CFG (i : Nat) : Nat := 0x0170200 + 0x20 * i
abbrev MIX_TG_CFG.WAVE (i : Nat) : Fld := ⟨Adr.MIX_TG_CFG i, 0, 3⟩
abbrev MIX_TG_CFG.ID_M1 (i : Nat) : Fld := ⟨Adr.MIX_TG_CFG i, 4, 4⟩
abbrev Adr.MIX_TG_FREQ (i : Nat) : Nat := 0x0170204 + 0x20 * i
abbrev MIX_TG_FREQ.FREQ (i : Nat) : Fld := ⟨Adr.MIX_TG_FREQ i, 0, 20⟩
abbrev Adr.MIX_TG_FREQ2 (i : Nat) : Nat := 0x0170208 + 0x20 * i
abbrev MIX_TG_FREQ2.FREQ (i : Nat) : Fld := ⟨Adr.MIX_TG_FREQ2 i, 0, 20⟩
abbrev Adr.MIX_TG_LEVEL (i : Nat) : Nat := 0x017020C + 0x20 * i
abbrev MIX_TG_LEVEL.LEVEL (i : Nat) : Fld := ⟨Adr.MIX_TG_LEVEL i, 0, 11⟩
abbrev Adr.MIX_TG_SWEEP (i : Nat) : Nat := 0x0170210 + 0x20 * i
abbrev MIX_TG_SWEEP.MS (i : Nat) : Fld := ⟨Adr.MIX_TG_SWEEP i, 0, 16⟩
abbrev Adr.MIX_GAIN (i : Nat) : Nat := 0x0171000 + 4 * i
abbrev MIX_GAIN.GAIN (i : Nat) : Fld := ⟨Adr.MIX_GAIN i, 0, 12⟩
abbrev MIX_GAIN.MUTE (i : Nat) : Fld := ⟨Adr.MIX_GAIN i, 12, 1⟩
abbrev Adr.MIX_GAIN_ACT (i : Nat) : Nat := 0x0172400 + 4 * i
abbrev MIX_GAIN_ACT.GAIN (i : Nat) : Fld := ⟨Adr.MIX_GAIN_ACT i, 0, 12⟩
abbrev MIX_GAIN_ACT.MUTE (i : Nat) : Fld := ⟨Adr.MIX_GAIN_ACT i, 12, 1⟩
abbrev MIX_GAIN_ACT.STEPPING (i : Nat) : Fld := ⟨Adr.MIX_GAIN_ACT i, 13, 1⟩
abbrev Adr.MIX_ROUTE (i : Nat) : Nat := 0x0174000 + 4 * i
abbrev MIX_ROUTE.SRC (i : Nat) : Fld := ⟨Adr.MIX_ROUTE i, 0, 12⟩
abbrev MIX_ROUTE.HARD (i : Nat) : Fld := ⟨Adr.MIX_ROUTE i, 12, 1⟩
abbrev Adr.PCH_CTRL : Nat := 0x0180000
abbrev PCH_CTRL.FORCE_SAFE : Fld := ⟨Adr.PCH_CTRL, 0, 1⟩
abbrev PCH_CTRL.SAFE_RELOAD : Fld := ⟨Adr.PCH_CTRL, 1, 1⟩
abbrev PCH_CTRL.STBY_ENTER : Fld := ⟨Adr.PCH_CTRL, 2, 1⟩
abbrev PCH_CTRL.THERM_CLEAR : Fld := ⟨Adr.PCH_CTRL, 3, 1⟩
abbrev Adr.PCH_CFG : Nat := 0x0180004
abbrev PCH_CFG.FATAL_RESET : Fld := ⟨Adr.PCH_CFG, 0, 1⟩
abbrev PCH_CFG.WD_CORE_RESET : Fld := ⟨Adr.PCH_CFG, 1, 1⟩
abbrev PCH_CFG.SAFE_IN_STBY : Fld := ⟨Adr.PCH_CFG, 2, 1⟩
abbrev Adr.PCH_STATUS : Nat := 0x0180008
abbrev PCH_STATUS.CHIP : Fld := ⟨Adr.PCH_STATUS, 0, 2⟩
abbrev PCH_STATUS.SAFE_RUN : Fld := ⟨Adr.PCH_STATUS, 2, 1⟩
abbrev PCH_STATUS.SAFE_BAD : Fld := ⟨Adr.PCH_STATUS, 3, 1⟩
abbrev PCH_STATUS.SAFE_DEAD : Fld := ⟨Adr.PCH_STATUS, 4, 1⟩
abbrev PCH_STATUS.FORCED : Fld := ⟨Adr.PCH_STATUS, 5, 1⟩
abbrev PCH_STATUS.THERM_WARN : Fld := ⟨Adr.PCH_STATUS, 6, 1⟩
abbrev PCH_STATUS.TRIPPED : Fld := ⟨Adr.PCH_STATUS, 7, 1⟩
abbrev PCH_STATUS.PE_FAULT : Fld := ⟨Adr.PCH_STATUS, 8, 1⟩
abbrev PCH_STATUS.XRUN : Fld := ⟨Adr.PCH_STATUS, 9, 1⟩
abbrev PCH_STATUS.IGNORED : Fld := ⟨Adr.PCH_STATUS, 10, 1⟩
abbrev PCH_STATUS.SMB_ERR : Fld := ⟨Adr.PCH_STATUS, 11, 1⟩
abbrev PCH_STATUS.SRAM_UE : Fld := ⟨Adr.PCH_STATUS, 12, 1⟩
abbrev Adr.PCH_WAKE_CAUSE : Nat := 0x018000C
abbrev PCH_WAKE_CAUSE.CAUSE : Fld := ⟨Adr.PCH_WAKE_CAUSE, 0, 5⟩
abbrev Adr.PCH_SAFE_XRUN_CNT : Nat := 0x0180018
abbrev Adr.PCH_PE_FAULT_CNT : Nat := 0x018001C
abbrev Adr.PCH_IGNORED_CNT : Nat := 0x0180020
abbrev Adr.PCH_PE_FAULT : Nat := 0x0180024
abbrev PCH_PE_FAULT.CODE : Fld := ⟨Adr.PCH_PE_FAULT, 0, 8⟩
abbrev PCH_PE_FAULT.PC : Fld := ⟨Adr.PCH_PE_FAULT, 8, 23⟩
abbrev Adr.PCH_PE_LOAD : Nat := 0x0180028
abbrev PCH_PE_LOAD.CYCLES : Fld := ⟨Adr.PCH_PE_LOAD, 0, 13⟩
abbrev Adr.PCH_WD_STATUS : Nat := 0x0180040
abbrev PCH_WD_STATUS.WD0_EXP : Fld := ⟨Adr.PCH_WD_STATUS, 0, 1⟩
abbrev PCH_WD_STATUS.WD1_EXP : Fld := ⟨Adr.PCH_WD_STATUS, 1, 1⟩
abbrev PCH_WD_STATUS.COUNT : Fld := ⟨Adr.PCH_WD_STATUS, 8, 8⟩
abbrev Adr.PCH_THERM_CFG : Nat := 0x0180050
abbrev PCH_THERM_CFG.WARN : Fld := ⟨Adr.PCH_THERM_CFG, 0, 8⟩
abbrev PCH_THERM_CFG.CLEAR_BELOW : Fld := ⟨Adr.PCH_THERM_CFG, 8, 8⟩
abbrev Adr.PCH_THERM_STATUS : Nat := 0x0180054
abbrev PCH_THERM_STATUS.SENSOR_WARN : Fld := ⟨Adr.PCH_THERM_STATUS, 0, 8⟩
abbrev PCH_THERM_STATUS.TRIP_SENSOR : Fld := ⟨Adr.PCH_THERM_STATUS, 8, 8⟩
abbrev PCH_THERM_STATUS.MAX : Fld := ⟨Adr.PCH_THERM_STATUS, 16, 16⟩
abbrev Adr.PCH_SMB_CFG : Nat := 0x0180080
abbrev PCH_SMB_CFG.ADDR : Fld := ⟨Adr.PCH_SMB_CFG, 0, 2⟩
abbrev PCH_SMB_CFG.PEC_REQ : Fld := ⟨Adr.PCH_SMB_CFG, 2, 1⟩
abbrev PCH_SMB_CFG.ALERT_MASK : Fld := ⟨Adr.PCH_SMB_CFG, 8, 8⟩
abbrev Adr.PCH_SMB_ERR_CNT : Nat := 0x0180084
abbrev Adr.PCH_FL_CFG : Nat := 0x01800A0
abbrev PCH_FL_CFG.MODE : Fld := ⟨Adr.PCH_FL_CFG, 0, 2⟩
abbrev Adr.PCH_FL_CMD : Nat := 0x01800A4
abbrev PCH_FL_CMD.OP : Fld := ⟨Adr.PCH_FL_CMD, 0, 2⟩
abbrev PCH_FL_CMD.GO : Fld := ⟨Adr.PCH_FL_CMD, 8, 1⟩
abbrev Adr.PCH_FL_ADDR : Nat := 0x01800A8
abbrev Adr.PCH_FL_LEN : Nat := 0x01800AC
abbrev PCH_FL_LEN.LEN : Fld := ⟨Adr.PCH_FL_LEN, 0, 26⟩
abbrev Adr.PCH_FL_MEM_LO : Nat := 0x01800B0
abbrev Adr.PCH_FL_STATUS : Nat := 0x01800B8
abbrev PCH_FL_STATUS.BUSY : Fld := ⟨Adr.PCH_FL_STATUS, 0, 1⟩
abbrev PCH_FL_STATUS.DONE : Fld := ⟨Adr.PCH_FL_STATUS, 1, 1⟩
abbrev PCH_FL_STATUS.ERR : Fld := ⟨Adr.PCH_FL_STATUS, 2, 1⟩
abbrev PCH_FL_STATUS.LOCKED : Fld := ⟨Adr.PCH_FL_STATUS, 3, 1⟩
abbrev Adr.PCH_OTP_ADDR : Nat := 0x01800C0
abbrev PCH_OTP_ADDR.WORD : Fld := ⟨Adr.PCH_OTP_ADDR, 0, 8⟩
abbrev Adr.PCH_OTP_DATA : Nat := 0x01800C4
abbrev Adr.PCH_BOOT_STATUS : Nat := 0x01800D0
abbrev PCH_BOOT_STATUS.CODE : Fld := ⟨Adr.PCH_BOOT_STATUS, 0, 4⟩
abbrev PCH_BOOT_STATUS.LAST_ERR : Fld := ⟨Adr.PCH_BOOT_STATUS, 4, 4⟩
abbrev PCH_BOOT_STATUS.SVN : Fld := ⟨Adr.PCH_BOOT_STATUS, 8, 8⟩
abbrev PCH_BOOT_STATUS.KEY : Fld := ⟨Adr.PCH_BOOT_STATUS, 16, 2⟩
abbrev PCH_BOOT_STATUS.UNSIGNED : Fld := ⟨Adr.PCH_BOOT_STATUS, 18, 1⟩
abbrev Adr.PCH_HBOOT_LEN : Nat := 0x01800D4
abbrev PCH_HBOOT_LEN.LEN : Fld := ⟨Adr.PCH_HBOOT_LEN, 0, 26⟩
abbrev Adr.PCH_HBOOT_CTRL : Nat := 0x01800D8
abbrev PCH_HBOOT_CTRL.GO : Fld := ⟨Adr.PCH_HBOOT_CTRL, 0, 1⟩
abbrev Adr.PCH_SRAM_STATUS : Nat := 0x01800E0
abbrev PCH_SRAM_STATUS.BIST_PASS : Fld := ⟨Adr.PCH_SRAM_STATUS, 0, 1⟩
abbrev PCH_SRAM_STATUS.CE : Fld := ⟨Adr.PCH_SRAM_STATUS, 8, 1⟩
abbrev PCH_SRAM_STATUS.UE : Fld := ⟨Adr.PCH_SRAM_STATUS, 9, 1⟩
abbrev Adr.PCH_SRAM_CE_CNT : Nat := 0x01800E4
abbrev Adr.PCH_SRAM_UE_CNT : Nat := 0x01800E8
abbrev Adr.PCH_SRAM_ERR_ADDR : Nat := 0x01800EC
abbrev PCH_SRAM_ERR_ADDR.ADDR : Fld := ⟨Adr.PCH_SRAM_ERR_ADDR, 3, 16⟩
abbrev Adr.PCH_SUBSYS : Nat := 0x0180100
abbrev PCH_SUBSYS.SVID : Fld := ⟨Adr.PCH_SUBSYS, 0, 16⟩
abbrev PCH_SUBSYS.SID : Fld := ⟨Adr.PCH_SUBSYS, 16, 16⟩
abbrev Adr.PCH_SAFE_OWN (i : Nat) : Nat := 0x0180010 + 4 * i
abbrev PCH_SAFE_OWN.OWNER (i : Nat) : Fld := ⟨Adr.PCH_SAFE_OWN i, 0, 1⟩
abbrev PCH_SAFE_OWN.ACT (i : Nat) : Fld := ⟨Adr.PCH_SAFE_OWN i, 8, 1⟩
abbrev Adr.PCH_WD_CFG (i : Nat) : Nat := 0x0180030 + 8 * i
abbrev PCH_WD_CFG.EN (i : Nat) : Fld := ⟨Adr.PCH_WD_CFG i, 0, 1⟩
abbrev PCH_WD_CFG.TIMEOUT_MS (i : Nat) : Fld := ⟨Adr.PCH_WD_CFG i, 16, 16⟩
abbrev Adr.PCH_WD_KICK (i : Nat) : Nat := 0x0180034 + 8 * i
abbrev Adr.PCH_TEMP (i : Nat) : Nat := 0x0180060 + 4 * i
abbrev PCH_TEMP.TEMP (i : Nat) : Fld := ⟨Adr.PCH_TEMP i, 0, 16⟩
abbrev Adr.PCH_MAC_LO (i : Nat) : Nat := 0x0180108 + 8 * i
abbrev Adr.GANG_CTRL : Nat := 0x01D0000
abbrev GANG_CTRL.EN : Fld := ⟨Adr.GANG_CTRL, 0, 1⟩
abbrev GANG_CTRL.DIGEST_EN : Fld := ⟨Adr.GANG_CTRL, 1, 1⟩
abbrev Adr.GANG_CFG : Nat := 0x01D0004
abbrev GANG_CFG.MODE : Fld := ⟨Adr.GANG_CFG, 0, 1⟩
abbrev GANG_CFG.SIZE_M1 : Fld := ⟨Adr.GANG_CFG, 4, 3⟩
abbrev GANG_CFG.INDEX : Fld := ⟨Adr.GANG_CFG, 8, 3⟩
abbrev GANG_CFG.GANG_ID : Fld := ⟨Adr.GANG_CFG, 16, 16⟩
abbrev Adr.GANG_NET : Nat := 0x01D0008
abbrev GANG_NET.ETHERTYPE : Fld := ⟨Adr.GANG_NET, 0, 16⟩
abbrev GANG_NET.PORT_MASK : Fld := ⟨Adr.GANG_NET, 16, 4⟩
abbrev GANG_NET.PCP : Fld := ⟨Adr.GANG_NET, 20, 3⟩
abbrev Adr.GANG_SEG : Nat := 0x01D000C
abbrev GANG_SEG.SEG_OUTPUTS : Fld := ⟨Adr.GANG_SEG, 0, 8⟩
abbrev GANG_SEG.FORMAT : Fld := ⟨Adr.GANG_SEG, 8, 1⟩
abbrev GANG_SEG.PEER_TIMEOUT : Fld := ⟨Adr.GANG_SEG, 16, 8⟩
abbrev Adr.GANG_STATUS : Nat := 0x01D0010
abbrev GANG_STATUS.LOSS : Fld := ⟨Adr.GANG_STATUS, 0, 1⟩
abbrev GANG_STATUS.LATE : Fld := ⟨Adr.GANG_STATUS, 1, 1⟩
abbrev GANG_STATUS.RX_ERR : Fld := ⟨Adr.GANG_STATUS, 2, 1⟩
abbrev GANG_STATUS.SAT : Fld := ⟨Adr.GANG_STATUS, 3, 1⟩
abbrev GANG_STATUS.MISMATCH : Fld := ⟨Adr.GANG_STATUS, 4, 1⟩
abbrev GANG_STATUS.DIGEST_MISS : Fld := ⟨Adr.GANG_STATUS, 5, 1⟩
abbrev GANG_STATUS.CFG_BAD : Fld := ⟨Adr.GANG_STATUS, 6, 1⟩
abbrev GANG_STATUS.CFG_LOCKED : Fld := ⟨Adr.GANG_STATUS, 7, 1⟩
abbrev GANG_STATUS.ACTIVE : Fld := ⟨Adr.GANG_STATUS, 8, 1⟩
abbrev Adr.GANG_PEER_UP : Nat := 0x01D0014
abbrev GANG_PEER_UP.UP : Fld := ⟨Adr.GANG_PEER_UP, 0, 8⟩
abbrev Adr.GANG_TX_CNT : Nat := 0x01D0018
abbrev Adr.GANG_SAT_CNT : Nat := 0x01D001C
abbrev Adr.GANG_DONE_BLOCK_LO : Nat := 0x01D0080
abbrev Adr.GANG_MISMATCH_BLOCK_LO : Nat := 0x01D0088
abbrev Adr.GANG_MISMATCH_OUT : Nat := 0x01D0090
abbrev GANG_MISMATCH_OUT.OUTPUT : Fld := ⟨Adr.GANG_MISMATCH_OUT, 0, 10⟩
abbrev Adr.GANG_MISMATCH_CNT : Nat := 0x01D0094
abbrev Adr.GANG_DIGEST_MISS_CNT : Nat := 0x01D0098
abbrev Adr.GANG_DOWN_CNT : Nat := 0x01D009C
abbrev Adr.GANG_RXERR_CNT : Nat := 0x01D00A0
abbrev Adr.GANG_VLAN : Nat := 0x01D00A4
abbrev GANG_VLAN.VID : Fld := ⟨Adr.GANG_VLAN, 0, 12⟩
abbrev Adr.GANG_SHARE (i : Nat) : Nat := 0x01D0020 + 4 * i
abbrev GANG_SHARE.FIRST (i : Nat) : Fld := ⟨Adr.GANG_SHARE i, 0, 10⟩
abbrev GANG_SHARE.COUNT (i : Nat) : Fld := ⟨Adr.GANG_SHARE i, 16, 10⟩
abbrev Adr.GANG_PEER_MAC_LO (i : Nat) : Nat := 0x01D0040 + 8 * i
abbrev Adr.GANG_PEER_RX_CNT (i : Nat) : Nat := 0x01D0100 + 0x20 * i
abbrev Adr.GANG_PEER_MISS_CNT (i : Nat) : Nat := 0x01D0104 + 0x20 * i
abbrev Adr.GANG_PEER_LATE_CNT (i : Nat) : Nat := 0x01D0108 + 0x20 * i
abbrev Adr.GANG_PEER_DUP_CNT (i : Nat) : Nat := 0x01D010C + 0x20 * i
abbrev Adr.GANG_PEER_CRC_CNT (i : Nat) : Nat := 0x01D0110 + 0x20 * i
abbrev Adr.GANG_PEER_FMT_CNT (i : Nat) : Nat := 0x01D0114 + 0x20 * i
abbrev Adr.OCH_STATUS : Nat := 0x01E0000
abbrev OCH_STATUS.JOB_LATE : Fld := ⟨Adr.OCH_STATUS, 0, 1⟩
abbrev OCH_STATUS.XF_LATE : Fld := ⟨Adr.OCH_STATUS, 1, 1⟩
abbrev OCH_STATUS.SAT : Fld := ⟨Adr.OCH_STATUS, 2, 1⟩
abbrev OCH_STATUS.LIMIT : Fld := ⟨Adr.OCH_STATUS, 3, 1⟩
abbrev Adr.OCH_RAISE : Nat := 0x01E0004
abbrev OCH_RAISE.SLOT : Fld := ⟨Adr.OCH_RAISE, 0, 4⟩
abbrev OCH_RAISE.WHAT : Fld := ⟨Adr.OCH_RAISE, 4, 3⟩
abbrev Adr.OCH_SLOT_CFG (i : Nat) : Nat := 0x01E0100 + 0x20 * i
abbrev OCH_SLOT_CFG.OCT_HALF (i : Nat) : Fld := ⟨Adr.OCH_SLOT_CFG i, 0, 1⟩
abbrev OCH_SLOT_CFG.BYPASS (i : Nat) : Fld := ⟨Adr.OCH_SLOT_CFG i, 1, 1⟩
abbrev Adr.OCH_SLOT_ACT (i : Nat) : Nat := 0x01E0104 + 0x20 * i
abbrev OCH_SLOT_ACT.CFG (i : Nat) : Fld := ⟨Adr.OCH_SLOT_ACT i, 0, 2⟩
abbrev Adr.OCH_SLOT_PREV (i : Nat) : Nat := 0x01E0108 + 0x20 * i
abbrev OCH_SLOT_PREV.CFG (i : Nat) : Fld := ⟨Adr.OCH_SLOT_PREV i, 0, 2⟩
abbrev Adr.OCH_SLOT_JOBLATE_CNT (i : Nat) : Nat := 0x01E010C + 0x20 * i
abbrev Adr.OCH_SLOT_XFLATE_CNT (i : Nat) : Nat := 0x01E0110 + 0x20 * i
abbrev Adr.OCH_SLOT_SAT_CNT (i : Nat) : Nat := 0x01E0114 + 0x20 * i
abbrev Adr.OCH_SLOT_LIMIT_CNT (i : Nat) : Nat := 0x01E0118 + 0x20 * i
abbrev Adr.OCH_SLOT_CBASE_LO (i : Nat) : Nat := 0x01E0300 + 8 * i
abbrev Adr.OCH_OUT (i : Nat) : Nat := 0x01E1000 + 4 * i
abbrev OCH_OUT.FSEL (i : Nat) : Fld := ⟨Adr.OCH_OUT i, 0, 1⟩
abbrev OCH_OUT.EN (i : Nat) : Fld := ⟨Adr.OCH_OUT i, 1, 1⟩
abbrev Adr.OCH_OUT_ACT (i : Nat) : Nat := 0x01E2000 + 4 * i
abbrev OCH_OUT_ACT.OUT (i : Nat) : Fld := ⟨Adr.OCH_OUT_ACT i, 0, 2⟩
abbrev Adr.OCH_OUT_PREV (i : Nat) : Nat := 0x01E3000 + 4 * i
abbrev OCH_OUT_PREV.OUT (i : Nat) : Fld := ⟨Adr.OCH_OUT_PREV i, 0, 2⟩
abbrev Adr.HALL_CTRL : Nat := 0x01F0000
abbrev HALL_CTRL.OUT_SHIFT : Fld := ⟨Adr.HALL_CTRL, 0, 4⟩
abbrev Adr.HALL_STATUS : Nat := 0x01F0004
abbrev HALL_STATUS.PARTIAL : Fld := ⟨Adr.HALL_STATUS, 0, 1⟩
abbrev HALL_STATUS.OVF : Fld := ⟨Adr.HALL_STATUS, 1, 1⟩
abbrev HALL_STATUS.DISCARD : Fld := ⟨Adr.HALL_STATUS, 2, 1⟩
abbrev HALL_STATUS.XBAR_BAD : Fld := ⟨Adr.HALL_STATUS, 3, 1⟩
abbrev HALL_STATUS.CFG_LOCKED : Fld := ⟨Adr.HALL_STATUS, 4, 1⟩
abbrev Adr.HALL_DONE_BLOCK_LO : Nat := 0x01F0008
abbrev Adr.HALL_PARTIAL_SLOTS : Nat := 0x01F0020
abbrev HALL_PARTIAL_SLOTS.SLOTS : Fld := ⟨Adr.HALL_PARTIAL_SLOTS, 0, 16⟩
abbrev Adr.HALL_PARTIAL_CNT : Nat := 0x01F0024
abbrev Adr.HALL_OVF_CNT : Nat := 0x01F0028
abbrev Adr.HALL_DISCARD_CNT : Nat := 0x01F002C
abbrev Adr.HALL_CLAMP_CNT : Nat := 0x01F0030
abbrev Adr.HALL_RSTAGE_BASE : Nat := 0x01F0034
abbrev HALL_RSTAGE_BASE.BASE : Fld := ⟨Adr.HALL_RSTAGE_BASE, 21, 11⟩
abbrev Adr.HALL_XBAR (i : Nat) : Nat := 0x01F0010 + 4 * i
abbrev HALL_XBAR.ENG0 (i : Nat) : Fld := ⟨Adr.HALL_XBAR i, 0, 5⟩
abbrev HALL_XBAR.ENG1 (i : Nat) : Fld := ⟨Adr.HALL_XBAR i, 8, 5⟩
abbrev HALL_XBAR.ENG2 (i : Nat) : Fld := ⟨Adr.HALL_XBAR i, 16, 5⟩
abbrev HALL_XBAR.ENG3 (i : Nat) : Fld := ⟨Adr.HALL_XBAR i, 24, 5⟩
abbrev Adr.HALL_SLOT_CFG (i : Nat) : Nat := 0x01F0100 + 0x40 * i
abbrev HALL_SLOT_CFG.WLEN (i : Nat) : Fld := ⟨Adr.HALL_SLOT_CFG i, 0, 4⟩
abbrev HALL_SLOT_CFG.INTERP (i : Nat) : Fld := ⟨Adr.HALL_SLOT_CFG i, 4, 1⟩
abbrev HALL_SLOT_CFG.HALF (i : Nat) : Fld := ⟨Adr.HALL_SLOT_CFG i, 5, 1⟩
abbrev HALL_SLOT_CFG.SENDERS (i : Nat) : Fld := ⟨Adr.HALL_SLOT_CFG i, 8, 8⟩
abbrev Adr.HALL_SLOT_WIN_BASE (i : Nat) : Nat := 0x01F0104 + 0x40 * i
abbrev HALL_SLOT_WIN_BASE.BASE (i : Nat) : Fld := ⟨Adr.HALL_SLOT_WIN_BASE i, 12, 11⟩
abbrev Adr.HALL_SLOT_PT_BASE0 (i : Nat) : Nat := 0x01F0108 + 0x40 * i
abbrev HALL_SLOT_PT_BASE0.BASE (i : Nat) : Fld := ⟨Adr.HALL_SLOT_PT_BASE0 i, 4, 19⟩
abbrev Adr.HALL_SLOT_PT_BASE1 (i : Nat) : Nat := 0x01F010C + 0x40 * i
abbrev HALL_SLOT_PT_BASE1.BASE (i : Nat) : Fld := ⟨Adr.HALL_SLOT_PT_BASE1 i, 4, 19⟩
abbrev Adr.HALL_SLOT_INTERP_BASE (i : Nat) : Nat := 0x01F0110 + 0x40 * i
abbrev HALL_SLOT_INTERP_BASE.BASE (i : Nat) : Fld := ⟨Adr.HALL_SLOT_INTERP_BASE i, 12, 11⟩
abbrev Adr.HALL_SLOT_STATUS (i : Nat) : Nat := 0x01F0114 + 0x40 * i
abbrev HALL_SLOT_STATUS.HALF_USED (i : Nat) : Fld := ⟨Adr.HALL_SLOT_STATUS i, 0, 1⟩
abbrev HALL_SLOT_STATUS.COMMITS (i : Nat) : Fld := ⟨Adr.HALL_SLOT_STATUS i, 8, 8⟩
abbrev Adr.HALL_SLOT_RESEAT_LO (i : Nat) : Nat := 0x01F0118 + 0x40 * i
abbrev Adr.HALL_OBJ (i : Nat) : Nat := 0x01F1000 + 4 * i
abbrev HALL_OBJ.BULK (i : Nat) : Fld := ⟨Adr.HALL_OBJ i, 0, 20⟩
abbrev HALL_OBJ.EN (i : Nat) : Fld := ⟨Adr.HALL_OBJ i, 31, 1⟩
abbrev Adr.ENG_CTRL (u : Nat) : Nat := 0x0200000 + 0x10000 * u
abbrev ENG_CTRL.ENABLE (u : Nat) : Fld := ⟨Adr.ENG_CTRL u, 0, 1⟩
abbrev ENG_CTRL.HALT (u : Nat) : Fld := ⟨Adr.ENG_CTRL u, 1, 1⟩
abbrev ENG_CTRL.RESUME (u : Nat) : Fld := ⟨Adr.ENG_CTRL u, 2, 1⟩
abbrev ENG_CTRL.ICINV (u : Nat) : Fld := ⟨Adr.ENG_CTRL u, 3, 1⟩
abbrev Adr.ENG_CFG (u : Nat) : Nat := 0x0200004 + 0x10000 * u
abbrev ENG_CFG.CTX1_EN (u : Nat) : Fld := ⟨Adr.ENG_CFG u, 0, 1⟩
abbrev ENG_CFG.PREEMPT_EN (u : Nat) : Fld := ⟨Adr.ENG_CFG u, 1, 1⟩
abbrev ENG_CFG.ICACHE_EN (u : Nat) : Fld := ⟨Adr.ENG_CFG u, 2, 1⟩
abbrev Adr.ENG_STATUS (u : Nat) : Nat := 0x0200008 + 0x10000 * u
abbrev ENG_STATUS.STATE (u : Nat) : Fld := ⟨Adr.ENG_STATUS u, 0, 3⟩
abbrev ENG_STATUS.RUNCTX (u : Nat) : Fld := ⟨Adr.ENG_STATUS u, 3, 1⟩
abbrev ENG_STATUS.CTX0_BUSY (u : Nat) : Fld := ⟨Adr.ENG_STATUS u, 4, 1⟩
abbrev ENG_STATUS.CTX1_BUSY (u : Nat) : Fld := ⟨Adr.ENG_STATUS u, 5, 1⟩
abbrev ENG_STATUS.SELFTEST_PASS (u : Nat) : Fld := ⟨Adr.ENG_STATUS u, 6, 1⟩
abbrev ENG_STATUS.SLOT (u : Nat) : Fld := ⟨Adr.ENG_STATUS u, 8, 5⟩
abbrev ENG_STATUS.ENGINE (u : Nat) : Fld := ⟨Adr.ENG_STATUS u, 16, 5⟩
abbrev Adr.ENG_EVENT (u : Nat) : Nat := 0x020000C + 0x10000 * u
abbrev ENG_EVENT.FAULT (u : Nat) : Fld := ⟨Adr.ENG_EVENT u, 0, 1⟩
abbrev ENG_EVENT.CFG_LOCKED (u : Nat) : Fld := ⟨Adr.ENG_EVENT u, 1, 1⟩
abbrev ENG_EVENT.ICACHE_PARITY (u : Nat) : Fld := ⟨Adr.ENG_EVENT u, 2, 1⟩
abbrev Adr.ENG_FAULT (u : Nat) : Nat := 0x0200010 + 0x10000 * u
abbrev ENG_FAULT.CODE (u : Nat) : Fld := ⟨Adr.ENG_FAULT u, 0, 8⟩
abbrev ENG_FAULT.CTX (u : Nat) : Fld := ⟨Adr.ENG_FAULT u, 8, 1⟩
abbrev ENG_FAULT.ENGINE_CLASS (u : Nat) : Fld := ⟨Adr.ENG_FAULT u, 9, 1⟩
abbrev ENG_FAULT.PARKED_ABORTED (u : Nat) : Fld := ⟨Adr.ENG_FAULT u, 10, 1⟩
abbrev ENG_FAULT.REG_FILE (u : Nat) : Fld := ⟨Adr.ENG_FAULT u, 16, 3⟩
abbrev ENG_FAULT.REG_INDEX (u : Nat) : Fld := ⟨Adr.ENG_FAULT u, 19, 5⟩
abbrev ENG_FAULT.LANE (u : Nat) : Fld := ⟨Adr.ENG_FAULT u, 24, 5⟩
abbrev Adr.ENG_FAULT_PC (u : Nat) : Nat := 0x0200014 + 0x10000 * u
abbrev ENG_FAULT_PC.PC (u : Nat) : Fld := ⟨Adr.ENG_FAULT_PC u, 0, 23⟩
abbrev Adr.ENG_FAULT_ADDR_LO (u : Nat) : Nat := 0x0200018 + 0x10000 * u
abbrev Adr.ENG_FAULT_TASK (u : Nat) : Nat := 0x0200020 + 0x10000 * u
abbrev ENG_FAULT_TASK.TASK (u : Nat) : Fld := ⟨Adr.ENG_FAULT_TASK u, 0, 14⟩
abbrev Adr.ENG_PREEMPT_MAX (u : Nat) : Nat := 0x0200024 + 0x10000 * u
abbrev ENG_PREEMPT_MAX.CYCLES (u : Nat) : Fld := ⟨Adr.ENG_PREEMPT_MAX u, 0, 16⟩
abbrev Adr.ENG_CYCLES_LO (u : Nat) : Nat := 0x0200028 + 0x10000 * u
abbrev Adr.ENG_INJECT (u : Nat) : Nat := 0x0200030 + 0x10000 * u
abbrev ENG_INJECT.TARGET (u : Nat) : Fld := ⟨Adr.ENG_INJECT u, 0, 3⟩
abbrev ENG_INJECT.CTX (u : Nat) : Fld := ⟨Adr.ENG_INJECT u, 3, 1⟩
abbrev Adr.ENG_DBG_SEL (u : Nat) : Nat := 0x0200038 + 0x10000 * u
abbrev ENG_DBG_SEL.FILE (u : Nat) : Fld := ⟨Adr.ENG_DBG_SEL u, 0, 3⟩
abbrev ENG_DBG_SEL.INDEX (u : Nat) : Fld := ⟨Adr.ENG_DBG_SEL u, 3, 5⟩
abbrev ENG_DBG_SEL.LANE (u : Nat) : Fld := ⟨Adr.ENG_DBG_SEL u, 8, 5⟩
abbrev ENG_DBG_SEL.WORD (u : Nat) : Fld := ⟨Adr.ENG_DBG_SEL u, 13, 2⟩
abbrev ENG_DBG_SEL.CTX (u : Nat) : Fld := ⟨Adr.ENG_DBG_SEL u, 15, 1⟩
abbrev Adr.ENG_DBG_DATA (u : Nat) : Nat := 0x020003C + 0x10000 * u
abbrev Adr.ENG_CTX_STATUS (u i : Nat) : Nat := 0x0200040 + 0x10000 * u + 0x40 * i
abbrev ENG_CTX_STATUS.BUSY (u i : Nat) : Fld := ⟨Adr.ENG_CTX_STATUS u i, 0, 1⟩
abbrev ENG_CTX_STATUS.PARKED (u i : Nat) : Fld := ⟨Adr.ENG_CTX_STATUS u i, 1, 1⟩
abbrev ENG_CTX_STATUS.RUNNING (u i : Nat) : Fld := ⟨Adr.ENG_CTX_STATUS u i, 2, 1⟩
abbrev ENG_CTX_STATUS.OVF_ANY (u i : Nat) : Fld := ⟨Adr.ENG_CTX_STATUS u i, 3, 1⟩
abbrev ENG_CTX_STATUS.LOST_ANY (u i : Nat) : Fld := ⟨Adr.ENG_CTX_STATUS u i, 4, 1⟩
abbrev ENG_CTX_STATUS.WRAP_ANY (u i : Nat) : Fld := ⟨Adr.ENG_CTX_STATUS u i, 5, 1⟩
abbrev ENG_CTX_STATUS.MEMERR (u i : Nat) : Fld := ⟨Adr.ENG_CTX_STATUS u i, 6, 1⟩
abbrev ENG_CTX_STATUS.PRIV (u i : Nat) : Fld := ⟨Adr.ENG_CTX_STATUS u i, 7, 1⟩
abbrev ENG_CTX_STATUS.STREAM_PENDING (u i : Nat) : Fld := ⟨Adr.ENG_CTX_STATUS u i, 8, 4⟩
abbrev Adr.ENG_CTX_TASK (u i : Nat) : Nat := 0x0200044 + 0x10000 * u + 0x40 * i
abbrev ENG_CTX_TASK.TASK (u i : Nat) : Fld := ⟨Adr.ENG_CTX_TASK u i, 0, 14⟩
abbrev ENG_CTX_TASK.CLASS (u i : Nat) : Fld := ⟨Adr.ENG_CTX_TASK u i, 14, 2⟩
abbrev Adr.ENG_CTX_PC (u i : Nat) : Nat := 0x0200048 + 0x10000 * u + 0x40 * i
abbrev ENG_CTX_PC.PC (u i : Nat) : Fld := ⟨Adr.ENG_CTX_PC u i, 0, 23⟩
abbrev Adr.ENG_CTX_CYCLES (u i : Nat) : Nat := 0x020004C + 0x10000 * u + 0x40 * i
abbrev Adr.ENG_CTX_OVF (u i : Nat) : Nat := 0x0200050 + 0x10000 * u + 0x40 * i
abbrev Adr.ENG_CTX_LOST (u i : Nat) : Nat := 0x0200054 + 0x10000 * u + 0x40 * i
abbrev Adr.ENG_CTX_WRAP (u i : Nat) : Nat := 0x0200058 + 0x10000 * u + 0x40 * i
abbrev Adr.ENG_CTX_MEMERR_ADDR_LO (u i : Nat) : Nat := 0x0200060 + 0x10000 * u + 0x40 * i
abbrev Adr.ENG_UREGION_BASE_LO (u i : Nat) : Nat := 0x02000C0 + 0x10000 * u + 0x10 * i
abbrev Adr.ENG_UREGION_SIZE (u i : Nat) : Nat := 0x02000C8 + 0x10000 * u + 0x10 * i
abbrev ENG_UREGION_SIZE.SIZE (u i : Nat) : Fld := ⟨Adr.ENG_UREGION_SIZE u i, 0, 24⟩
abbrev ENG_UREGION_SIZE.R (u i : Nat) : Fld := ⟨Adr.ENG_UREGION_SIZE u i, 24, 1⟩
abbrev ENG_UREGION_SIZE.W (u i : Nat) : Fld := ⟨Adr.ENG_UREGION_SIZE u i, 25, 1⟩

end Sys2Proof.Machine
end

