-- ==== Sys2Proof/Machine/RegMap.lean ====
section
/-! DEFINITION. Sys2Proof/Machine/RegMap.lean: the register blocks (R577), the fields of every register with access code, effect and reset value (R7, R8 and each chapter's field tables). -/
namespace Sys2Proof.Machine

/-- The access codes of R7. `rsv` is a reserved bit of an entry that is checked when its VALID is set (R326, R310): it keeps what was written and reads 0. -/
inductive Acc where
  | rw | ro | rc | w1c | w1s | wo | rsv
  deriving DecidableEq, Repr

/-- The "Takes effect" values of R8. A landing field with index `i` in block copy `u` is in bank
`base + i / div + u * mul` (division by 0 counts as 0). -/
inductive Eff where
  | now
  | stopped
  | landing (base div mul : Nat)
  deriving DecidableEq, Repr

/-- One field of a register. -/
structure FSpec where
  lo : Nat
  w : Nat
  acc : Acc
  eff : Eff
  rst : Nat
  deriving DecidableEq, Repr

/-- A register of its own, or one half of a 64-bit pair (R5). -/
inductive Half where
  | word | low | high
  deriving DecidableEq, Repr

/-- A run of `n` registers with the same fields, `stride` bytes apart from offset `off` of the block. -/
structure RegSpec where
  off : Nat
  stride : Nat
  n : Nat
  half : Half
  fields : List FSpec
  deriving DecidableEq, Repr

/-- The blocks of the register index (R577). -/
inductive Blk where
  | lnd | clk | rst | evc | pmc | tsk | hif | xlt | ecc | dmc | fab | mac | tb | fe | sap | mix | pch | gang | och | hall | eng
  deriving DecidableEq, Repr

def lndRegs : List RegSpec := [
  ⟨0x0, 0, 1, .word, [⟨0, 1, .rw, .now, 0⟩, ⟨1, 1, .rw, .stopped, 0⟩, ⟨2, 1, .rw, .stopped, 0⟩, ⟨4, 2, .rw, .stopped, 1⟩, ⟨8, 2, .rw, .stopped, 0⟩, ⟨16, 6, .rw, .stopped, 8⟩, ⟨24, 4, .rw, .stopped, 1⟩]⟩, -- LND_CTRL
  ⟨0x4, 0, 1, .word, [⟨0, 1, .ro, .now, 0⟩, ⟨1, 1, .ro, .now, 0⟩, ⟨8, 1, .w1c, .now, 0⟩, ⟨9, 1, .w1c, .now, 0⟩, ⟨10, 1, .w1c, .now, 0⟩, ⟨11, 1, .w1c, .now, 0⟩, ⟨12, 1, .w1c, .now, 0⟩, ⟨13, 1, .w1c, .now, 0⟩, ⟨14, 1, .w1c, .now, 0⟩]⟩, -- LND_STATUS
  ⟨0x8, 0, 1, .low, [⟨0, 32, .ro, .now, 0⟩]⟩, -- LND_PERIOD_LO
  ⟨0xC, 0, 1, .high, [⟨0, 32, .ro, .now, 0⟩]⟩, -- LND_PERIOD_HI
  ⟨0x10, 0, 1, .low, [⟨0, 32, .rw, .now, 0⟩]⟩, -- LND_TARGET_LO
  ⟨0x14, 0, 1, .high, [⟨0, 32, .rw, .now, 0⟩]⟩, -- LND_TARGET_HI
  ⟨0x18, 0, 1, .low, [⟨0, 32, .wo, .now, 0⟩]⟩, -- LND_ARM_LO
  ⟨0x1C, 0, 1, .high, [⟨0, 32, .wo, .now, 0⟩]⟩, -- LND_ARM_HI
  ⟨0x20, 0, 1, .low, [⟨0, 32, .wo, .now, 0⟩]⟩, -- LND_DISARM_LO
  ⟨0x24, 0, 1, .high, [⟨0, 32, .wo, .now, 0⟩]⟩, -- LND_DISARM_HI
  ⟨0x28, 0, 1, .low, [⟨0, 32, .ro, .now, 0⟩]⟩, -- LND_ARMED_LO
  ⟨0x2C, 0, 1, .high, [⟨0, 32, .ro, .now, 0⟩]⟩, -- LND_ARMED_HI
  ⟨0x30, 0, 1, .low, [⟨0, 32, .ro, .now, 0⟩]⟩, -- LND_MISSED_LO
  ⟨0x34, 0, 1, .high, [⟨0, 32, .ro, .now, 0⟩]⟩, -- LND_MISSED_HI
  ⟨0x38, 0, 1, .low, [⟨0, 32, .w1c, .now, 0⟩]⟩, -- LND_BUSY_LO
  ⟨0x3C, 0, 1, .high, [⟨0, 32, .w1c, .now, 0⟩]⟩, -- LND_BUSY_HI
  ⟨0x40, 0, 1, .low, [⟨0, 32, .ro, .now, 0⟩]⟩, -- LND_LANDED_PERIOD_LO
  ⟨0x44, 0, 1, .high, [⟨0, 32, .ro, .now, 0⟩]⟩, -- LND_LANDED_PERIOD_HI
  ⟨0x48, 0, 1, .low, [⟨0, 32, .ro, .now, 0⟩]⟩, -- LND_LANDED_MASK_LO
  ⟨0x4C, 0, 1, .high, [⟨0, 32, .ro, .now, 0⟩]⟩, -- LND_LANDED_MASK_HI
  ⟨0x50, 0, 1, .low, [⟨0, 32, .ro, .now, 0⟩]⟩, -- LND_SAMPLE_LO
  ⟨0x54, 0, 1, .high, [⟨0, 32, .ro, .now, 0⟩]⟩, -- LND_SAMPLE_HI
  ⟨0x58, 0, 1, .word, [⟨0, 3, .rw, .now, 3⟩, ⟨8, 8, .rw, .now, 0xa⟩]⟩, -- LND_MPLL_CFG
  ⟨0x5C, 0, 1, .word, [⟨0, 1, .ro, .now, 0⟩, ⟨1, 1, .ro, .now, 0⟩, ⟨16, 16, .ro, .now, 0⟩]⟩, -- LND_MPLL_STATUS
  ⟨0x100, 8, 64, .low, [⟨0, 32, .ro, .now, 0⟩]⟩, -- LND_BANK_TARGET_LO
  ⟨0x104, 8, 64, .high, [⟨0, 32, .ro, .now, 0⟩]⟩ -- LND_BANK_TARGET_HI
  ]

def clkRegs : List RegSpec := [
  ⟨0x0, 0, 1, .word, [⟨0, 1, .wo, .now, 0⟩, ⟨1, 1, .wo, .now, 0⟩, ⟨8, 4, .rw, .now, 0⟩, ⟨12, 3, .rw, .now, 0⟩]⟩, -- CLK_CTRL
  ⟨0x4, 0, 1, .word, [⟨0, 1, .ro, .now, 0⟩, ⟨1, 1, .ro, .now, 0⟩, ⟨2, 1, .ro, .now, 0⟩, ⟨3, 1, .ro, .now, 0⟩, ⟨4, 4, .ro, .now, 0⟩, ⟨8, 1, .ro, .now, 0⟩, ⟨16, 1, .w1c, .now, 0⟩, ⟨17, 1, .w1c, .now, 0⟩, ⟨18, 1, .w1c, .now, 0⟩]⟩, -- CLK_STATUS
  ⟨0x8, 0, 1, .word, [⟨0, 32, .ro, .now, 0⟩]⟩, -- CLK_MEAS_RESULT
  ⟨0xC, 0, 1, .word, [⟨0, 32, .rc, .now, 0⟩]⟩, -- CLK_XTAL_FAIL_CNT
  ⟨0x10, 0, 1, .word, [⟨0, 32, .rc, .now, 0⟩]⟩ -- CLK_ROOT_UNLOCK_CNT
  ]

def rstRegs : List RegSpec := [
  ⟨0x0, 0, 1, .word, [⟨0, 1, .wo, .now, 0⟩]⟩, -- RST_CTRL
  ⟨0x4, 0, 1, .word, [⟨0, 4, .ro, .now, 0⟩, ⟨8, 16, .ro, .now, 0⟩]⟩, -- RST_CAUSE
  ⟨0x8, 0, 1, .word, [⟨0, 1, .w1c, .now, 0⟩, ⟨1, 1, .w1c, .now, 0⟩]⟩, -- RST_STATUS
  ⟨0xC, 0, 1, .word, [⟨0, 32, .rc, .now, 0⟩]⟩, -- RST_IGNORED_CNT
  ⟨0x10, 0, 1, .word, [⟨0, 17, .rw, .now, 0⟩]⟩, -- RST_ENG
  ⟨0x40, 0, 1, .word, [⟨0, 17, .ro, .now, 0⟩]⟩, -- RST_ENG_BUSY
  ⟨0x14, 0, 1, .word, [⟨0, 2, .rw, .now, 0⟩]⟩, -- RST_SC
  ⟨0x44, 0, 1, .word, [⟨0, 2, .ro, .now, 0⟩]⟩, -- RST_SC_BUSY
  ⟨0x18, 0, 1, .word, [⟨0, 4, .rw, .now, 0⟩]⟩, -- RST_MAC
  ⟨0x48, 0, 1, .word, [⟨0, 4, .ro, .now, 0⟩]⟩, -- RST_MAC_BUSY
  ⟨0x1C, 0, 1, .word, [⟨0, 8, .rw, .now, 0⟩]⟩, -- RST_DMC
  ⟨0x4C, 0, 1, .word, [⟨0, 8, .ro, .now, 0⟩]⟩, -- RST_DMC_BUSY
  ⟨0x20, 0, 1, .word, [⟨0, 8, .rw, .now, 0⟩]⟩, -- RST_SAP
  ⟨0x50, 0, 1, .word, [⟨0, 8, .ro, .now, 0⟩]⟩, -- RST_SAP_BUSY
  ⟨0x24, 0, 1, .word, [⟨0, 3, .rw, .now, 0⟩]⟩, -- RST_MISC
  ⟨0x54, 0, 1, .word, [⟨0, 3, .ro, .now, 0⟩]⟩ -- RST_MISC_BUSY
  ]

def evcRegs : List RegSpec := [
  ⟨0x0, 0, 1, .word, [⟨0, 1, .ro, .now, 0⟩]⟩, -- EVC_STATUS
  ⟨0x4, 0, 1, .word, [⟨0, 4, .wo, .now, 0⟩, ⟨16, 16, .wo, .now, 0⟩]⟩, -- EVC_SWTRIG
  ⟨0x8, 0, 1, .word, [⟨0, 32, .rc, .now, 0⟩]⟩, -- EVC_OVF_CNT
  ⟨0xC, 4, 2, .word, [⟨0, 9, .ro, .now, 0x100⟩]⟩, -- EVC_SC_CLAIM
  ⟨0x100, 4, 8, .word, [⟨0, 32, .w1c, .now, 0⟩]⟩, -- EVC_PEND
  ⟨0x120, 4, 8, .word, [⟨0, 32, .ro, .now, 0⟩]⟩, -- EVC_LEVEL
  ⟨0x400, 4, 256, .word, [⟨0, 1, .rw, .now, 1⟩, ⟨1, 1, .rw, .now, 0⟩, ⟨2, 1, .rw, .now, 0⟩, ⟨3, 1, .rw, .now, 0⟩, ⟨4, 1, .rw, .now, 0⟩, ⟨5, 1, .rw, .now, 0⟩, ⟨8, 6, .rw, .now, 0⟩, ⟨31, 1, .ro, .now, 0⟩]⟩ -- EVC_SRC_CFG
  ]

def pmcRegs : List RegSpec := [
  ⟨0x0, 0, 1, .word, [⟨0, 24, .rw, .now, 0⟩]⟩, -- PMC_PERM_ENG
  ⟨0x4, 0, 1, .word, [⟨0, 24, .rw, .now, 0⟩]⟩, -- PMC_PERM_HOST
  ⟨0x8, 0, 1, .word, [⟨0, 1, .rw, .now, 0⟩, ⟨12, 20, .rw, .now, 0⟩]⟩, -- PMC_MIRROR
  ⟨0xC, 0, 1, .word, [⟨0, 5, .wo, .now, 0⟩]⟩, -- PMC_CLR_GRP
  ⟨0x10, 0, 1, .word, [⟨0, 1, .w1c, .now, 0⟩, ⟨1, 1, .w1c, .now, 0⟩]⟩, -- PMC_STATUS
  ⟨0x40, 4, 12, .word, [⟨0, 32, .rw, .now, 0xffffffff⟩]⟩, -- PMC_MODE
  ⟨0x80, 4, 12, .word, [⟨0, 32, .w1c, .now, 0⟩]⟩, -- PMC_WRAP
  ⟨0x1000, 8, 384, .low, [⟨0, 32, .rw, .now, 0⟩]⟩, -- PMC_CNT_LO
  ⟨0x1004, 8, 384, .high, [⟨0, 16, .rw, .now, 0⟩]⟩ -- PMC_CNT_HI
  ]

def tskRegs : List RegSpec := [
  ⟨0x0, 0, 1, .word, [⟨0, 1, .rw, .now, 0⟩, ⟨8, 5, .wo, .now, 0⟩, ⟨13, 1, .wo, .now, 0⟩, ⟨16, 5, .wo, .now, 0⟩, ⟨21, 1, .wo, .now, 0⟩]⟩, -- TSK_CTRL
  ⟨0x4, 0, 1, .word, [⟨0, 8, .rw, (.landing 33 0 0), 0x55⟩, ⟨8, 1, .rw, (.landing 33 0 0), 1⟩, ⟨9, 1, .rw, (.landing 33 0 0), 1⟩, ⟨10, 1, .rw, (.landing 33 0 0), 1⟩]⟩, -- TSK_CFG
  ⟨0x8, 0, 1, .word, [⟨0, 1, .ro, .now, 0⟩, ⟨1, 1, .ro, .now, 0⟩, ⟨2, 5, .ro, .now, 0x1f⟩, ⟨7, 1, .w1c, .now, 0⟩]⟩, -- TSK_STATUS
  ⟨0xC, 0, 1, .word, [⟨6, 26, .rw, .stopped, 0x10000000⟩]⟩, -- TSK_POOL_BASE
  ⟨0x10, 0, 1, .word, [⟨0, 15, .rw, .stopped, 0x4000⟩]⟩, -- TSK_POOL_SIZE
  ⟨0x14, 0, 1, .word, [⟨0, 14, .rw, (.landing 33 0 0), 0⟩, ⟨16, 14, .rw, (.landing 33 0 0), 0⟩]⟩, -- TSK_RECOVERY
  ⟨0x18, 0, 1, .word, [⟨0, 5, .ro, .now, 0x10⟩, ⟨5, 1, .ro, .now, 0⟩]⟩, -- TSK_SPARE
  ⟨0x1C, 0, 1, .word, [⟨0, 5, .ro, .now, 0⟩]⟩, -- TSK_SHED
  ⟨0x20, 0, 1, .word, [⟨0, 14, .ro, .now, 0⟩, ⟨16, 3, .ro, .now, 0⟩]⟩, -- TSK_VERR
  ⟨0x24, 0, 1, .word, [⟨4, 28, .rw, .stopped, 0⟩]⟩, -- TSK_CLOG_BASE
  ⟨0x28, 0, 1, .word, [⟨0, 4, .rw, .stopped, 0xa⟩, ⟨16, 16, .ro, .now, 0⟩]⟩, -- TSK_CLOG_CFG
  ⟨0x2C, 0, 1, .word, [⟨0, 16, .rw, .now, 0⟩]⟩, -- TSK_CLOG_RD
  ⟨0x30, 0, 1, .word, [⟨0, 32, .rc, .now, 0⟩]⟩, -- TSK_CLOG_DROP_CNT
  ⟨0x38, 0, 1, .low, [⟨0, 32, .rw, (.landing 33 0 0), 0⟩]⟩, -- TSK_TMPL_EN_LO
  ⟨0x3C, 0, 1, .high, [⟨0, 32, .rw, (.landing 33 0 0), 0⟩]⟩, -- TSK_TMPL_EN_HI
  ⟨0x80, 0, 1, .word, [⟨0, 32, .rc, .now, 0⟩]⟩, -- TSK_OVERBUDGET_CNT
  ⟨0x84, 0, 1, .word, [⟨0, 32, .rc, .now, 0⟩]⟩, -- TSK_OVERRUN_CNT
  ⟨0x88, 0, 1, .word, [⟨0, 32, .rc, .now, 0⟩]⟩, -- TSK_DEPERR_CNT
  ⟨0x8C, 0, 1, .word, [⟨0, 32, .rc, .now, 0⟩]⟩, -- TSK_TAKEOVER_CNT
  ⟨0xB0, 0, 1, .word, [⟨0, 32, .ro, .now, 0⟩]⟩, -- TSK_TK_CYCLES
  ⟨0x40, 4, 4, .word, [⟨0, 32, .rw, (.landing 33 0 0), 0⟩]⟩, -- TSK_CLIMIT
  ⟨0x50, 4, 4, .word, [⟨0, 15, .ro, .now, 0⟩]⟩, -- TSK_READY
  ⟨0x60, 4, 4, .word, [⟨0, 32, .ro, .now, 0⟩]⟩, -- TSK_OLDEST
  ⟨0x70, 4, 4, .word, [⟨0, 32, .rc, .now, 0⟩]⟩, -- TSK_LATE
  ⟨0x90, 4, 4, .word, [⟨0, 5, .ro, .now, 0⟩, ⟨8, 5, .ro, .now, 1⟩, ⟨16, 5, .ro, .now, 2⟩, ⟨24, 5, .ro, .now, 3⟩]⟩, -- TSK_SLOT_ENG
  ⟨0xA0, 4, 2, .word, [⟨0, 4, .rw, (.landing 33 0 0), 1⟩, ⟨4, 4, .rw, (.landing 33 0 0), 0⟩, ⟨8, 4, .rw, (.landing 33 0 0), 3⟩, ⟨12, 4, .rw, (.landing 33 0 0), 2⟩, ⟨16, 4, .rw, (.landing 33 0 0), 5⟩, ⟨20, 4, .rw, (.landing 33 0 0), 4⟩, ⟨24, 4, .rw, (.landing 33 0 0), 7⟩, ⟨28, 4, .rw, (.landing 33 0 0), 6⟩]⟩, -- TSK_FOSTER
  ⟨0x100, 8, 17, .word, [⟨0, 32, .ro, .now, 0⟩]⟩, -- TSK_ENG_BUSY0
  ⟨0x104, 8, 17, .word, [⟨0, 32, .ro, .now, 0⟩]⟩, -- TSK_ENG_BUSY
  ⟨0x200, 4, 16, .word, [⟨0, 32, .rc, .now, 0⟩]⟩, -- TSK_HISTA
  ⟨0x240, 4, 16, .word, [⟨0, 32, .rc, .now, 0⟩]⟩, -- TSK_HISTB
  ⟨0x300, 4, 128, .word, [⟨0, 4, .rw, (.landing 33 0 0), 0⟩, ⟨4, 4, .rw, (.landing 33 0 0), 0⟩, ⟨8, 4, .rw, (.landing 33 0 0), 0⟩, ⟨12, 4, .rw, (.landing 33 0 0), 0⟩, ⟨16, 4, .rw, (.landing 33 0 0), 0⟩, ⟨20, 4, .rw, (.landing 33 0 0), 0⟩, ⟨24, 4, .rw, (.landing 33 0 0), 0⟩, ⟨28, 4, .rw, (.landing 33 0 0), 0⟩]⟩, -- TSK_OBJPRI
  ⟨0x400, 16, 64, .word, [⟨0, 14, .rw, (.landing 33 0 0), 0⟩]⟩, -- TSK_TMPL_BASE
  ⟨0x404, 16, 64, .word, [⟨0, 15, .rw, (.landing 33 0 0), 0⟩]⟩, -- TSK_TMPL_COUNT
  ⟨0x408, 16, 64, .word, [⟨0, 6, .rw, (.landing 33 0 0), 1⟩, ⟨6, 6, .rw, (.landing 33 0 0), 0⟩, ⟨12, 3, .rw, (.landing 33 0 0), 0⟩, ⟨15, 1, .rw, (.landing 33 0 0), 0⟩, ⟨16, 8, .rw, (.landing 33 0 0), 0⟩, ⟨24, 2, .rw, (.landing 33 0 0), 0⟩, ⟨26, 1, .rw, (.landing 33 0 0), 0⟩]⟩, -- TSK_TMPL_CFG
  ⟨0x40C, 16, 64, .word, [⟨0, 15, .ro, .now, 0⟩, ⟨15, 1, .ro, .now, 0⟩, ⟨16, 16, .ro, .now, 0⟩]⟩ -- TSK_TMPL_STATUS
  ]

def hifRegs : List RegSpec := [
  ⟨0x0, 0, 1, .word, [⟨0, 1, .rw, .now, 0⟩, ⟨1, 1, .rw, .now, 0⟩]⟩, -- HIF_CTRL
  ⟨0x4, 0, 1, .word, [⟨0, 1, .ro, .now, 0⟩, ⟨1, 2, .ro, .now, 0⟩, ⟨3, 3, .ro, .now, 0⟩, ⟨6, 1, .ro, .now, 0⟩, ⟨7, 1, .w1c, .now, 0⟩, ⟨8, 1, .w1c, .now, 0⟩, ⟨9, 1, .w1c, .now, 0⟩, ⟨10, 1, .w1c, .now, 0⟩]⟩, -- HIF_STATUS
  ⟨0x8, 0, 1, .word, [⟨16, 16, .rw, .stopped, 0x1100⟩]⟩, -- HIF_JRNL_BASE0
  ⟨0xC, 0, 1, .word, [⟨16, 16, .rw, .stopped, 0x1300⟩]⟩, -- HIF_JRNL_BASE1
  ⟨0x10, 0, 1, .word, [⟨0, 4, .rw, .stopped, 7⟩]⟩, -- HIF_JRNL_CFG
  ⟨0x14, 0, 1, .word, [⟨0, 8, .ro, .now, 0⟩]⟩, -- HIF_FW_PEND
  ⟨0x18, 0, 1, .low, [⟨0, 32, .rw, .now, 0⟩]⟩, -- HIF_FW_RESULT_LO
  ⟨0x1C, 0, 1, .high, [⟨0, 32, .rw, .now, 0⟩]⟩, -- HIF_FW_RESULT_HI
  ⟨0x20, 0, 1, .word, [⟨0, 3, .wo, .now, 0⟩, ⟨16, 16, .wo, .now, 0⟩]⟩, -- HIF_FW_DONE
  ⟨0x24, 0, 1, .word, [⟨0, 32, .rc, .now, 0⟩]⟩, -- HIF_FW_STRAY_CNT
  ⟨0x28, 0, 1, .word, [⟨0, 32, .rc, .now, 0⟩]⟩, -- HIF_JRNL_UE_CNT
  ⟨0x2C, 0, 1, .word, [⟨0, 32, .rc, .now, 0⟩]⟩, -- HIF_BAR4_REFUSED_CNT
  ⟨0x30, 0, 1, .word, [⟨0, 32, .rc, .now, 0⟩]⟩, -- HIF_LINKDOWN_CNT
  ⟨0x40, 0, 1, .low, [⟨0, 32, .ro, .now, 0⟩]⟩, -- HIF_EVFAULT_ADDR_LO
  ⟨0x44, 0, 1, .high, [⟨0, 32, .ro, .now, 0⟩]⟩, -- HIF_EVFAULT_ADDR_HI
  ⟨0x48, 0, 1, .word, [⟨0, 8, .ro, .now, 0⟩, ⟨8, 4, .ro, .now, 0⟩, ⟨16, 16, .ro, .now, 0⟩]⟩, -- HIF_EVFAULT_INFO
  ⟨0x800, 64, 41, .low, [⟨0, 32, .rw, .stopped, 0⟩]⟩, -- HIF_RING_BASE_LO
  ⟨0x804, 64, 41, .high, [⟨0, 32, .rw, .stopped, 0⟩]⟩, -- HIF_RING_BASE_HI
  ⟨0x808, 64, 41, .word, [⟨0, 4, .rw, .stopped, 0⟩, ⟨4, 4, .rw, .stopped, 0⟩, ⟨8, 3, .rw, .stopped, 0⟩, ⟨11, 2, .rw, .stopped, 0⟩, ⟨13, 5, .rw, .stopped, 0⟩, ⟨18, 6, .rw, .stopped, 0⟩, ⟨24, 8, .rw, .stopped, 0⟩]⟩, -- HIF_RING_CFG
  ⟨0x80C, 64, 41, .word, [⟨0, 1, .rw, .now, 0⟩, ⟨1, 1, .rw, .now, 0⟩, ⟨2, 1, .wo, .now, 0⟩]⟩, -- HIF_RING_CTRL
  ⟨0x810, 64, 41, .word, [⟨0, 3, .ro, .now, 0⟩, ⟨3, 1, .ro, .now, 0⟩, ⟨8, 4, .ro, .now, 0⟩]⟩, -- HIF_RING_STATUS
  ⟨0x814, 64, 41, .word, [⟨0, 32, .ro, .now, 0⟩]⟩, -- HIF_RING_HOST_IDX
  ⟨0x818, 64, 41, .word, [⟨0, 32, .ro, .now, 0⟩]⟩, -- HIF_RING_DEV_IDX
  ⟨0x81C, 64, 41, .word, [⟨0, 32, .rc, .now, 0⟩]⟩, -- HIF_RING_DISCARD_CNT
  ⟨0x820, 64, 41, .low, [⟨0, 32, .ro, .now, 0⟩]⟩, -- HIF_RING_LAST_ACCEPTED_LO
  ⟨0x824, 64, 41, .high, [⟨0, 32, .ro, .now, 0⟩]⟩, -- HIF_RING_LAST_ACCEPTED_HI
  ⟨0x828, 64, 41, .low, [⟨0, 32, .ro, .now, 0⟩]⟩, -- HIF_RING_LAST_COMPLETED_LO
  ⟨0x82C, 64, 41, .high, [⟨0, 32, .ro, .now, 0⟩]⟩, -- HIF_RING_LAST_COMPLETED_HI
  ⟨0x830, 64, 41, .word, [⟨0, 32, .ro, .now, 0⟩]⟩, -- HIF_RING_FW_JADDR
  ⟨0x8000, 16, 64, .word, [⟨0, 32, .rw, .now, 0⟩]⟩, -- HIF_MSIX_ADDR_LO
  ⟨0x8004, 16, 64, .word, [⟨0, 32, .rw, .now, 0⟩]⟩, -- HIF_MSIX_ADDR_HI
  ⟨0x8008, 16, 64, .word, [⟨0, 32, .rw, .now, 0⟩]⟩, -- HIF_MSIX_DATA
  ⟨0x800C, 16, 64, .word, [⟨0, 1, .rw, .now, 1⟩]⟩, -- HIF_MSIX_CTRL
  ⟨0x9000, 4, 2, .word, [⟨0, 32, .ro, .now, 0⟩]⟩ -- HIF_MSIX_PBA
  ]

def xltRegs : List RegSpec := [
  ⟨0x0, 0, 1, .word, [⟨0, 1, .ro, .now, 0⟩, ⟨1, 1, .w1c, .now, 0⟩]⟩, -- XLT_STATUS
  ⟨0x4, 0, 1, .word, [⟨0, 4, .ro, .now, 0⟩, ⟨8, 2, .ro, .now, 0⟩]⟩, -- XLT_VERR
  ⟨0x8, 0, 1, .low, [⟨12, 20, .rw, .now, 0⟩]⟩, -- XLT_INV_ADDR_LO
  ⟨0xC, 0, 1, .high, []⟩, -- XLT_INV_ADDR_HI
  ⟨0x10, 0, 1, .word, [⟨0, 21, .rw, .now, 0⟩]⟩, -- XLT_INV_PAGES
  ⟨0x14, 0, 1, .word, [⟨0, 4, .wo, .now, 0⟩, ⟨4, 1, .wo, .now, 0⟩, ⟨5, 1, .wo, .now, 0⟩]⟩, -- XLT_INV
  ⟨0x18, 0, 1, .word, [⟨0, 32, .rc, .now, 0⟩]⟩, -- XLT_FAULT_CNT
  ⟨0x100, 16, 16, .low, [⟨14, 18, .rw, .now, 0⟩, ⟨0, 14, .rsv, .now, 0⟩]⟩, -- XLT_CTX_ROOT_LO
  ⟨0x104, 16, 16, .high, [⟨0, 16, .rw, .now, 0⟩, ⟨16, 16, .rsv, .now, 0⟩]⟩, -- XLT_CTX_ROOT_HI
  ⟨0x108, 16, 16, .word, [⟨0, 1, .rw, .now, 0⟩, ⟨1, 1, .rw, .now, 0⟩, ⟨2, 30, .rsv, .now, 0⟩]⟩, -- XLT_CTX_CFG
  ⟨0x10C, 16, 16, .word, [⟨0, 16, .ro, .now, 0⟩]⟩ -- XLT_CTX_FSEQ
  ]

def eccRegs : List RegSpec := [
  ⟨0x0, 0, 1, .word, [⟨0, 1, .rw, .now, 0⟩]⟩, -- ECC_SCRUB_CTRL
  ⟨0x4, 0, 1, .word, [⟨0, 8, .rw, .now, 0x1e⟩]⟩, -- ECC_SCRUB_CFG
  ⟨0x8, 0, 1, .word, [⟨0, 1, .ro, .now, 0⟩, ⟨1, 1, .ro, .now, 0⟩, ⟨2, 1, .ro, .now, 0⟩, ⟨3, 1, .ro, .now, 0⟩, ⟨8, 1, .w1c, .now, 0⟩, ⟨9, 1, .w1c, .now, 0⟩, ⟨10, 1, .w1c, .now, 0⟩, ⟨11, 1, .w1c, .now, 0⟩, ⟨12, 1, .w1c, .now, 0⟩, ⟨13, 1, .w1c, .now, 0⟩, ⟨14, 1, .w1c, .now, 0⟩, ⟨15, 1, .w1c, .now, 0⟩]⟩, -- ECC_STATUS
  ⟨0xC, 0, 1, .word, [⟨0, 32, .ro, .now, 0⟩]⟩, -- ECC_SCRUB_PASS_CNT
  ⟨0x10, 0, 1, .word, [⟨0, 32, .ro, .now, 0⟩]⟩, -- ECC_SCRUB_LAST_MS
  ⟨0x14, 0, 1, .word, [⟨0, 4, .rw, .stopped, 4⟩]⟩, -- ECC_SPARE_CFG
  ⟨0x18, 0, 1, .low, [⟨6, 26, .rw, .now, 0⟩]⟩, -- ECC_FILL_ADDR_LO
  ⟨0x1C, 0, 1, .high, [⟨0, 8, .rw, .now, 0⟩]⟩, -- ECC_FILL_ADDR_HI
  ⟨0x20, 0, 1, .word, [⟨6, 26, .rw, .now, 0⟩]⟩, -- ECC_FILL_LEN
  ⟨0x24, 0, 1, .word, [⟨0, 1, .wo, .now, 0⟩]⟩, -- ECC_FILL_CTRL
  ⟨0x28, 0, 1, .low, [⟨3, 29, .rw, .now, 0⟩]⟩, -- ECC_INJ_ADDR_LO
  ⟨0x2C, 0, 1, .high, [⟨0, 8, .rw, .now, 0⟩]⟩, -- ECC_INJ_ADDR_HI
  ⟨0x30, 0, 1, .word, [⟨0, 2, .rw, .now, 0⟩, ⟨8, 7, .rw, .now, 0⟩, ⟨16, 7, .rw, .now, 0⟩, ⟨31, 1, .w1s, .now, 0⟩]⟩, -- ECC_INJ_CTRL
  ⟨0x34, 0, 1, .word, [⟨0, 1, .rw, .now, 0⟩, ⟨8, 6, .ro, .now, 0⟩]⟩, -- ECC_LOG_CFG
  ⟨0x38, 0, 1, .word, [⟨0, 1, .ro, .now, 0⟩]⟩, -- ECC_LOG_POP
  ⟨0x3C, 0, 1, .low, [⟨0, 32, .ro, .now, 0⟩]⟩, -- ECC_LOG_ADDR_LO
  ⟨0x40, 0, 1, .high, [⟨0, 8, .ro, .now, 0⟩]⟩, -- ECC_LOG_ADDR_HI
  ⟨0x44, 0, 1, .word, [⟨0, 4, .ro, .now, 0⟩, ⟨4, 7, .ro, .now, 0⟩, ⟨11, 5, .ro, .now, 0⟩, ⟨16, 7, .ro, .now, 0⟩, ⟨23, 9, .ro, .now, 0⟩]⟩, -- ECC_LOG_INFO
  ⟨0x48, 0, 1, .word, [⟨0, 32, .rc, .now, 0⟩]⟩, -- ECC_LOG_DROP_CNT
  ⟨0x50, 0, 1, .word, [⟨0, 32, .rc, .now, 0⟩]⟩, -- ECC_REGEN_CNT
  ⟨0x54, 0, 1, .word, [⟨0, 32, .rc, .now, 0⟩]⟩, -- ECC_PRECIOUS_CNT
  ⟨0x58, 0, 1, .word, [⟨0, 32, .rc, .now, 0⟩]⟩, -- ECC_PW_CE_CNT
  ⟨0x5C, 0, 1, .word, [⟨0, 32, .rc, .now, 0⟩]⟩, -- ECC_PW_UE_CNT
  ⟨0x60, 0, 1, .word, [⟨0, 32, .rc, .now, 0⟩]⟩, -- ECC_POISON_READ_CNT
  ⟨0x100, 16, 64, .word, [⟨0, 28, .rw, .stopped, 0⟩]⟩, -- ECC_REGION_BASE
  ⟨0x104, 16, 64, .word, [⟨0, 28, .rw, .stopped, 0⟩]⟩, -- ECC_REGION_LIMIT
  ⟨0x108, 16, 64, .word, [⟨0, 2, .rw, .stopped, 0⟩]⟩, -- ECC_REGION_CFG
  ⟨0x1000, 16, 304, .word, [⟨0, 1, .ro, .now, 0⟩, ⟨1, 1, .ro, .now, 0⟩, ⟨4, 4, .ro, .now, 0⟩, ⟨8, 1, .ro, .now, 0⟩, ⟨9, 4, .ro, .now, 0⟩]⟩, -- ECC_BANK_STATUS
  ⟨0x1004, 16, 304, .word, [⟨0, 32, .rc, .now, 0⟩]⟩, -- ECC_BANK_CE_CNT
  ⟨0x1008, 16, 304, .word, [⟨0, 32, .rc, .now, 0⟩]⟩ -- ECC_BANK_UE_CNT
  ]

def dmcRegs : List RegSpec := [
  ⟨0x0, 0, 1, .word, [⟨0, 1, .wo, .now, 0⟩, ⟨1, 1, .wo, .now, 0⟩, ⟨2, 1, .wo, .now, 0⟩, ⟨3, 1, .w1s, .now, 0⟩, ⟨4, 1, .rw, .now, 0⟩, ⟨5, 1, .rw, .now, 0⟩]⟩, -- DMC_CTRL
  ⟨0x4, 0, 1, .word, [⟨0, 2, .rw, .stopped, 3⟩, ⟨2, 1, .rw, .stopped, 0⟩, ⟨3, 2, .rw, .stopped, 2⟩, ⟨5, 1, .rw, .stopped, 0⟩, ⟨8, 1, .rw, .stopped, 0⟩]⟩, -- DMC_CFG
  ⟨0x8, 0, 1, .word, [⟨0, 3, .ro, .now, 0⟩, ⟨4, 2, .ro, .now, 0⟩, ⟨8, 4, .ro, .now, 0⟩, ⟨12, 1, .ro, .now, 0⟩, ⟨13, 1, .ro, .now, 0⟩, ⟨16, 1, .w1c, .now, 0⟩, ⟨17, 1, .w1c, .now, 0⟩, ⟨18, 1, .w1c, .now, 0⟩, ⟨19, 1, .w1c, .now, 0⟩]⟩, -- DMC_STATUS
  ⟨0xC, 0, 1, .word, [⟨0, 8, .ro, .now, 0⟩, ⟨8, 8, .ro, .now, 0⟩]⟩, -- DMC_MR4
  ⟨0x10, 0, 1, .word, [⟨0, 13, .rw, .stopped, 0xf42⟩]⟩, -- DMC_REF0
  ⟨0x14, 0, 1, .word, [⟨0, 10, .rw, .stopped, 0⟩, ⟨16, 10, .rw, .stopped, 0⟩]⟩, -- DMC_REF1
  ⟨0x18, 0, 1, .word, [⟨0, 8, .rw, .stopped, 0⟩, ⟨8, 8, .rw, .stopped, 0⟩, ⟨16, 8, .rw, .stopped, 0⟩, ⟨24, 8, .rw, .stopped, 0⟩]⟩, -- DMC_AC0
  ⟨0x1C, 0, 1, .word, [⟨0, 8, .rw, .stopped, 0⟩, ⟨8, 8, .rw, .stopped, 0⟩, ⟨16, 8, .rw, .stopped, 0⟩, ⟨24, 8, .rw, .stopped, 0⟩]⟩, -- DMC_AC1
  ⟨0x20, 0, 1, .word, [⟨0, 8, .rw, .stopped, 0⟩, ⟨8, 8, .rw, .stopped, 0⟩, ⟨16, 8, .rw, .stopped, 0⟩, ⟨24, 8, .rw, .stopped, 0⟩]⟩, -- DMC_AC2
  ⟨0x24, 0, 1, .word, [⟨0, 8, .rw, .stopped, 0⟩, ⟨8, 8, .rw, .stopped, 0⟩]⟩, -- DMC_AC3
  ⟨0x28, 0, 1, .word, [⟨0, 16, .rw, .now, 0xfa0⟩, ⟨16, 6, .rw, .now, 0x30⟩, ⟨24, 6, .rw, .now, 0x10⟩]⟩, -- DMC_QOS
  ⟨0x2C, 0, 1, .word, [⟨0, 16, .rw, .now, 0x40⟩]⟩, -- DMC_PD
  ⟨0x30, 0, 1, .word, [⟨0, 1, .rw, .now, 0⟩, ⟨8, 8, .rw, .now, 0x18⟩]⟩, -- DMC_SCRUB
  ⟨0x34, 0, 1, .word, [⟨0, 32, .rc, .now, 0⟩]⟩, -- DMC_CE_CNT
  ⟨0x38, 0, 1, .word, [⟨0, 32, .rc, .now, 0⟩]⟩, -- DMC_UE_CNT
  ⟨0x3C, 0, 1, .low, [⟨6, 26, .ro, .now, 0⟩]⟩, -- DMC_ERR_ADDR_LO
  ⟨0x40, 0, 1, .high, [⟨0, 8, .ro, .now, 0⟩]⟩, -- DMC_ERR_ADDR_HI
  ⟨0x44, 0, 1, .word, [⟨0, 32, .rc, .now, 0⟩]⟩, -- DMC_FORCED_CNT
  ⟨0x48, 0, 1, .word, [⟨0, 32, .rc, .now, 0⟩]⟩, -- DMC_ERRRESP_CNT
  ⟨0x80, 0, 1, .word, [⟨0, 3, .rw, .now, 0⟩, ⟨3, 1, .rw, .now, 0⟩, ⟨8, 8, .rw, .now, 0⟩, ⟨24, 1, .wo, .now, 0⟩, ⟨25, 1, .wo, .now, 0⟩, ⟨26, 1, .wo, .now, 0⟩, ⟨27, 1, .wo, .now, 0⟩]⟩, -- DMC_TRN_CTRL
  ⟨0x84, 0, 1, .word, [⟨0, 1, .ro, .now, 0⟩, ⟨1, 1, .w1c, .now, 0⟩, ⟨2, 1, .w1c, .now, 0⟩, ⟨3, 1, .w1c, .now, 0⟩, ⟨4, 1, .ro, .now, 0⟩, ⟨5, 1, .ro, .now, 0⟩]⟩, -- DMC_TRN_STATUS
  ⟨0x88, 0, 1, .word, [⟨0, 18, .ro, .now, 0⟩]⟩, -- DMC_TRN_RESULT
  ⟨0x180, 0, 1, .word, [⟨0, 8, .rw, .now, 0x40⟩, ⟨8, 8, .rw, .now, 0x40⟩]⟩, -- DMC_WCK_DLY
  ⟨0x100, 4, 18, .word, [⟨0, 8, .rw, .now, 0x40⟩, ⟨8, 8, .rw, .now, 0x40⟩]⟩, -- DMC_DQ_DLY
  ⟨0x160, 4, 8, .word, [⟨0, 8, .rw, .now, 0x40⟩]⟩ -- DMC_CA_DLY
  ]

def fabRegs : List RegSpec := [
  ⟨0x0, 0, 1, .word, [⟨0, 16, .rw, .now, 0xc8⟩, ⟨16, 16, .rw, .now, 0x64⟩]⟩, -- FAB_CFG
  ⟨0x4, 0, 1, .word, [⟨0, 1, .w1c, .now, 0⟩, ⟨1, 1, .w1c, .now, 0⟩]⟩, -- FAB_STATUS
  ⟨0x8, 0, 1, .low, [⟨0, 32, .ro, .now, 0⟩]⟩, -- FAB_ISOLATED_LO
  ⟨0xC, 0, 1, .high, [⟨0, 5, .ro, .now, 0⟩]⟩, -- FAB_ISOLATED_HI
  ⟨0x10, 0, 1, .low, [⟨0, 32, .wo, .now, 0⟩]⟩, -- FAB_REJOIN_LO
  ⟨0x14, 0, 1, .high, [⟨0, 5, .wo, .now, 0⟩]⟩, -- FAB_REJOIN_HI
  ⟨0x18, 0, 1, .low, [⟨0, 32, .ro, .now, 0⟩]⟩, -- FAB_ERR_ADDR_LO
  ⟨0x1C, 0, 1, .high, [⟨0, 8, .ro, .now, 0⟩]⟩, -- FAB_ERR_ADDR_HI
  ⟨0x20, 0, 1, .word, [⟨0, 5, .ro, .now, 0⟩, ⟨8, 6, .ro, .now, 0x3f⟩, ⟨16, 2, .ro, .now, 0⟩, ⟨18, 1, .ro, .now, 0⟩]⟩, -- FAB_ERR_INFO
  ⟨0x24, 0, 1, .word, [⟨0, 32, .rc, .now, 0⟩]⟩, -- FAB_DECODE_CNT
  ⟨0x28, 0, 1, .word, [⟨0, 32, .rc, .now, 0⟩]⟩, -- FAB_TIMEOUT_CNT
  ⟨0x100, 4, 28, .word, [⟨0, 6, .ro, .now, 0⟩, ⟨6, 1, .ro, .now, 0⟩, ⟨8, 6, .ro, .now, 0⟩]⟩ -- FAB_MSTR_STATUS
  ]

def macRegs0 : List RegSpec := [
  ⟨0x0, 0, 1, .word, [⟨0, 1, .rw, .now, 0⟩, ⟨1, 1, .wo, .now, 0⟩]⟩, -- MAC_CTRL
  ⟨0x4, 0, 1, .word, [⟨0, 1, .rw, .now, 0⟩, ⟨8, 5, .rw, .now, 0⟩, ⟨16, 5, .rw, .now, 0⟩, ⟨24, 2, .rw, .stopped, 0⟩]⟩, -- MAC_CFG
  ⟨0x8, 0, 1, .word, [⟨0, 1, .ro, .now, 0⟩, ⟨1, 1, .ro, .now, 0⟩, ⟨2, 1, .ro, .now, 0⟩, ⟨3, 1, .ro, .now, 0⟩, ⟨4, 1, .ro, .now, 0⟩, ⟨5, 1, .ro, .now, 0⟩, ⟨8, 1, .w1c, .now, 0⟩, ⟨9, 1, .w1c, .now, 0⟩, ⟨10, 1, .w1c, .now, 0⟩, ⟨11, 1, .w1c, .now, 0⟩]⟩, -- MAC_STATUS
  ⟨0x10, 0, 1, .word, [⟨0, 2, .rw, .stopped, 0⟩, ⟨2, 2, .rw, .stopped, 0⟩, ⟨4, 1, .rw, .stopped, 0⟩, ⟨5, 1, .rw, .stopped, 0⟩, ⟨6, 1, .rw, .stopped, 0⟩]⟩, -- MAC_PHY_CFG
  ⟨0x18, 0, 1, .low, [⟨0, 32, .rw, .stopped, 0⟩]⟩, -- MAC_ADDR_LO
  ⟨0x1C, 0, 1, .high, [⟨0, 16, .rw, .stopped, 0⟩]⟩, -- MAC_ADDR_HI
  ⟨0x20, 0, 1, .word, [⟨0, 14, .rw, .stopped, 0x5f2⟩]⟩, -- MAC_MAX_FRAME
  ⟨0x24, 0, 1, .word, [⟨0, 2, .rw, .stopped, 0⟩, ⟨2, 1, .rw, .stopped, 1⟩, ⟨3, 1, .rw, .stopped, 1⟩, ⟨8, 8, .rw, .stopped, 1⟩]⟩, -- MAC_FC_CFG
  ⟨0x28, 0, 1, .word, [⟨0, 10, .rw, .stopped, 0x180⟩, ⟨16, 10, .rw, .stopped, 0x100⟩]⟩, -- MAC_FC_WM
  ⟨0x2C, 0, 1, .word, [⟨0, 1, .rw, .stopped, 1⟩, ⟨1, 1, .rw, .stopped, 1⟩, ⟨2, 1, .rw, .stopped, 0⟩]⟩, -- MAC_AN_CFG
  ⟨0x30, 0, 1, .word, [⟨0, 1, .ro, .now, 0⟩, ⟨1, 1, .ro, .now, 0⟩, ⟨2, 1, .ro, .now, 0⟩, ⟨3, 1, .ro, .now, 0⟩, ⟨4, 2, .ro, .now, 0⟩, ⟨8, 1, .ro, .now, 0⟩, ⟨9, 1, .ro, .now, 0⟩]⟩, -- MAC_AN_STATUS
  ⟨0x34, 0, 1, .word, [⟨0, 1, .rw, .stopped, 0⟩, ⟨1, 1, .rw, .stopped, 1⟩, ⟨4, 3, .rw, .stopped, 4⟩]⟩, -- MAC_PT_CFG
  ⟨0x38, 0, 1, .word, [⟨0, 7, .ro, .now, 0⟩, ⟨8, 4, .ro, .now, 0⟩]⟩, -- MAC_FLT_VERR
  ⟨0x40, 4, 32, .word, [⟨0, 1, .rw, .now, 0⟩, ⟨1, 2, .rw, .stopped, 0⟩]⟩, -- MAC_RXQ_CFG
  ⟨0xC0, 4, 32, .word, [⟨0, 1, .rw, .now, 0⟩, ⟨1, 2, .rw, .stopped, 0⟩, ⟨3, 3, .rw, .stopped, 7⟩, ⟨6, 2, .rw, .stopped, 0⟩, ⟨8, 1, .rw, .stopped, 0⟩, ⟨9, 3, .rw, .stopped, 0⟩, ⟨16, 16, .rw, .stopped, 0⟩]⟩, -- MAC_TXQ_CFG
  ⟨0x200, 0, 1, .low, [⟨0, 32, .ro, .now, 0⟩]⟩, -- MAC_RX_OCTETS_LO
  ⟨0x204, 0, 1, .high, [⟨0, 32, .ro, .now, 0⟩]⟩, -- MAC_RX_OCTETS_HI
  ⟨0x208, 0, 1, .low, [⟨0, 32, .ro, .now, 0⟩]⟩, -- MAC_RX_FRAMES_LO
  ⟨0x20C, 0, 1, .high, [⟨0, 32, .ro, .now, 0⟩]⟩, -- MAC_RX_FRAMES_HI
  ⟨0x210, 0, 1, .low, [⟨0, 32, .ro, .now, 0⟩]⟩, -- MAC_TX_OCTETS_LO
  ⟨0x214, 0, 1, .high, [⟨0, 32, .ro, .now, 0⟩]⟩, -- MAC_TX_OCTETS_HI
  ⟨0x218, 0, 1, .low, [⟨0, 32, .ro, .now, 0⟩]⟩, -- MAC_TX_FRAMES_LO
  ⟨0x21C, 0, 1, .high, [⟨0, 32, .ro, .now, 0⟩]⟩, -- MAC_TX_FRAMES_HI
  ⟨0x220, 0, 1, .low, [⟨0, 32, .ro, .now, 0⟩]⟩, -- MAC_PT_FWD_LO
  ⟨0x224, 0, 1, .high, [⟨0, 32, .ro, .now, 0⟩]⟩, -- MAC_PT_FWD_HI
  ⟨0x240, 0, 1, .word, [⟨0, 32, .rc, .now, 0⟩]⟩, -- MAC_RX_MULTICAST
  ⟨0x244, 0, 1, .word, [⟨0, 32, .rc, .now, 0⟩]⟩, -- MAC_RX_BROADCAST
  ⟨0x248, 0, 1, .word, [⟨0, 32, .rc, .now, 0⟩]⟩, -- MAC_RX_RUNT
  ⟨0x24C, 0, 1, .word, [⟨0, 32, .rc, .now, 0⟩]⟩, -- MAC_RX_OVERSIZE
  ⟨0x250, 0, 1, .word, [⟨0, 32, .rc, .now, 0⟩]⟩, -- MAC_RX_FCS
  ⟨0x254, 0, 1, .word, [⟨0, 32, .rc, .now, 0⟩]⟩, -- MAC_RX_ALIGN
  ⟨0x258, 0, 1, .word, [⟨0, 32, .rc, .now, 0⟩]⟩, -- MAC_RX_SYMBOL
  ⟨0x25C, 0, 1, .word, [⟨0, 32, .rc, .now, 0⟩]⟩, -- MAC_RX_FILTER_MISS
  ⟨0x260, 0, 1, .word, [⟨0, 32, .rc, .now, 0⟩]⟩, -- MAC_RX_FILTER_DROP
  ⟨0x264, 0, 1, .word, [⟨0, 32, .rc, .now, 0⟩]⟩, -- MAC_RX_MIRROR
  ⟨0x268, 0, 1, .word, [⟨0, 32, .rc, .now, 0⟩]⟩, -- MAC_RX_PAUSE
  ⟨0x26C, 0, 1, .word, [⟨0, 32, .rc, .now, 0⟩]⟩, -- MAC_RX_MACCTL_BAD
  ⟨0x270, 0, 1, .word, [⟨0, 32, .rc, .now, 0⟩]⟩, -- MAC_RX_HOST_OVF
  ⟨0x274, 0, 1, .word, [⟨0, 32, .rc, .now, 0⟩]⟩, -- MAC_RX_QFULL
  ⟨0x278, 0, 1, .word, [⟨0, 32, .rc, .now, 0⟩]⟩ -- MAC_TX_PAD
  ]

def macRegs1 : List RegSpec := [
  ⟨0x27C, 0, 1, .word, [⟨0, 32, .rc, .now, 0⟩]⟩, -- MAC_TX_FRAME_LEN
  ⟨0x280, 0, 1, .word, [⟨0, 32, .rc, .now, 0⟩]⟩, -- MAC_TX_XOFF
  ⟨0x284, 0, 1, .word, [⟨0, 32, .rc, .now, 0⟩]⟩, -- MAC_TX_XON
  ⟨0x288, 0, 1, .word, [⟨0, 32, .rc, .now, 0⟩]⟩, -- MAC_TX_LINK_DOWN
  ⟨0x28C, 0, 1, .word, [⟨0, 32, .rc, .now, 0⟩]⟩, -- MAC_TX_LATE_DROP
  ⟨0x290, 0, 1, .word, [⟨0, 32, .rc, .now, 0⟩]⟩, -- MAC_TX_LATE_SENT
  ⟨0x294, 0, 1, .word, [⟨0, 32, .rc, .now, 0⟩]⟩, -- MAC_TX_TSQ_OVF
  ⟨0x298, 0, 1, .word, [⟨0, 32, .rc, .now, 0⟩]⟩, -- MAC_PT_STOMP
  ⟨0x29C, 0, 1, .word, [⟨0, 32, .rc, .now, 0⟩]⟩, -- MAC_PT_BUF_DROP
  ⟨0x2A0, 0, 1, .word, [⟨0, 32, .rc, .now, 0⟩]⟩, -- MAC_PT_CORR
  ⟨0x2A4, 0, 1, .word, [⟨0, 32, .rc, .now, 0⟩]⟩, -- MAC_PT_CORR_SAT
  ⟨0x2A8, 0, 1, .word, [⟨0, 32, .rc, .now, 0⟩]⟩, -- MAC_LINK_DOWN
  ⟨0x2AC, 0, 1, .word, [⟨0, 32, .rc, .now, 0⟩]⟩, -- MAC_FEC_CORR
  ⟨0x2B0, 0, 1, .word, [⟨0, 32, .rc, .now, 0⟩]⟩, -- MAC_FEC_UNCORR
  ⟨0x2B4, 0, 1, .word, [⟨0, 32, .rc, .now, 0⟩]⟩, -- MAC_HI_BER
  ⟨0x1000, 0, 1, .word, [⟨0, 8, .rw, .now, 0⟩, ⟨8, 1, .rw, .now, 0⟩]⟩, -- MAC0_WAKE_CTRL
  ⟨0x1004, 0, 1, .word, [⟨0, 8, .w1c, .now, 0⟩, ⟨8, 1, .w1c, .now, 0⟩]⟩, -- MAC0_WAKE_STATUS
  ⟨0x1100, 4, 32, .word, [⟨0, 32, .rw, .now, 0⟩]⟩, -- MAC0_WAKE_PAT0_DATA
  ⟨0x1180, 4, 4, .word, [⟨0, 32, .rw, .now, 0⟩]⟩, -- MAC0_WAKE_PAT0_MASK
  ⟨0x1190, 4, 1, .word, [⟨0, 8, .rw, .now, 0⟩]⟩, -- MAC0_WAKE_PAT0_LEN
  ⟨0x1200, 4, 32, .word, [⟨0, 32, .rw, .now, 0⟩]⟩, -- MAC0_WAKE_PAT1_DATA
  ⟨0x1280, 4, 4, .word, [⟨0, 32, .rw, .now, 0⟩]⟩, -- MAC0_WAKE_PAT1_MASK
  ⟨0x1290, 4, 1, .word, [⟨0, 8, .rw, .now, 0⟩]⟩, -- MAC0_WAKE_PAT1_LEN
  ⟨0x1300, 4, 32, .word, [⟨0, 32, .rw, .now, 0⟩]⟩, -- MAC0_WAKE_PAT2_DATA
  ⟨0x1380, 4, 4, .word, [⟨0, 32, .rw, .now, 0⟩]⟩, -- MAC0_WAKE_PAT2_MASK
  ⟨0x1390, 4, 1, .word, [⟨0, 8, .rw, .now, 0⟩]⟩, -- MAC0_WAKE_PAT2_LEN
  ⟨0x1400, 4, 32, .word, [⟨0, 32, .rw, .now, 0⟩]⟩, -- MAC0_WAKE_PAT3_DATA
  ⟨0x1480, 4, 4, .word, [⟨0, 32, .rw, .now, 0⟩]⟩, -- MAC0_WAKE_PAT3_MASK
  ⟨0x1490, 4, 1, .word, [⟨0, 8, .rw, .now, 0⟩]⟩, -- MAC0_WAKE_PAT3_LEN
  ⟨0x1500, 4, 32, .word, [⟨0, 32, .rw, .now, 0⟩]⟩, -- MAC0_WAKE_PAT4_DATA
  ⟨0x1580, 4, 4, .word, [⟨0, 32, .rw, .now, 0⟩]⟩, -- MAC0_WAKE_PAT4_MASK
  ⟨0x1590, 4, 1, .word, [⟨0, 8, .rw, .now, 0⟩]⟩, -- MAC0_WAKE_PAT4_LEN
  ⟨0x1600, 4, 32, .word, [⟨0, 32, .rw, .now, 0⟩]⟩, -- MAC0_WAKE_PAT5_DATA
  ⟨0x1680, 4, 4, .word, [⟨0, 32, .rw, .now, 0⟩]⟩, -- MAC0_WAKE_PAT5_MASK
  ⟨0x1690, 4, 1, .word, [⟨0, 8, .rw, .now, 0⟩]⟩, -- MAC0_WAKE_PAT5_LEN
  ⟨0x1700, 4, 32, .word, [⟨0, 32, .rw, .now, 0⟩]⟩, -- MAC0_WAKE_PAT6_DATA
  ⟨0x1780, 4, 4, .word, [⟨0, 32, .rw, .now, 0⟩]⟩, -- MAC0_WAKE_PAT6_MASK
  ⟨0x1790, 4, 1, .word, [⟨0, 8, .rw, .now, 0⟩]⟩, -- MAC0_WAKE_PAT6_LEN
  ⟨0x1800, 4, 32, .word, [⟨0, 32, .rw, .now, 0⟩]⟩, -- MAC0_WAKE_PAT7_DATA
  ⟨0x1880, 4, 4, .word, [⟨0, 32, .rw, .now, 0⟩]⟩ -- MAC0_WAKE_PAT7_MASK
  ]

def macRegs2 : List RegSpec := [
  ⟨0x1890, 4, 1, .word, [⟨0, 8, .rw, .now, 0⟩]⟩, -- MAC0_WAKE_PAT7_LEN
  ⟨0x4000, 64, 128, .low, [⟨0, 32, .rw, .now, 0⟩]⟩, -- MAC_FLT_DMAC_LO
  ⟨0x4004, 64, 128, .high, [⟨0, 16, .rw, .now, 0⟩, ⟨16, 16, .rsv, .now, 0⟩]⟩, -- MAC_FLT_DMAC_HI
  ⟨0x4008, 64, 128, .low, [⟨0, 32, .rw, .now, 0⟩]⟩, -- MAC_FLT_DMASK_LO
  ⟨0x400C, 64, 128, .high, [⟨0, 16, .rw, .now, 0⟩, ⟨16, 16, .rsv, .now, 0⟩]⟩, -- MAC_FLT_DMASK_HI
  ⟨0x4010, 64, 128, .word, [⟨0, 12, .rw, .now, 0⟩, ⟨12, 3, .rw, .now, 0⟩, ⟨15, 17, .rsv, .now, 0⟩]⟩, -- MAC_FLT_VLAN
  ⟨0x4014, 64, 128, .word, [⟨0, 16, .rw, .now, 0⟩, ⟨16, 16, .rsv, .now, 0⟩]⟩, -- MAC_FLT_ETYPE
  ⟨0x4018, 64, 128, .word, [⟨0, 32, .rw, .now, 0⟩]⟩, -- MAC_FLT_IPDST0
  ⟨0x401C, 64, 128, .word, [⟨0, 32, .rw, .now, 0⟩]⟩, -- MAC_FLT_IPDST1
  ⟨0x4020, 64, 128, .word, [⟨0, 32, .rw, .now, 0⟩]⟩, -- MAC_FLT_IPDST2
  ⟨0x4024, 64, 128, .word, [⟨0, 32, .rw, .now, 0⟩]⟩, -- MAC_FLT_IPDST3
  ⟨0x4028, 64, 128, .word, [⟨0, 2, .rw, .now, 0⟩, ⟨8, 8, .rw, .now, 0⟩, ⟨2, 6, .rsv, .now, 0⟩, ⟨16, 16, .rsv, .now, 0⟩]⟩, -- MAC_FLT_IP
  ⟨0x402C, 64, 128, .word, [⟨0, 16, .rw, .now, 0⟩, ⟨16, 16, .rsv, .now, 0⟩]⟩, -- MAC_FLT_UDP
  ⟨0x4030, 64, 128, .word, [⟨0, 1, .rw, .now, 0⟩, ⟨1, 1, .rw, .now, 0⟩, ⟨2, 1, .rw, .now, 0⟩, ⟨3, 1, .rw, .now, 0⟩, ⟨4, 1, .rw, .now, 0⟩, ⟨5, 1, .rw, .now, 0⟩, ⟨6, 1, .rw, .now, 0⟩, ⟨7, 1, .rw, .now, 0⟩, ⟨8, 24, .rsv, .now, 0⟩]⟩, -- MAC_FLT_MATCH
  ⟨0x4038, 64, 128, .word, [⟨0, 32, .rc, .now, 0⟩]⟩, -- MAC_FLT_HITS
  ⟨0x403C, 64, 128, .word, [⟨0, 2, .rw, .now, 0⟩, ⟨8, 5, .rw, .now, 0⟩, ⟨16, 1, .rw, .now, 0⟩, ⟨31, 1, .rw, .now, 0⟩, ⟨2, 6, .rsv, .now, 0⟩, ⟨13, 3, .rsv, .now, 0⟩, ⟨17, 14, .rsv, .now, 0⟩]⟩, -- MAC_FLT_ACTION
  ⟨0x4034, 64, 128, .word, [⟨0, 32, .rsv, .now, 0⟩]⟩ -- MAC_FLT_RSVD
  ]

def macRegs : List RegSpec := macRegs0 ++ macRegs1 ++ macRegs2

def tbRegs0 : List RegSpec := [
  ⟨0x0, 0, 1, .word, [⟨0, 1, .w1c, .now, 0⟩, ⟨1, 1, .w1c, .now, 0⟩]⟩, -- TB_STATUS
  ⟨0x100, 64, 4, .word, [⟨0, 1, .rw, .now, 0⟩, ⟨1, 1, .wo, .now, 0⟩]⟩, -- TBN_CTRL
  ⟨0x104, 64, 4, .low, [⟨0, 32, .rw, .now, 0x40000000⟩]⟩, -- TBN_INCR_LO
  ⟨0x108, 64, 4, .high, [⟨0, 2, .rw, .now, 1⟩]⟩, -- TBN_INCR_HI
  ⟨0x10C, 64, 4, .word, [⟨0, 16, .ro, .now, 0⟩]⟩, -- TBN_TIME_FRAC
  ⟨0x110, 64, 4, .word, [⟨0, 30, .ro, .now, 0⟩]⟩, -- TBN_TIME_NS
  ⟨0x114, 64, 4, .low, [⟨0, 32, .ro, .now, 0⟩]⟩, -- TBN_TIME_SEC_LO
  ⟨0x118, 64, 4, .high, [⟨0, 16, .ro, .now, 0⟩]⟩, -- TBN_TIME_SEC_HI
  ⟨0x11C, 64, 4, .word, [⟨0, 30, .rw, .now, 0⟩]⟩, -- TBN_SET_NS
  ⟨0x120, 64, 4, .low, [⟨0, 32, .rw, .now, 0⟩]⟩, -- TBN_SET_SEC_LO
  ⟨0x124, 64, 4, .high, [⟨0, 16, .rw, .now, 0⟩]⟩, -- TBN_SET_SEC_HI
  ⟨0x128, 64, 4, .low, [⟨0, 32, .wo, .now, 0⟩]⟩, -- TBN_ADJ_LO
  ⟨0x12C, 64, 4, .high, [⟨0, 32, .wo, .now, 0⟩]⟩, -- TBN_ADJ_HI
  ⟨0x200, 64, 4, .word, [⟨0, 16, .rw, .now, 0⟩]⟩, -- TB_PORT_RX_ADJ
  ⟨0x204, 64, 4, .word, [⟨0, 16, .rw, .now, 0⟩]⟩, -- TB_PORT_TX_ADJ
  ⟨0x208, 64, 4, .word, [⟨0, 7, .ro, .now, 0⟩, ⟨8, 1, .w1c, .now, 0⟩, ⟨16, 16, .ro, .now, 0⟩]⟩, -- TB_TSQ_STATUS
  ⟨0x20C, 64, 4, .word, [⟨0, 16, .ro, .now, 0⟩, ⟨16, 1, .ro, .now, 0⟩]⟩, -- TB_TSQ_POP
  ⟨0x210, 64, 4, .word, [⟨0, 16, .ro, .now, 0⟩]⟩, -- TB_TSQ_FRAC
  ⟨0x214, 64, 4, .word, [⟨0, 30, .ro, .now, 0⟩]⟩, -- TB_TSQ_NS
  ⟨0x218, 64, 4, .low, [⟨0, 32, .ro, .now, 0⟩]⟩, -- TB_TSQ_SEC_LO
  ⟨0x21C, 64, 4, .high, [⟨0, 16, .ro, .now, 0⟩]⟩, -- TB_TSQ_SEC_HI
  ⟨0x220, 64, 4, .word, [⟨9, 23, .rw, .now, 0⟩]⟩, -- TB_PTP_RXBASE
  ⟨0x224, 64, 4, .word, [⟨0, 4, .rw, .now, 4⟩, ⟨16, 16, .ro, .now, 0⟩]⟩, -- TB_PTP_RXCFG
  ⟨0x228, 64, 4, .word, [⟨0, 16, .rw, .now, 0⟩]⟩, -- TB_PTP_RXRD
  ⟨0x22C, 64, 4, .word, [⟨0, 32, .rc, .now, 0⟩]⟩, -- TB_PTP_RXDROP_CNT
  ⟨0x230, 64, 4, .word, [⟨9, 23, .rw, .now, 0⟩]⟩, -- TB_PTP_TXBASE
  ⟨0x234, 64, 4, .word, [⟨0, 4, .rw, .now, 4⟩, ⟨16, 16, .ro, .now, 0⟩]⟩, -- TB_PTP_TXCFG
  ⟨0x238, 64, 4, .word, [⟨0, 16, .rw, .now, 0⟩]⟩, -- TB_PTP_TXWR
  ⟨0x400, 32, 2, .word, [⟨0, 2, .rw, .now, 0⟩, ⟨2, 2, .rw, .now, 0⟩, ⟨4, 1, .rw, .now, 0⟩]⟩, -- TB_TOUT_CFG
  ⟨0x404, 32, 2, .word, [⟨0, 30, .rw, .now, 0⟩]⟩, -- TB_TOUT_START_NS
  ⟨0x408, 32, 2, .low, [⟨0, 32, .rw, .now, 0⟩]⟩, -- TB_TOUT_START_SEC_LO
  ⟨0x40C, 32, 2, .high, [⟨0, 16, .rw, .now, 0⟩]⟩, -- TB_TOUT_START_SEC_HI
  ⟨0x410, 32, 2, .word, [⟨0, 32, .rw, .now, 0⟩]⟩, -- TB_TOUT_PERIOD_NS
  ⟨0x414, 32, 2, .word, [⟨0, 16, .rw, .now, 0⟩]⟩, -- TB_TOUT_PERIOD_FRAC
  ⟨0x418, 32, 2, .word, [⟨0, 32, .rw, .now, 0⟩]⟩, -- TB_TOUT_WIDTH
  ⟨0x480, 32, 2, .word, [⟨0, 1, .rw, .now, 0⟩, ⟨1, 2, .rw, .now, 1⟩, ⟨4, 2, .rw, .now, 0⟩]⟩, -- TB_TIN_CFG
  ⟨0x484, 32, 2, .word, [⟨0, 3, .ro, .now, 0⟩, ⟨8, 1, .w1c, .now, 0⟩]⟩, -- TB_TIN_STATUS
  ⟨0x488, 32, 2, .word, [⟨0, 1, .ro, .now, 0⟩, ⟨1, 1, .ro, .now, 0⟩]⟩, -- TB_TIN_POP
  ⟨0x48C, 32, 2, .word, [⟨0, 16, .ro, .now, 0⟩]⟩, -- TB_TIN_FRAC
  ⟨0x490, 32, 2, .word, [⟨0, 30, .ro, .now, 0⟩]⟩ -- TB_TIN_NS
  ]

def tbRegs1 : List RegSpec := [
  ⟨0x494, 32, 2, .low, [⟨0, 32, .ro, .now, 0⟩]⟩, -- TB_TIN_SEC_LO
  ⟨0x498, 32, 2, .high, [⟨0, 16, .ro, .now, 0⟩]⟩ -- TB_TIN_SEC_HI
  ]

def tbRegs : List RegSpec := tbRegs0 ++ tbRegs1

def feRegs : List RegSpec := [
  ⟨0x0, 0, 1, .word, [⟨0, 1, .rw, .now, 0⟩]⟩, -- FE_CTRL
  ⟨0x4, 0, 1, .word, [⟨0, 1, .ro, .now, 0⟩, ⟨1, 1, .w1c, .now, 0⟩, ⟨2, 1, .w1c, .now, 0⟩]⟩, -- FE_STATUS
  ⟨0x8, 0, 1, .word, [⟨0, 8, .rw, .now, 0xa⟩]⟩, -- FE_CFG
  ⟨0xC, 0, 1, .word, [⟨0, 4, .rw, (.landing 37 0 0), 4⟩]⟩, -- FE_CONCEAL
  ⟨0x10, 0, 1, .word, [⟨12, 20, .rw, .stopped, 0⟩]⟩, -- FE_TMPL_BASE
  ⟨0x14, 0, 1, .word, [⟨0, 32, .rc, .now, 0⟩]⟩, -- FE_NOFLOW_CNT
  ⟨0x18, 0, 1, .word, [⟨0, 32, .rc, .now, 0⟩]⟩, -- FE_BAD_TMPL_CNT
  ⟨0x1C, 0, 1, .word, [⟨0, 2, .ro, .now, 0⟩, ⟨4, 9, .ro, .now, 0⟩, ⟨16, 4, .ro, .now, 0⟩]⟩, -- FE_VERR
  ⟨0x40, 4, 16, .word, [⟨0, 32, .rc, .now, 0⟩]⟩, -- FE_CONC
  ⟨0x100, 4, 64, .word, [⟨0, 10, .rw, (.landing 39 0 0), 0⟩, ⟨31, 1, .rw, (.landing 39 0 0), 0⟩]⟩, -- FE_GRP
  ⟨0x200, 4, 64, .word, [⟨0, 32, .rc, .now, 0⟩]⟩, -- FE_GRP_MISS
  ⟨0x4000, 32, 512, .word, [⟨0, 1, .rw, (.landing 38 0 0), 0⟩, ⟨1, 1, .rw, (.landing 38 0 0), 0⟩, ⟨2, 1, .rw, (.landing 38 0 0), 0⟩, ⟨3, 2, .rw, (.landing 38 0 0), 0⟩, ⟨5, 6, .rw, (.landing 38 0 0), 0⟩, ⟨11, 1, .rw, (.landing 38 0 0), 0⟩, ⟨12, 2, .rw, (.landing 38 0 0), 0⟩, ⟨14, 1, .rw, (.landing 38 0 0), 0⟩, ⟨15, 2, .rw, (.landing 38 0 0), 0⟩, ⟨17, 5, .rw, (.landing 38 0 0), 0⟩]⟩, -- FE_TXF_CFG
  ⟨0x4004, 32, 512, .word, [⟨0, 10, .rw, (.landing 38 0 0), 0⟩, ⟨16, 10, .rw, (.landing 38 0 0), 0⟩]⟩, -- FE_TXF_TMPL
  ⟨0x4008, 32, 512, .word, [⟨0, 32, .rw, (.landing 38 0 0), 0⟩]⟩, -- FE_TXF_RTPOFS
  ⟨0x400C, 32, 512, .word, [⟨0, 16, .rw, (.landing 38 0 0), 0⟩, ⟨16, 11, .rw, (.landing 38 0 0), 0⟩]⟩, -- FE_TXF_SEQ
  ⟨0x4010, 32, 512, .word, [⟨0, 32, .rc, .now, 0⟩]⟩, -- FE_TXF_PKT_CNT
  ⟨0x4014, 32, 512, .word, [⟨0, 32, .rc, .now, 0⟩]⟩, -- FE_TXF_LATE_CNT
  ⟨0x4018, 32, 512, .word, [⟨0, 1, .ro, .now, 0⟩, ⟨1, 1, .w1c, .now, 0⟩]⟩, -- FE_TXF_STATUS
  ⟨0x8000, 64, 512, .word, [⟨0, 1, .rw, (.landing 37 0 0), 0⟩, ⟨1, 1, .rw, (.landing 37 0 0), 0⟩, ⟨2, 1, .rw, (.landing 37 0 0), 0⟩, ⟨3, 2, .rw, (.landing 37 0 0), 0⟩, ⟨5, 6, .rw, (.landing 37 0 0), 0⟩, ⟨11, 7, .rw, (.landing 37 0 0), 0⟩, ⟨18, 1, .rw, (.landing 37 0 0), 0⟩, ⟨19, 1, .rw, (.landing 37 0 0), 0⟩, ⟨20, 2, .rw, (.landing 37 0 0), 0⟩, ⟨22, 1, .rw, (.landing 37 0 0), 0⟩, ⟨23, 2, .rw, (.landing 37 0 0), 0⟩, ⟨25, 4, .rw, (.landing 37 0 0), 0⟩]⟩, -- FE_RXF_CFG
  ⟨0x8004, 64, 512, .word, [⟨0, 32, .rw, (.landing 37 0 0), 0⟩]⟩, -- FE_RXF_DST_A
  ⟨0x8008, 64, 512, .word, [⟨0, 32, .rw, (.landing 37 0 0), 0⟩]⟩, -- FE_RXF_DST_B
  ⟨0x800C, 64, 512, .word, [⟨0, 16, .rw, (.landing 37 0 0), 0⟩, ⟨16, 16, .rw, (.landing 37 0 0), 0⟩]⟩, -- FE_RXF_PORTS
  ⟨0x8010, 64, 512, .word, [⟨0, 32, .rw, (.landing 37 0 0), 0⟩]⟩, -- FE_RXF_SSRC
  ⟨0x8014, 64, 512, .word, [⟨0, 32, .rw, (.landing 37 0 0), 0⟩]⟩, -- FE_RXF_RTPOFS
  ⟨0x8018, 64, 512, .word, [⟨0, 10, .rw, (.landing 37 0 0), 0⟩, ⟨16, 11, .rw, (.landing 37 0 0), 0⟩]⟩, -- FE_RXF_LINK
  ⟨0x801C, 64, 512, .word, [⟨6, 26, .rw, (.landing 37 0 0), 0⟩]⟩, -- FE_RXF_BUF
  ⟨0x8020, 64, 512, .word, [⟨0, 6, .rw, (.landing 39 0 0), 0⟩, ⟨31, 1, .rw, (.landing 39 0 0), 0⟩]⟩, -- FE_RXF_GRP
  ⟨0x8024, 64, 512, .word, [⟨0, 3, .ro, .now, 3⟩, ⟨3, 1, .ro, .now, 0⟩, ⟨4, 1, .ro, .now, 0⟩, ⟨5, 1, .w1c, .now, 0⟩]⟩, -- FE_RXF_STATUS
  ⟨0x8028, 64, 512, .word, [⟨0, 32, .rc, .now, 0⟩]⟩, -- FE_RXF_PKT_CNT
  ⟨0x802C, 64, 512, .word, [⟨0, 32, .rc, .now, 0⟩]⟩, -- FE_RXF_DUP_CNT
  ⟨0x8030, 64, 512, .word, [⟨0, 32, .rc, .now, 0⟩]⟩, -- FE_RXF_MISS_CNT
  ⟨0x8034, 64, 512, .word, [⟨0, 32, .rc, .now, 0⟩]⟩, -- FE_RXF_LATE_CNT
  ⟨0x8038, 64, 512, .word, [⟨0, 32, .rc, .now, 0⟩]⟩, -- FE_RXF_EARLY_CNT
  ⟨0x803C, 64, 512, .word, [⟨0, 32, .rc, .now, 0⟩]⟩ -- FE_RXF_BAD_CNT
  ]

def sapRegs : List RegSpec := [
  ⟨0x0, 0, 1, .word, [⟨0, 1, .rw, .now, 0⟩]⟩, -- SAP_CTRL
  ⟨0x4, 0, 1, .word, [⟨0, 2, .rw, .stopped, 0⟩, ⟨2, 1, .rw, .stopped, 0⟩, ⟨3, 5, .rw, .stopped, 1⟩, ⟨8, 2, .rw, .stopped, 2⟩, ⟨10, 2, .rw, .stopped, 1⟩, ⟨12, 1, .rw, .stopped, 1⟩, ⟨13, 2, .rw, .stopped, 0⟩, ⟨15, 1, .rw, .stopped, 0⟩, ⟨16, 1, .rw, .stopped, 0⟩, ⟨17, 3, .rw, .stopped, 1⟩, ⟨20, 1, .rw, .stopped, 0⟩]⟩, -- SAP_CFG
  ⟨0x8, 0, 1, .word, [⟨0, 2, .rw, .stopped, 0⟩]⟩, -- SAP_CLK
  ⟨0xC, 0, 1, .word, [⟨0, 1, .ro, .now, 0⟩, ⟨1, 1, .ro, .now, 0⟩, ⟨2, 1, .ro, .now, 0⟩, ⟨3, 1, .ro, .now, 0⟩, ⟨4, 3, .ro, .now, 0⟩, ⟨8, 1, .w1c, .now, 0⟩, ⟨9, 1, .w1c, .now, 0⟩, ⟨10, 1, .w1c, .now, 0⟩, ⟨11, 1, .w1c, .now, 0⟩]⟩, -- SAP_STATUS
  ⟨0x10, 0, 1, .word, [⟨0, 26, .ro, .now, 0⟩]⟩, -- SAP_RATE
  ⟨0x14, 0, 1, .word, [⟨0, 16, .rw, .now, 0x3e8⟩, ⟨16, 4, .rw, .now, 0xc⟩]⟩, -- SAP_RATE_CFG
  ⟨0x18, 0, 1, .word, [⟨0, 16, .ro, .now, 0⟩, ⟨16, 16, .ro, .now, 0⟩]⟩, -- SAP_ASRC_DELAY
  ⟨0x1C, 0, 1, .word, [⟨0, 16, .rw, .stopped, 0x100⟩]⟩, -- SAP_START
  ⟨0x20, 0, 1, .word, [⟨0, 32, .rw, (.landing 40 0 1), 0⟩]⟩, -- SAP_MASK_RX0
  ⟨0x24, 0, 1, .word, [⟨0, 32, .rw, (.landing 40 0 1), 0⟩]⟩, -- SAP_MASK_RX1
  ⟨0x28, 0, 1, .word, [⟨0, 32, .rw, (.landing 40 0 1), 0⟩]⟩, -- SAP_MASK_TX0
  ⟨0x2C, 0, 1, .word, [⟨0, 32, .rw, (.landing 40 0 1), 0⟩]⟩, -- SAP_MASK_TX1
  ⟨0x40, 8, 8, .word, [⟨0, 1, .rw, (.landing 40 0 1), 0⟩, ⟨1, 1, .rw, (.landing 40 0 1), 0⟩, ⟨2, 5, .rw, (.landing 40 0 1), 0⟩, ⟨7, 1, .rw, (.landing 40 0 1), 0⟩, ⟨8, 5, .rw, (.landing 40 0 1), 0⟩]⟩, -- SAP_DP_CFG
  ⟨0x44, 8, 8, .word, [⟨0, 32, .rw, (.landing 40 0 1), 0x8000000⟩]⟩, -- SAP_DP_GAIN
  ⟨0x80, 0, 1, .word, [⟨0, 32, .rc, .now, 0⟩]⟩, -- SAP_RX_UNDER_CNT
  ⟨0x84, 0, 1, .word, [⟨0, 32, .rc, .now, 0⟩]⟩, -- SAP_TX_UNDER_CNT
  ⟨0x88, 0, 1, .word, [⟨0, 32, .rc, .now, 0⟩]⟩, -- SAP_RX_OVER_CNT
  ⟨0x8C, 0, 1, .word, [⟨0, 32, .rc, .now, 0⟩]⟩, -- SAP_TX_OVER_CNT
  ⟨0x90, 0, 1, .word, [⟨0, 32, .rc, .now, 0⟩]⟩, -- SAP_TX_SAT_CNT
  ⟨0x94, 0, 1, .word, [⟨0, 32, .rc, .now, 0⟩]⟩ -- SAP_CLKLOSS_CNT
  ]

def mixRegs : List RegSpec := [
  ⟨0x0, 0, 1, .word, [⟨0, 1, .rw, .now, 0⟩]⟩, -- MIX_CTRL
  ⟨0x4, 0, 1, .word, [⟨0, 1, .ro, .now, 0⟩, ⟨1, 1, .w1c, .now, 0⟩, ⟨2, 1, .w1c, .now, 0⟩, ⟨3, 1, .w1c, .now, 0⟩, ⟨4, 1, .w1c, .now, 0⟩, ⟨5, 1, .w1c, .now, 0⟩]⟩, -- MIX_STATUS
  ⟨0x8, 0, 1, .word, [⟨20, 12, .rw, .stopped, 0⟩]⟩, -- MIX_INSTAGE_BASE
  ⟨0xC, 0, 1, .word, [⟨21, 11, .rw, .stopped, 0⟩]⟩, -- MIX_OUTSTAGE_BASE
  ⟨0x10, 0, 1, .word, [⟨0, 2, .ro, .now, 0⟩, ⟨4, 12, .ro, .now, 0⟩, ⟨16, 4, .ro, .now, 0⟩]⟩, -- MIX_VERR
  ⟨0x14, 0, 1, .word, [⟨0, 4, .wo, .now, 0⟩, ⟨16, 16, .wo, .now, 0⟩]⟩, -- MIX_OUTRDY
  ⟨0x18, 0, 1, .word, [⟨0, 32, .rc, .now, 0⟩]⟩, -- MIX_LATE_CNT
  ⟨0x1C, 0, 1, .word, [⟨0, 32, .rc, .now, 0⟩]⟩, -- MIX_PRIV_CNT
  ⟨0x20, 0, 1, .word, [⟨0, 32, .rc, .now, 0⟩]⟩, -- MIX_CLIP_CNT
  ⟨0x24, 0, 1, .word, [⟨0, 16, .rw, (.landing 35 0 0), 0⟩]⟩, -- MIX_OUT_SLOTS
  ⟨0x28, 0, 1, .word, [⟨0, 6, .rw, (.landing 35 0 0), 0xa⟩]⟩, -- MIX_GAIN_CFG
  ⟨0x2C, 0, 1, .word, [⟨20, 12, .rw, .stopped, 0⟩]⟩, -- MIX_DELAY_BASE
  ⟨0x40, 16, 4, .word, [⟨0, 1, .rw, (.landing 36 0 0), 0⟩, ⟨1, 1, .rw, (.landing 36 0 0), 0⟩, ⟨2, 6, .rw, (.landing 36 0 0), 0⟩, ⟨8, 8, .rw, (.landing 36 0 0), 0⟩, ⟨16, 4, .rw, (.landing 36 0 0), 0⟩]⟩, -- MIX_CAP_CFG
  ⟨0x44, 16, 4, .word, [⟨0, 16, .rw, (.landing 36 0 0), 0⟩]⟩, -- MIX_CAP_INTERVAL
  ⟨0x100, 4, 4, .word, [⟨0, 4, .rw, (.landing 36 0 0), 0xa⟩, ⟨4, 12, .rw, (.landing 36 0 0), 0x3e8⟩, ⟨16, 8, .rw, (.landing 36 0 0), 0x14⟩]⟩, -- MIX_METER_CFG
  ⟨0x200, 32, 16, .word, [⟨0, 3, .rw, (.landing 36 0 0), 0⟩, ⟨4, 4, .rw, (.landing 36 0 0), 0⟩]⟩, -- MIX_TG_CFG
  ⟨0x204, 32, 16, .word, [⟨0, 20, .rw, (.landing 36 0 0), 0x3e80⟩]⟩, -- MIX_TG_FREQ
  ⟨0x208, 32, 16, .word, [⟨0, 20, .rw, (.landing 36 0 0), 0x3e80⟩]⟩, -- MIX_TG_FREQ2
  ⟨0x20C, 32, 16, .word, [⟨0, 11, .rw, (.landing 36 0 0), 0xc8⟩]⟩, -- MIX_TG_LEVEL
  ⟨0x210, 32, 16, .word, [⟨0, 16, .rw, (.landing 36 0 0), 0x2710⟩]⟩, -- MIX_TG_SWEEP
  ⟨0x1000, 4, 1280, .word, [⟨0, 12, .rw, (.landing 35 0 0), 0⟩, ⟨12, 1, .rw, (.landing 35 0 0), 1⟩]⟩, -- MIX_GAIN
  ⟨0x2400, 4, 1280, .word, [⟨0, 12, .ro, .now, 0⟩, ⟨12, 1, .ro, .now, 1⟩, ⟨13, 1, .ro, .now, 0⟩]⟩, -- MIX_GAIN_ACT
  ⟨0x4000, 4, 3840, .word, [⟨0, 12, .rw, (.landing 34 0 0), 0xfff⟩, ⟨12, 1, .rw, (.landing 34 0 0), 0⟩]⟩ -- MIX_ROUTE
  ]

def pchRegs : List RegSpec := [
  ⟨0x0, 0, 1, .word, [⟨0, 1, .wo, .now, 0⟩, ⟨1, 1, .wo, .now, 0⟩, ⟨2, 1, .wo, .now, 0⟩, ⟨3, 1, .wo, .now, 0⟩]⟩, -- PCH_CTRL
  ⟨0x4, 0, 1, .word, [⟨0, 1, .rw, .now, 1⟩, ⟨1, 1, .rw, .now, 1⟩, ⟨2, 1, .rw, .now, 1⟩]⟩, -- PCH_CFG
  ⟨0x8, 0, 1, .word, [⟨0, 2, .ro, .now, 0⟩, ⟨2, 1, .ro, .now, 0⟩, ⟨3, 1, .ro, .now, 0⟩, ⟨4, 1, .ro, .now, 0⟩, ⟨5, 1, .w1c, .now, 0⟩, ⟨6, 1, .ro, .now, 0⟩, ⟨7, 1, .ro, .now, 0⟩, ⟨8, 1, .w1c, .now, 0⟩, ⟨9, 1, .w1c, .now, 0⟩, ⟨10, 1, .w1c, .now, 0⟩, ⟨11, 1, .w1c, .now, 0⟩, ⟨12, 1, .w1c, .now, 0⟩]⟩, -- PCH_STATUS
  ⟨0xC, 0, 1, .word, [⟨0, 5, .ro, .now, 0x10⟩]⟩, -- PCH_WAKE_CAUSE
  ⟨0x18, 0, 1, .word, [⟨0, 32, .rc, .now, 0⟩]⟩, -- PCH_SAFE_XRUN_CNT
  ⟨0x1C, 0, 1, .word, [⟨0, 32, .rc, .now, 0⟩]⟩, -- PCH_PE_FAULT_CNT
  ⟨0x20, 0, 1, .word, [⟨0, 32, .rc, .now, 0⟩]⟩, -- PCH_IGNORED_CNT
  ⟨0x24, 0, 1, .word, [⟨0, 8, .ro, .now, 0⟩, ⟨8, 23, .ro, .now, 0⟩]⟩, -- PCH_PE_FAULT
  ⟨0x28, 0, 1, .word, [⟨0, 13, .rc, .now, 0⟩]⟩, -- PCH_PE_LOAD
  ⟨0x40, 0, 1, .word, [⟨0, 1, .w1c, .now, 0⟩, ⟨1, 1, .w1c, .now, 0⟩, ⟨8, 8, .ro, .now, 0⟩]⟩, -- PCH_WD_STATUS
  ⟨0x50, 0, 1, .word, [⟨0, 8, .rw, .now, 0x69⟩, ⟨8, 8, .rw, .now, 0x5f⟩]⟩, -- PCH_THERM_CFG
  ⟨0x54, 0, 1, .word, [⟨0, 8, .ro, .now, 0⟩, ⟨8, 8, .ro, .now, 0⟩, ⟨16, 16, .ro, .now, 0⟩]⟩, -- PCH_THERM_STATUS
  ⟨0x80, 0, 1, .word, [⟨0, 2, .ro, .now, 0⟩, ⟨2, 1, .rw, .now, 1⟩, ⟨8, 8, .rw, .now, 0⟩]⟩, -- PCH_SMB_CFG
  ⟨0x84, 0, 1, .word, [⟨0, 32, .rc, .now, 0⟩]⟩, -- PCH_SMB_ERR_CNT
  ⟨0xA0, 0, 1, .word, [⟨0, 2, .rw, .now, 0⟩]⟩, -- PCH_FL_CFG
  ⟨0xA4, 0, 1, .word, [⟨0, 2, .rw, .now, 0⟩, ⟨8, 1, .wo, .now, 0⟩]⟩, -- PCH_FL_CMD
  ⟨0xA8, 0, 1, .word, [⟨0, 32, .rw, .now, 0⟩]⟩, -- PCH_FL_ADDR
  ⟨0xAC, 0, 1, .word, [⟨0, 26, .rw, .now, 0⟩]⟩, -- PCH_FL_LEN
  ⟨0xB0, 0, 1, .low, [⟨0, 32, .rw, .now, 0⟩]⟩, -- PCH_FL_MEM_LO
  ⟨0xB4, 0, 1, .high, [⟨0, 8, .rw, .now, 0⟩]⟩, -- PCH_FL_MEM_HI
  ⟨0xB8, 0, 1, .word, [⟨0, 1, .ro, .now, 0⟩, ⟨1, 1, .w1c, .now, 0⟩, ⟨2, 1, .w1c, .now, 0⟩, ⟨3, 1, .ro, .now, 0⟩]⟩, -- PCH_FL_STATUS
  ⟨0xC0, 0, 1, .word, [⟨0, 8, .rw, .now, 0⟩]⟩, -- PCH_OTP_ADDR
  ⟨0xC4, 0, 1, .word, [⟨0, 32, .w1s, .now, 0⟩]⟩, -- PCH_OTP_DATA
  ⟨0xD0, 0, 1, .word, [⟨0, 4, .ro, .now, 0⟩, ⟨4, 4, .ro, .now, 0⟩, ⟨8, 8, .ro, .now, 0⟩, ⟨16, 2, .ro, .now, 0⟩, ⟨18, 1, .ro, .now, 0⟩]⟩, -- PCH_BOOT_STATUS
  ⟨0xD4, 0, 1, .word, [⟨0, 26, .rw, .now, 0⟩]⟩, -- PCH_HBOOT_LEN
  ⟨0xD8, 0, 1, .word, [⟨0, 1, .wo, .now, 0⟩]⟩, -- PCH_HBOOT_CTRL
  ⟨0xE0, 0, 1, .word, [⟨0, 1, .ro, .now, 0⟩, ⟨8, 1, .w1c, .now, 0⟩, ⟨9, 1, .w1c, .now, 0⟩]⟩, -- PCH_SRAM_STATUS
  ⟨0xE4, 0, 1, .word, [⟨0, 32, .rc, .now, 0⟩]⟩, -- PCH_SRAM_CE_CNT
  ⟨0xE8, 0, 1, .word, [⟨0, 32, .rc, .now, 0⟩]⟩, -- PCH_SRAM_UE_CNT
  ⟨0xEC, 0, 1, .word, [⟨3, 16, .ro, .now, 0⟩]⟩, -- PCH_SRAM_ERR_ADDR
  ⟨0x100, 0, 1, .word, [⟨0, 16, .ro, .now, 0⟩, ⟨16, 16, .ro, .now, 0⟩]⟩, -- PCH_SUBSYS
  ⟨0x10, 4, 2, .word, [⟨0, 1, .rw, (.landing 40 1 0), 0⟩, ⟨8, 1, .ro, .now, 0⟩]⟩, -- PCH_SAFE_OWN
  ⟨0x30, 8, 2, .word, [⟨0, 1, .w1s, .now, 0⟩, ⟨16, 16, .rw, .now, 0x3e8⟩]⟩, -- PCH_WD_CFG
  ⟨0x34, 8, 2, .word, [⟨0, 32, .wo, .now, 0⟩]⟩, -- PCH_WD_KICK
  ⟨0x60, 4, 8, .word, [⟨0, 16, .ro, .now, 0⟩]⟩, -- PCH_TEMP
  ⟨0x108, 8, 4, .low, [⟨0, 32, .ro, .now, 0⟩]⟩, -- PCH_MAC_LO
  ⟨0x10C, 8, 4, .high, [⟨0, 16, .ro, .now, 0⟩]⟩ -- PCH_MAC_HI
  ]

def gangRegs : List RegSpec := [
  ⟨0x0, 0, 1, .word, [⟨0, 1, .rw, (.landing 48 0 0), 0⟩, ⟨1, 1, .rw, (.landing 48 0 0), 0⟩]⟩, -- GANG_CTRL
  ⟨0x4, 0, 1, .word, [⟨0, 1, .rw, .stopped, 0⟩, ⟨4, 3, .rw, .stopped, 1⟩, ⟨8, 3, .rw, .stopped, 0⟩, ⟨16, 16, .rw, .stopped, 0⟩]⟩, -- GANG_CFG
  ⟨0x8, 0, 1, .word, [⟨0, 16, .rw, .stopped, 0x88b5⟩, ⟨16, 4, .rw, .stopped, 1⟩, ⟨20, 3, .rw, .stopped, 6⟩]⟩, -- GANG_NET
  ⟨0xC, 0, 1, .word, [⟨0, 8, .rw, (.landing 48 0 0), 8⟩, ⟨8, 1, .rw, (.landing 48 0 0), 0⟩, ⟨16, 8, .rw, (.landing 48 0 0), 8⟩]⟩, -- GANG_SEG
  ⟨0x10, 0, 1, .word, [⟨0, 1, .w1c, .now, 0⟩, ⟨1, 1, .w1c, .now, 0⟩, ⟨2, 1, .w1c, .now, 0⟩, ⟨3, 1, .w1c, .now, 0⟩, ⟨4, 1, .w1c, .now, 0⟩, ⟨5, 1, .w1c, .now, 0⟩, ⟨6, 1, .w1c, .now, 0⟩, ⟨7, 1, .w1c, .now, 0⟩, ⟨8, 1, .ro, .now, 0⟩]⟩, -- GANG_STATUS
  ⟨0x14, 0, 1, .word, [⟨0, 8, .ro, .now, 0⟩]⟩, -- GANG_PEER_UP
  ⟨0x18, 0, 1, .word, [⟨0, 32, .rc, .now, 0⟩]⟩, -- GANG_TX_CNT
  ⟨0x1C, 0, 1, .word, [⟨0, 32, .rc, .now, 0⟩]⟩, -- GANG_SAT_CNT
  ⟨0x80, 0, 1, .low, [⟨0, 32, .ro, .now, 0⟩]⟩, -- GANG_DONE_BLOCK_LO
  ⟨0x84, 0, 1, .high, [⟨0, 32, .ro, .now, 0⟩]⟩, -- GANG_DONE_BLOCK_HI
  ⟨0x88, 0, 1, .low, [⟨0, 32, .ro, .now, 0⟩]⟩, -- GANG_MISMATCH_BLOCK_LO
  ⟨0x8C, 0, 1, .high, [⟨0, 32, .ro, .now, 0⟩]⟩, -- GANG_MISMATCH_BLOCK_HI
  ⟨0x90, 0, 1, .word, [⟨0, 10, .ro, .now, 0⟩]⟩, -- GANG_MISMATCH_OUT
  ⟨0x94, 0, 1, .word, [⟨0, 32, .rc, .now, 0⟩]⟩, -- GANG_MISMATCH_CNT
  ⟨0x98, 0, 1, .word, [⟨0, 32, .rc, .now, 0⟩]⟩, -- GANG_DIGEST_MISS_CNT
  ⟨0x9C, 0, 1, .word, [⟨0, 32, .rc, .now, 0⟩]⟩, -- GANG_DOWN_CNT
  ⟨0xA0, 0, 1, .word, [⟨0, 32, .rc, .now, 0⟩]⟩, -- GANG_RXERR_CNT
  ⟨0xA4, 0, 1, .word, [⟨0, 12, .rw, .stopped, 0⟩]⟩, -- GANG_VLAN
  ⟨0x20, 4, 8, .word, [⟨0, 10, .rw, (.landing 48 0 0), 0⟩, ⟨16, 10, .rw, (.landing 48 0 0), 0⟩]⟩, -- GANG_SHARE
  ⟨0x40, 8, 8, .low, [⟨0, 32, .rw, .stopped, 0⟩]⟩, -- GANG_PEER_MAC_LO
  ⟨0x44, 8, 8, .high, [⟨0, 16, .rw, .stopped, 0⟩]⟩, -- GANG_PEER_MAC_HI
  ⟨0x100, 32, 8, .word, [⟨0, 32, .rc, .now, 0⟩]⟩, -- GANG_PEER_RX_CNT
  ⟨0x104, 32, 8, .word, [⟨0, 32, .rc, .now, 0⟩]⟩, -- GANG_PEER_MISS_CNT
  ⟨0x108, 32, 8, .word, [⟨0, 32, .rc, .now, 0⟩]⟩, -- GANG_PEER_LATE_CNT
  ⟨0x10C, 32, 8, .word, [⟨0, 32, .rc, .now, 0⟩]⟩, -- GANG_PEER_DUP_CNT
  ⟨0x110, 32, 8, .word, [⟨0, 32, .rc, .now, 0⟩]⟩, -- GANG_PEER_CRC_CNT
  ⟨0x114, 32, 8, .word, [⟨0, 32, .rc, .now, 0⟩]⟩ -- GANG_PEER_FMT_CNT
  ]

def ochRegs : List RegSpec := [
  ⟨0x0, 0, 1, .word, [⟨0, 1, .w1c, .now, 0⟩, ⟨1, 1, .w1c, .now, 0⟩, ⟨2, 1, .w1c, .now, 0⟩, ⟨3, 1, .w1c, .now, 0⟩]⟩, -- OCH_STATUS
  ⟨0x4, 0, 1, .word, [⟨0, 4, .wo, .now, 0⟩, ⟨4, 3, .wo, .now, 0⟩]⟩, -- OCH_RAISE
  ⟨0x100, 32, 16, .word, [⟨0, 1, .rw, (.landing 16 1 0), 0⟩, ⟨1, 1, .rw, (.landing 16 1 0), 0⟩]⟩, -- OCH_SLOT_CFG
  ⟨0x104, 32, 16, .word, [⟨0, 2, .ro, .now, 0⟩]⟩, -- OCH_SLOT_ACT
  ⟨0x108, 32, 16, .word, [⟨0, 2, .ro, .now, 0⟩]⟩, -- OCH_SLOT_PREV
  ⟨0x10C, 32, 16, .word, [⟨0, 32, .rc, .now, 0⟩]⟩, -- OCH_SLOT_JOBLATE_CNT
  ⟨0x110, 32, 16, .word, [⟨0, 32, .rc, .now, 0⟩]⟩, -- OCH_SLOT_XFLATE_CNT
  ⟨0x114, 32, 16, .word, [⟨0, 32, .rc, .now, 0⟩]⟩, -- OCH_SLOT_SAT_CNT
  ⟨0x118, 32, 16, .word, [⟨0, 32, .rc, .now, 0⟩]⟩, -- OCH_SLOT_LIMIT_CNT
  ⟨0x300, 8, 16, .low, [⟨21, 11, .rw, (.landing 16 1 0), 0⟩]⟩, -- OCH_SLOT_CBASE_LO
  ⟨0x304, 8, 16, .high, [⟨0, 8, .rw, (.landing 16 1 0), 0⟩]⟩, -- OCH_SLOT_CBASE_HI
  ⟨0x1000, 4, 768, .word, [⟨0, 1, .rw, (.landing 16 48 0), 0⟩, ⟨1, 1, .rw, (.landing 16 48 0), 0⟩]⟩, -- OCH_OUT
  ⟨0x2000, 4, 768, .word, [⟨0, 2, .ro, .now, 0⟩]⟩, -- OCH_OUT_ACT
  ⟨0x3000, 4, 768, .word, [⟨0, 2, .ro, .now, 0⟩]⟩ -- OCH_OUT_PREV
  ]

def hallRegs : List RegSpec := [
  ⟨0x0, 0, 1, .word, [⟨0, 4, .rw, .stopped, 0⟩]⟩, -- HALL_CTRL
  ⟨0x4, 0, 1, .word, [⟨0, 1, .w1c, .now, 0⟩, ⟨1, 1, .w1c, .now, 0⟩, ⟨2, 1, .w1c, .now, 0⟩, ⟨3, 1, .w1c, .now, 0⟩, ⟨4, 1, .w1c, .now, 0⟩]⟩, -- HALL_STATUS
  ⟨0x8, 0, 1, .low, [⟨0, 32, .ro, .now, 0⟩]⟩, -- HALL_DONE_BLOCK_LO
  ⟨0xC, 0, 1, .high, [⟨0, 32, .ro, .now, 0⟩]⟩, -- HALL_DONE_BLOCK_HI
  ⟨0x20, 0, 1, .word, [⟨0, 16, .ro, .now, 0⟩]⟩, -- HALL_PARTIAL_SLOTS
  ⟨0x24, 0, 1, .word, [⟨0, 32, .rc, .now, 0⟩]⟩, -- HALL_PARTIAL_CNT
  ⟨0x28, 0, 1, .word, [⟨0, 32, .rc, .now, 0⟩]⟩, -- HALL_OVF_CNT
  ⟨0x2C, 0, 1, .word, [⟨0, 32, .rc, .now, 0⟩]⟩, -- HALL_DISCARD_CNT
  ⟨0x30, 0, 1, .word, [⟨0, 32, .rc, .now, 0⟩]⟩, -- HALL_CLAMP_CNT
  ⟨0x34, 0, 1, .word, [⟨21, 11, .rw, .stopped, 0⟩]⟩, -- HALL_RSTAGE_BASE
  ⟨0x10, 4, 4, .word, [⟨0, 5, .rw, (.landing 32 0 0), 0⟩, ⟨8, 5, .rw, (.landing 32 0 0), 1⟩, ⟨16, 5, .rw, (.landing 32 0 0), 2⟩, ⟨24, 5, .rw, (.landing 32 0 0), 3⟩]⟩, -- HALL_XBAR
  ⟨0x100, 64, 16, .word, [⟨0, 4, .rw, (.landing 0 1 0), 0xe⟩, ⟨4, 1, .rw, (.landing 0 1 0), 0⟩, ⟨5, 1, .rw, (.landing 0 1 0), 0⟩, ⟨8, 8, .rw, (.landing 0 1 0), 0⟩]⟩, -- HALL_SLOT_CFG
  ⟨0x104, 64, 16, .word, [⟨12, 11, .rw, (.landing 0 1 0), 0⟩]⟩, -- HALL_SLOT_WIN_BASE
  ⟨0x108, 64, 16, .word, [⟨4, 19, .rw, (.landing 0 1 0), 0x400000⟩]⟩, -- HALL_SLOT_PT_BASE0
  ⟨0x10C, 64, 16, .word, [⟨4, 19, .rw, (.landing 0 1 0), 0x4c0000⟩]⟩, -- HALL_SLOT_PT_BASE1
  ⟨0x110, 64, 16, .word, [⟨12, 11, .rw, (.landing 0 1 0), 0x580000⟩]⟩, -- HALL_SLOT_INTERP_BASE
  ⟨0x114, 64, 16, .word, [⟨0, 1, .ro, .now, 0⟩, ⟨8, 8, .ro, .now, 0⟩]⟩, -- HALL_SLOT_STATUS
  ⟨0x118, 64, 16, .low, [⟨0, 32, .ro, .now, 0⟩]⟩, -- HALL_SLOT_RESEAT_LO
  ⟨0x11C, 64, 16, .high, [⟨0, 32, .ro, .now, 0⟩]⟩, -- HALL_SLOT_RESEAT_HI
  ⟨0x1000, 4, 1024, .word, [⟨0, 20, .rw, (.landing 0 64 0), 0⟩, ⟨31, 1, .rw, (.landing 0 64 0), 0⟩]⟩ -- HALL_OBJ
  ]

def engRegs : List RegSpec := [
  ⟨0x0, 0, 1, .word, [⟨0, 1, .w1s, .now, 0⟩, ⟨1, 1, .wo, .now, 0⟩, ⟨2, 1, .wo, .now, 0⟩, ⟨3, 1, .wo, .now, 0⟩]⟩, -- ENG_CTRL
  ⟨0x4, 0, 1, .word, [⟨0, 1, .rw, .stopped, 1⟩, ⟨1, 1, .rw, .stopped, 1⟩, ⟨2, 1, .rw, .stopped, 1⟩]⟩, -- ENG_CFG
  ⟨0x8, 0, 1, .word, [⟨0, 3, .ro, .now, 0⟩, ⟨3, 1, .ro, .now, 0⟩, ⟨4, 1, .ro, .now, 0⟩, ⟨5, 1, .ro, .now, 0⟩, ⟨6, 1, .ro, .now, 0⟩, ⟨8, 5, .ro, .now, 0⟩, ⟨16, 5, .ro, .now, 0⟩]⟩, -- ENG_STATUS
  ⟨0xC, 0, 1, .word, [⟨0, 1, .w1c, .now, 0⟩, ⟨1, 1, .w1c, .now, 0⟩, ⟨2, 1, .w1c, .now, 0⟩]⟩, -- ENG_EVENT
  ⟨0x10, 0, 1, .word, [⟨0, 8, .ro, .now, 0⟩, ⟨8, 1, .ro, .now, 0⟩, ⟨9, 1, .ro, .now, 0⟩, ⟨10, 1, .ro, .now, 0⟩, ⟨16, 3, .ro, .now, 0⟩, ⟨19, 5, .ro, .now, 0⟩, ⟨24, 5, .ro, .now, 0⟩]⟩, -- ENG_FAULT
  ⟨0x14, 0, 1, .word, [⟨0, 23, .ro, .now, 0⟩]⟩, -- ENG_FAULT_PC
  ⟨0x18, 0, 1, .low, [⟨0, 32, .ro, .now, 0⟩]⟩, -- ENG_FAULT_ADDR_LO
  ⟨0x1C, 0, 1, .high, [⟨0, 8, .ro, .now, 0⟩]⟩, -- ENG_FAULT_ADDR_HI
  ⟨0x20, 0, 1, .word, [⟨0, 14, .ro, .now, 0⟩]⟩, -- ENG_FAULT_TASK
  ⟨0x24, 0, 1, .word, [⟨0, 16, .rc, .now, 0⟩]⟩, -- ENG_PREEMPT_MAX
  ⟨0x28, 0, 1, .low, [⟨0, 32, .ro, .now, 0⟩]⟩, -- ENG_CYCLES_LO
  ⟨0x2C, 0, 1, .high, [⟨0, 32, .ro, .now, 0⟩]⟩, -- ENG_CYCLES_HI
  ⟨0x30, 0, 1, .word, [⟨0, 3, .wo, .now, 0⟩, ⟨3, 1, .wo, .now, 0⟩]⟩, -- ENG_INJECT
  ⟨0x38, 0, 1, .word, [⟨0, 3, .rw, .now, 0⟩, ⟨3, 5, .rw, .now, 0⟩, ⟨8, 5, .rw, .now, 0⟩, ⟨13, 2, .rw, .now, 0⟩, ⟨15, 1, .rw, .now, 0⟩]⟩, -- ENG_DBG_SEL
  ⟨0x3C, 0, 1, .word, [⟨0, 32, .rw, .now, 0⟩]⟩, -- ENG_DBG_DATA
  ⟨0x40, 64, 2, .word, [⟨0, 1, .ro, .now, 0⟩, ⟨1, 1, .ro, .now, 0⟩, ⟨2, 1, .ro, .now, 0⟩, ⟨3, 1, .ro, .now, 0⟩, ⟨4, 1, .ro, .now, 0⟩, ⟨5, 1, .ro, .now, 0⟩, ⟨6, 1, .w1c, .now, 0⟩, ⟨7, 1, .ro, .now, 0⟩, ⟨8, 4, .ro, .now, 0⟩]⟩, -- ENG_CTX_STATUS
  ⟨0x44, 64, 2, .word, [⟨0, 14, .ro, .now, 0⟩, ⟨14, 2, .ro, .now, 0⟩]⟩, -- ENG_CTX_TASK
  ⟨0x48, 64, 2, .word, [⟨0, 23, .ro, .now, 0⟩]⟩, -- ENG_CTX_PC
  ⟨0x4C, 64, 2, .word, [⟨0, 32, .ro, .now, 0⟩]⟩, -- ENG_CTX_CYCLES
  ⟨0x50, 64, 2, .word, [⟨0, 32, .w1c, .now, 0⟩]⟩, -- ENG_CTX_OVF
  ⟨0x54, 64, 2, .word, [⟨0, 32, .w1c, .now, 0⟩]⟩, -- ENG_CTX_LOST
  ⟨0x58, 64, 2, .word, [⟨0, 32, .w1c, .now, 0⟩]⟩, -- ENG_CTX_WRAP
  ⟨0x60, 64, 2, .low, [⟨0, 32, .ro, .now, 0⟩]⟩, -- ENG_CTX_MEMERR_ADDR_LO
  ⟨0x64, 64, 2, .high, [⟨0, 8, .ro, .now, 0⟩]⟩, -- ENG_CTX_MEMERR_ADDR_HI
  ⟨0xC0, 16, 4, .low, [⟨12, 20, .rw, .now, 0⟩]⟩, -- ENG_UREGION_BASE_LO
  ⟨0xC4, 16, 4, .high, [⟨0, 8, .rw, .now, 0⟩]⟩, -- ENG_UREGION_BASE_HI
  ⟨0xC8, 16, 4, .word, [⟨0, 24, .rw, .now, 0⟩, ⟨24, 1, .rw, .now, 0⟩, ⟨25, 1, .rw, .now, 0⟩]⟩ -- ENG_UREGION_SIZE
  ]

/-- The registers of a block, by offset. -/
def Blk.regs : Blk → List RegSpec
  | .lnd => lndRegs
  | .clk => clkRegs
  | .rst => rstRegs
  | .evc => evcRegs
  | .pmc => pmcRegs
  | .tsk => tskRegs
  | .hif => hifRegs
  | .xlt => xltRegs
  | .ecc => eccRegs
  | .dmc => dmcRegs
  | .fab => fabRegs
  | .mac => macRegs
  | .tb => tbRegs
  | .fe => feRegs
  | .sap => sapRegs
  | .mix => mixRegs
  | .pch => pchRegs
  | .gang => gangRegs
  | .och => ochRegs
  | .hall => hallRegs
  | .eng => engRegs

/-- A block's range: its base, its span, the distance between its copies, and how many copies there are (R577).
The DMC channels 4 to 7 have a row of their own, with the copies counted on from 4. -/
structure BlkRange where
  blk : Blk
  base : Nat
  span : Nat
  step : Nat
  copies : Nat
  first : Nat
  deriving DecidableEq, Repr

/-- The register index (R577). -/
def blkRanges : List BlkRange := [
  ⟨.lnd, 0x0000000, 0x10000, 0x10000, 1, 0⟩,
  ⟨.clk, 0x0010000, 0x10000, 0x10000, 1, 0⟩,
  ⟨.rst, 0x0020000, 0x10000, 0x10000, 1, 0⟩,
  ⟨.evc, 0x0030000, 0x10000, 0x10000, 1, 0⟩,
  ⟨.pmc, 0x0040000, 0x10000, 0x10000, 1, 0⟩,
  ⟨.tsk, 0x0050000, 0x10000, 0x10000, 1, 0⟩,
  ⟨.hif, 0x0060000, 0x10000, 0x10000, 1, 0⟩,
  ⟨.xlt, 0x0070000, 0x10000, 0x10000, 1, 0⟩,
  ⟨.ecc, 0x0080000, 0x10000, 0x10000, 1, 0⟩,
  ⟨.dmc, 0x0090000, 0x4000, 0x4000, 4, 0⟩,
  ⟨.dmc, 0x00B0000, 0x4000, 0x4000, 4, 4⟩,
  ⟨.fab, 0x00A0000, 0x10000, 0x10000, 1, 0⟩,
  ⟨.mac, 0x0100000, 0x10000, 0x10000, 4, 0⟩,
  ⟨.tb, 0x0140000, 0x10000, 0x10000, 1, 0⟩,
  ⟨.fe, 0x0150000, 0x10000, 0x10000, 1, 0⟩,
  ⟨.sap, 0x0160000, 0x1000, 0x1000, 8, 0⟩,
  ⟨.mix, 0x0170000, 0x10000, 0x10000, 1, 0⟩,
  ⟨.pch, 0x0180000, 0x10000, 0x10000, 1, 0⟩,
  ⟨.gang, 0x01D0000, 0x10000, 0x10000, 1, 0⟩,
  ⟨.och, 0x01E0000, 0x10000, 0x10000, 1, 0⟩,
  ⟨.hall, 0x01F0000, 0x10000, 0x10000, 1, 0⟩,
  ⟨.eng, 0x0200000, 0x10000, 0x10000, 17, 0⟩
  ]

/-- Where a register-space offset lies: the block, which copy of it, the offset inside it. -/
structure Place where
  blk : Blk
  u : Nat
  off : Nat
  deriving DecidableEq, Repr

/-- The place of a register-space offset, if it lies in a block's range (R577). -/
def placeIn : List BlkRange → Nat → Option Place
  | [], _ => none
  | r :: t, a =>
    if r.base ≤ a ∧ a / r.step < r.base / r.step + r.copies ∧ a % r.step < r.span then
      some ⟨r.blk, r.first + (a / r.step - r.base / r.step), a % r.step⟩
    else placeIn t a

/-- The place of a register-space offset (R577). -/
def placeOf (a : Nat) : Option Place := placeIn blkRanges a

/-- The register at offset `o` and its index in its run. -/
def specIn : List RegSpec → Nat → Option (RegSpec × Nat)
  | [], _ => none
  | r :: t, o =>
    if r.off = o then some (r, 0)
    else if r.off ≤ o ∧ r.stride ≠ 0 ∧ (o - r.off) % r.stride = 0 ∧ (o - r.off) / r.stride < r.n then
      some (r, (o - r.off) / r.stride)
    else specIn t o

/-- A register found: its place, its specification, its index. -/
structure Found where
  pl : Place
  spec : RegSpec
  i : Nat
  deriving DecidableEq, Repr

/-- Whether the register exists in this copy of its block: the wake registers only in P0, MAC_PT_CFG only in P2 (R349). -/
def Place.has (p : Place) : Bool :=
  match p.blk with
  | .mac => if 0x1000 ≤ p.off ∧ p.off < 0x4000 then p.u == 0 else if p.off = 0x34 then p.u == 2 else true
  | _ => true

/-- The register at a register-space offset; `none` is an address with no register (R6). -/
def regAt (a : Nat) : Option Found :=
  match placeOf a with
  | none => none
  | some p =>
    if p.has then
      match specIn p.blk.regs p.off with
      | none => none
      | some (r, i) => some ⟨p, r, i⟩
    else none

/-- The level sources of R559. -/
def isLevelSource (n : Nat) : Bool :=
  n == 6 || (32 ≤ n && n ≤ 48) || n == 58 || n == 59 || n == 68 || n == 69 || n == 75 || n == 96 || n == 100
  || n == 104 || n == 108 || n == 114 || n == 133 || n == 161 || n == 183 || n == 184 || (192 ≤ n && n ≤ 201)
  || n == 210 || n == 211 || n == 213 || n == 214 || n == 227 || n == 247

/-- The reserved sources of R559. -/
def isReservedSource (n : Nat) : Bool :=
  (9 ≤ n && n ≤ 31) || (78 ≤ n && n ≤ 95) || (121 ≤ n && n ≤ 127) || (137 ≤ n && n ≤ 143) || (166 ≤ n && n ≤ 175)
  || (188 ≤ n && n ≤ 191) || (219 ≤ n && n ≤ 223) || (237 ≤ n && n ≤ 239) || 256 ≤ n

/-- EVC_SRCn_CFG after reset: EN 1; PORCH 1 but for the sources R574 lists; KIND by source; 0 for a reserved source (R559). -/
def srcCfgReset (n : Nat) : Nat :=
  if isReservedSource n then 0
  else 1 + (if n == 0 || n == 1 || n == 69 || n == 129 || n == 130 || n == 133 || n == 135 || n == 215 then 0 else 4)
    + (if isLevelSource n then 0x80000000 else 0)

/-- The reset value that the fields' own reset values give. -/
def fieldsReset : List FSpec → Nat
  | [] => 0
  | f :: t => f.rst * 2 ^ f.lo + fieldsReset t

/-- The reset value of a register: the fields' values, but for the registers whose value depends on the index
(HALL_XBARn and TSK_SLOT_ENGn: 4n + m; TSK_FOSTERn: (8n + q) XOR 1; ENG_STATUS: SLOT and ENGINE by engine; EVC_SRCn_CFG). -/
def resetOf (f : Found) : Word :=
  match f.pl.blk, f.spec.off with
  | .hall, 0x10 => BitVec.ofNat 32 (fieldsReset f.spec.fields + 0x01010101 * (4 * f.i))
  | .tsk, 0x90 => BitVec.ofNat 32 (fieldsReset f.spec.fields + 0x01010101 * (4 * f.i))
  | .tsk, 0xA0 => BitVec.ofNat 32 (fieldsReset f.spec.fields + 0x11111111 * (8 * f.i))
  | .eng, 0x8 => BitVec.ofNat 32 (256 * (if f.pl.u < 16 then f.pl.u else 0x1F) + 65536 * f.pl.u)
  | .evc, 0x400 => BitVec.ofNat 32 (srcCfgReset f.i)
  | _, _ => BitVec.ofNat 32 (fieldsReset f.spec.fields)

/-- What a register reads as while nothing has changed it since reset. -/
def resetValue (a : Nat) : Word :=
  match regAt a with
  | none => 0
  | some f => resetOf f

/-- The bits of the low 32 that a field occupies. -/
def FSpec.mask (f : FSpec) : Nat := (2 ^ f.w - 1) * 2 ^ f.lo

/-- The bank of a landing field (R8, R33). -/
def FSpec.bank (f : FSpec) (i u : Nat) : Option Nat :=
  match f.eff with
  | .landing b d m => some (b + i / d + u * m)
  | _ => none

/-- The bits of the register at `a` that are landing fields of bank `b`. -/
def bankBits (a b : Nat) : Nat :=
  match regAt a with
  | none => 0
  | some f => (f.spec.fields.filter (fun x => x.bank f.i f.pl.u == some b)).foldl (fun n x => n + x.mask) 0

end Sys2Proof.Machine
end

