-- ==== Sys2Proof/Machine/EngState.lean ====
section
/-! DEFINITION. Sys2Proof/Machine/EngState.lean: what a render engine holds besides its registers (R62, R126, R136, R144). -/
namespace Sys2Proof.Machine

/-- One accumulator lane: V80 and the wrap count (R62, R67). -/
structure Acc84 where
  v : BitVec 80
  wc : BitVec 4
  deriving DecidableEq, Repr

/-- A lane of value 0 and wrap count 0. -/
def Acc84.zero : Acc84 := ⟨0, 0⟩

/-- 32 lanes of 32 bits. -/
abbrev VReg := Vector (BitVec 32) 32
/-- 32 accumulator lanes. -/
abbrev AReg := Vector Acc84 32

/-- The architectural registers of a context (R62), MEMERR apart. -/
structure RegFile where
  s : Vector (BitVec 64) 32
  v : Vector VReg 32
  a : Vector AReg 8
  k : Vector (BitVec 32) 8
  c : Vector (BitVec 64) 8
  d : Vector VReg 4
  pc : BitVec 23
  ovf : BitVec 32
  lost : BitVec 32
  wrap : BitVec 32
  deriving DecidableEq, Repr

/-- Every register 0 (R63). -/
def RegFile.zero : RegFile :=
  ⟨.replicate 32 0, .replicate 32 (.replicate 32 0), .replicate 8 (.replicate 32 .zero), .replicate 8 0, .replicate 8 0,
    .replicate 4 (.replicate 32 0), 0, 0, 0, 0⟩

/-- A register element whose parity is wrong: file as ENG_DBG_SEL.FILE, number, lane (R91, R604). -/
structure BadParity where
  file : Nat
  ix : Nat
  lane : Nat
  deriving DecidableEq, Repr

/-- One entry of the stream queue (R78): room offset, far address, length, direction, granules moved, error. -/
structure StreamEntry where
  room : Nat
  far : Nat
  len : Nat
  toFar : Bool
  deriving DecidableEq, Repr

/-- A pair-buffer entry: 16 B of pair data and the tag (R126, R159). -/
structure PairEntry where
  g : BitVec 32
  gs : BitVec 32
  dl : BitVec 32
  ds : BitVec 32
  tag : BitVec 16
  deriving DecidableEq, Repr

/-- A queued load of the pair buffer (R128): its first buffer entry and the entries that it read at issue, in program order (R77). -/
structure PairLoad where
  pb : Nat
  es : List PairEntry
  deriving DecidableEq, Repr

/-- One staged partial: output, sample, the P48 value (R134). -/
structure Staged where
  out : Nat
  smp : Nat
  v : Int
  deriving DecidableEq, Repr

/-- What a context is doing (R85, R93, R142). -/
inductive CtxMode where
  /-- holds no task -/
  | free
  /-- TSK has delivered a task that has not issued yet -/
  | delivered
  | running
  /-- holds a pre-empted task -/
  | parked
  /-- TDONE or WAITWORK has issued and its drains are not finished (R143) -/
  | ending
  /-- a task-class fault was taken: the stream queue drains, then TSK takes the report (R92) -/
  | draining
  /-- stopped by an engine-class fault: TSK takes the report (R93) -/
  | aborted
  deriving DecidableEq, Repr

/-- A register that an instruction reads or writes: file as ENG_DBG_SEL.FILE (0 s, 1 v, 2 a, 3 k, 4 c, 5 d), number, lanes
(bit 0 alone for a register without lanes). -/
structure RegRef where
  file : Nat
  ix : Nat
  lanes : BitVec 32
  deriving DecidableEq, Repr

/-- The bundle of which slot A has executed: the registers and parities before it, the destinations that slot A wrote and the
flags that it set (R109). -/
structure OpenBundle where
  old : RegFile
  bad : List BadParity
  dst : List RegRef
  ovf : BitVec 32
  lost : BitVec 32
  wrap : BitVec 32
  deriving DecidableEq, Repr

/-- One hardware context. -/
structure Ctx where
  r : RegFile
  mode : CtxMode
  memerr : Bool
  memAddr : BitVec 40
  /-- pool index, class, slot, block number, privilege, cycle limit of the task (R63, R84, R90, R127) -/
  task : Nat
  cls : Nat
  slot : Nat
  block : Nat
  /-- objects of the slot that are shed for the task (R233) -/
  shedMask : BitVec 64
  priv : Bool
  limit : Nat
  cycles : Nat
  /-- a task that was parked once (R85) -/
  wasParked : Bool
  accept : BitVec 4
  /-- the accept mask WAITWORK sets when the task ends (R144) -/
  nextAccept : Option (BitVec 4)
  stream : List StreamEntry
  pbuf : Vector PairEntry 256
  pload : List PairLoad
  staged : List Staged
  /-- HSENDs of the task that issued (R172) -/
  sends : Nat
  /-- HSENDs that the hall has still to accept before the task can complete (R143) -/
  hallWait : Nat
  /-- repeats left of the bundle that a REP repeats (R145) -/
  rep : Option Nat
  bundle : Option OpenBundle
  /-- the fabric ID of the far load that the context waits for; the context stalls (R124) -/
  farLoad : Option Nat
  bad : List BadParity
  /-- the code of the fault or abort to be reported to TSK (R92, R93) -/
  fault : Option Nat
  deriving DecidableEq, Repr

/-- A context that holds no task. -/
def Ctx.reset : Ctx :=
  { r := .zero, mode := .free, memerr := false, memAddr := 0, task := 0, cls := 0, slot := 0, block := 0, shedMask := 0, priv := false, limit := 0,
    cycles := 0, wasParked := false, accept := 0, nextAccept := none, stream := [], pbuf := .replicate 256 ⟨0, 0, 0, 0, 0⟩,
    pload := [], staged := [], sends := 0, hallWait := 0, rep := none, bundle := none, farLoad := none, bad := [], fault := none }

/-- An HSEND in the hall input: the context it came from and the partials it stages (R136). -/
structure HallSend where
  ctx : Nat
  vals : List Staged
  deriving DecidableEq, Repr

/-- One engine, besides its registers. -/
structure Eng where
  ctx : Vector Ctx 2
  /-- the context that issues, or issued last (ENG_STATUS.RUNCTX) -/
  run : Fin 2
  hallIn : List HallSend
  /-- HALT was written and the engine has not halted yet (R97) -/
  haltReq : Bool
  /-- armed injection: target, context (R604) -/
  inj : Option (Nat × Nat)
  /-- resident instruction cache lines, by line number; those with bad parity (R82, R83) -/
  icache : List Nat
  icBad : List Nat
  /-- CORE cycles of the period in which a class-0 task ran, and any task; whether a recovery task ran (R223) -/
  busy0 : Nat
  busy : Nat
  recov : Bool
  deriving DecidableEq, Repr

/-- An engine after reset. -/
def Eng.reset : Eng := ⟨.replicate 2 .reset, 0, [], false, none, [], [], 0, 0, false⟩

end Sys2Proof.Machine
end

