-- ==== Sys2Proof/Machine/MediaState.lean ====
section
/-! DEFINITION. Sys2Proof/Machine/MediaState.lean: what TB, MAC, FE, SAP and MIX hold besides their registers and the pantry (R317 to R427). -/
namespace Sys2Proof.Machine

/-! ### Time bases (R350 to R366) -/

/-- A time base: its time in units of 2^-32 ns, the offset to be added at the next tick (2^-16 ns), whether a LOAD acts at it. -/
structure TimeBase where
  t : Nat
  adj : Option Int
  load : Bool
  deriving DecidableEq, Repr

/-- A TIME_OUT pin (R365): whether it is active, the time (1/16 ns) after which its next active edge is sought, the time of the
inactive edge that is due. -/
structure TimeOut where
  on : Bool
  seek : Nat
  off : Option Nat
  deriving DecidableEq, Repr

/-- A capture of a TIME_IN pin (R366): time in 1/16 ns, edge. -/
structure Capture where
  t : Nat
  falling : Bool
  deriving DecidableEq, Repr

structure TbState where
  tb : Vector TimeBase 4
  /-- timestamps queued by port: time in 1/16 ns, TS_SEQ (R362) -/
  tsq : Vector (List (Nat × Nat)) 4
  tout : Vector TimeOut 2
  tin : Vector (List Capture) 2
  deriving DecidableEq, Repr

/-- TB after reset. -/
def TbState.reset : TbState := ⟨.replicate 4 ⟨0, none, false⟩, .replicate 4 [], .replicate 2 ⟨false, 0, none⟩, .replicate 2 []⟩

/-! ### MAC (R317 to R346) -/

/-- Who a transmit frame comes from, and what its completion writes: a frame ring and its descriptor, a PTP slot, a flow and leg, GANG,
the partner port (with the ingress timestamp in 1/16 ns), the port's own pause frames. -/
inductive TxSrc where
  | host (ring idx : Nat) (irq : Bool)
  | ptp (slot : Nat)
  | fe (flow leg : Nat)
  | gang
  | fwd (ingress : Nat)
  | pause
  deriving DecidableEq, Repr

/-- A frame to be sent, without FCS; `stomp` is a forwarded frame that failed a check after its forwarding began (R342). -/
structure TxFrame where
  bytes : List Byte
  src : TxSrc
  tsReq : Bool
  launch : Option (Nat × Nat)
  stomp : Bool
  deriving DecidableEq, Repr

/-- The frame on the wire: queue, frame, TS_SEQ, LATE_SENT, TS_LOST. -/
structure OnWire where
  q : Nat
  f : TxFrame
  seq : Nat
  late : Bool
  lost : Bool
  deriving DecidableEq, Repr

/-- A frame in the host receive buffer: queue, bytes without FCS, FILTER, timestamp in 1/16 ns, MIRROR, VLAN. -/
structure RxFrame where
  q : Nat
  bytes : List Byte
  filter : Nat
  t : Nat
  mirror : Bool
  vlan : Bool
  deriving DecidableEq, Repr

structure MacState where
  /-- the host receive buffer, oldest first (R330) -/
  rx : List RxFrame
  /-- frames waiting, by queue; queue 32 is forwarded traffic (R333, R341) -/
  txq : List (Nat × TxFrame)
  wire : Option OnWire
  /-- the frame that left last -/
  sent : Option (List Byte)
  /-- pause frames that wait (R336) -/
  ctl : List (List Byte)
  /-- classes held by a received PFC frame; all host queues held by a PAUSE (R338) -/
  heldCls : BitVec 8
  heldAll : Bool
  deriving DecidableEq, Repr

/-- A port after reset. -/
def MacState.reset : MacState := ⟨[], [], none, none, [], 0, false⟩

/-! ### Concealment (R384) -/

inductive ConcState where
  | play | hold | ramp | mute | resume
  deriving DecidableEq, Repr

/-- A stream under the policy: its state, render samples in it, the state it resumes from and that state's count, the last samples
output before the gap and the last samples output, by channel. -/
structure Conceal where
  st : ConcState
  n : Nat
  left : ConcState
  leftN : Nat
  c : List Int
  last : List Int
  deriving DecidableEq, Repr

/-- A stream in MUTE. -/
def Conceal.muted : Conceal := ⟨.mute, 0, .mute, 0, [], []⟩
/-- A stream in PLAY. -/
def Conceal.playing : Conceal := ⟨.play, 0, .mute, 0, [], []⟩

/-! ### FE (R371 to R383) -/

/-- A frame that a filter steered to a media, or a Lortis, queue. -/
structure InFrame where
  port : Nat
  bytes : List Byte
  deriving DecidableEq, Repr

/-- A receive flow: packets placed (first sample count, samples), the sequence numbers of the last accepted packets, newest first, the
last SSRC accepted. -/
structure RxFlow where
  placed : List (Nat × Nat)
  seqs : List Nat
  ssrc : Option Nat
  deriving DecidableEq, Repr

/-- A transmit flow: its next packet and that packet's sequence number, and the render sample before which its last packet begins once
it is switched off (R381). -/
structure TxFlow where
  next : Nat
  seq : Nat
  stop : Option Nat
  deriving DecidableEq, Repr

structure FeState where
  inbox : List InFrame
  rxf : List (Nat × RxFlow)
  txf : List (Nat × TxFlow)
  /-- presence of the block to be released, frozen at the freeze point (R375): flow, sample by sample -/
  frozen : List (Nat × List Bool)
  /-- streams under the policy: flows 0 to 511, serial ports 512 + 2p + direction, output slots 528 + k, gang outputs 544 + y -/
  conc : List (Nat × Conceal)
  /-- streams that output a sample in a state other than PLAY since MIX last looked (R420) -/
  mark : List Nat
  deriving DecidableEq, Repr

/-- FE after reset. -/
def FeState.reset : FeState := ⟨[], [], [], [], [], []⟩

/-! ### SAP (R391 to R405) -/

/-- What a port does (R403): it is stopped; sends silent frames at its start; waits for a landing; runs; ramps to zero; sends silent
frames at its end. -/
inductive SapPhase where
  | stopped
  | silent (n : Nat)
  | waiting
  | running
  | ramping
  | ending (n : Nat)
  deriving DecidableEq, Repr

/-- The gain of a direct-path entry: the gain ramped from, the frame of the ramp, 0 to 32 (R405). -/
structure DpRamp where
  g0 : Int
  g1 : Int
  n : Nat
  deriving DecidableEq, Repr

/-- The crossfade of a handover (R541, R543): toward MIX, frames done, frames in all. -/
structure Fade where
  toMix : Bool
  i : Nat
  n : Nat
  deriving DecidableEq, Repr

/-- A serial port. A frame is 64 words: line 0 slots 0 to 31, line 1 slots 0 to 31. -/
structure SapState where
  phase : SapPhase
  /-- frames of the receive half being filled, the full half that waits, and the half that MIX takes, fixed at the freeze point -/
  rxCur : List (List Int)
  rxHalf : Option (List (List Int))
  rxLatch : Option (List (List Int))
  /-- frames of the transmit half that are left, and the half that waits -/
  txCur : List (List Int)
  txHalf : Option (List (List Int))
  dp : Vector DpRamp 8
  /-- transmit slots newly enabled, driving 0 until data: bit 32 l + s (R401) -/
  newTx : Nat
  /-- the words of the last frame received, and driven, as A32; the slots driven -/
  rxPrev : List Int
  out : List Int
  driven : Nat
  /-- PE's transmit words (R527), for SAP0 and SAP1 -/
  pe : List Int
  fade : Option Fade
  deriving DecidableEq, Repr

/-- A port after reset. -/
def SapState.reset : SapState := ⟨.stopped, [], none, none, [], none, .replicate 8 ⟨0, 0, 32⟩, 0, [], [], 0, [], none⟩

/-! ### MIX (R407 to R423) -/

/-- A meter point (R418): SPK, TPK, the sums of squares of the last periods, HOLD and the samples since it rose. -/
structure Meter where
  spk : Nat
  tpk : Nat
  rms : List Nat
  hold : Nat
  age : Nat
  deriving DecidableEq, Repr

/-- A gain stage (R416): current code, last input sample, samples since the last step or the landing of its target. -/
structure GainStage where
  code : Int
  last : Int
  timer : Nat
  deriving DecidableEq, Repr

/-- A capture stream (R419, R420): SEQ, samples collected (sample after sample, channel after channel), period of the first, CONC. -/
structure CapState where
  seq : Nat
  data : List Int
  first : Nat
  conc : Bool
  deriving DecidableEq, Repr

structure MixState where
  gains : List (Nat × GainStage)
  meters : List (Nat × Meter)
  /-- slots marked complete: slot, block's low 16 bits (R414) -/
  marks : List (Nat × Nat)
  /-- the sample count at which each generator restarted (R422) -/
  tg : List (Nat × Nat)
  cap : Vector CapState 4
  /-- capture blocks handed to HIF: stream, block, PERIOD, whether it is dropped -/
  capOut : List (Nat × List Byte × Nat)
  /-- transmit channel samples of the latest periods: period, channel, samples (R380) -/
  tx : List (Nat × Nat × List Int)
  /-- input-side blocks of the delay line in which a stream was not in PLAY: block, streams (R420) -/
  dirty : List (Nat × List Nat)
  deriving DecidableEq, Repr

/-- MIX after reset. -/
def MixState.reset : MixState := ⟨[], [], [], [], .replicate 4 ⟨0, [], 0, false⟩, [], [], []⟩

/-! ### The output chain (R197 to R203) -/

/-- A set slot that FILTER_PREPARE has loaded: its head taps, LEVELS, FSHIFT and the exponents of its partitions (R198, R200). -/
structure Prepared where
  head : List Byte
  levels : Nat
  shift : Nat
  exps : List Byte
  deriving DecidableEq, Repr

structure OchState where
  /-- what the phase-B library has loaded, by output × 2 + set slot -/
  prepared : List (Nat × Prepared)
  /-- outputs whose FSEL changed: the period at which the hold time of the old set slot ends (R203) -/
  hold : List (Nat × Nat)
  deriving DecidableEq, Repr

/-- The output chain after reset. -/
def OchState.reset : OchState := ⟨[], []⟩

end Sys2Proof.Machine
end

