-- ==== Sys2Proof/Machine/RingState.lean ====
section
/-! DEFINITION. Sys2Proof/Machine/RingState.lean: what HIF, XLT, EVC, ECC and the fabric hold besides their registers. -/
namespace Sys2Proof.Machine

/-- What a suspended access was doing (R302, R303). -/
inductive AccKind where
  | fetch | data | record
  deriving DecidableEq, Repr

/-- A suspended access: its kind, its context, the faulting address, whether it writes (R302). -/
structure Susp where
  kind : AccKind
  ctx : Nat
  iova : Nat
  write : Bool
  deriving DecidableEq, Repr

/-- An accepted command that is not retired (R284, R289). Its descriptor and payload lie in the journal from unit `unit` on,
`n` units of 64 B, and one unit of state after them (R285). -/
structure JEntry where
  asn : Nat
  unit : Nat
  n : Nat
  /-- granules moved, or 1 once an invalidation was started (R288, R293) -/
  prog : Nat
  /-- of each command and bulk ring, its LAST_ACCEPTED and its ASN restarts at acceptance, for BARRIER and FENCE (R278, R307) -/
  seen : List (Nat × Nat)
  /-- HOST_TAG and FLAGS.IRQ of the descriptor -/
  tag : Nat
  irq : Bool
  /-- complete: the state unit holds the completion record (R288) -/
  done : Bool
  /-- the completion ring and the device index of its record in it, once posted -/
  posted : Option (Nat × Nat)
  /-- the period that a WAIT_PERIOD in progress waits for (R278) -/
  till : Option Nat
  deriving DecidableEq, Repr

/-- A record that a device-produced ring has posted and the host index has not passed (R269), and the command it completes:
its ring and journal unit. -/
structure Posted where
  idx : Nat
  bytes : List Byte
  own : Option (Nat × Nat)
  deriving DecidableEq, Repr

/-- One ring (R265), besides its registers. -/
structure Ring where
  /-- entries fetched and not accepted (R284) -/
  fetched : List (List Byte)
  /-- accepted commands not retired, oldest first -/
  jrnl : List JEntry
  /-- next journal unit, running free -/
  jw : Nat
  /-- restarts of the ASN counter; of a frame transmit ring, its starts -/
  restarts : Nat
  /-- records posted and not consumed (device-produced rings) -/
  posted : List Posted
  /-- records to be written before any other, and the commands they complete (R274, R303) -/
  repost : List (List Byte × Option (Nat × Nat))
  susp : Option Susp
  /-- the MOD interval runs (R271) -/
  modRun : Bool
  /-- a record or write-back awaits its interrupt (R271) -/
  irqDue : Bool
  /-- blocks dropped before the next one (R295) -/
  gap : Nat
  /-- records written since the ring was enabled (R298) -/
  seq : Nat
  deriving DecidableEq, Repr

/-- A ring after reset. -/
def Ring.reset : Ring := ⟨[], [], 0, 0, [], [], none, false, false, 0, 0⟩

/-- A record for the event ring or the porch copy, by the fields of R298. -/
structure EvRec where
  src : Nat
  typ : Nat
  b11 : Nat
  detail : Nat
  period : Nat
  n : Nat
  deriving DecidableEq, Repr

/-- EVC, besides its registers (R561 to R566). -/
structure EvcState where
  /-- ring records formed and not yet handed to the ring in this step -/
  queue : List EvRec
  /-- the waiting records (R564) -/
  waits : List EvRec
  /-- occurrences merged since the previous OVERFLOW record (R565) -/
  merged : Nat
  /-- an occurrence has waited since the ring last had a free slot (R560, source 250) -/
  full : Bool
  /-- counter wraps of which source 251 is still to pulse in this step (R570) -/
  wraps : Nat
  deriving DecidableEq, Repr

/-- One entry of the porch copy of the events: SEQ, the record, and whether it was read (R554). -/
structure PorchRec where
  seq : Nat
  ev : EvRec
  unread : Bool
  deriving DecidableEq, Repr

/-- A cached translation: context, 4 KiB page of the IOVA, the page it maps to, whether writes are allowed (R300). -/
structure XltEntry where
  ctx : Nat
  page : Nat
  frame : Nat
  w : Bool
  deriving DecidableEq, Repr

/-- An invalidation in progress: a context or all, first page and number of pages, 0 for the whole context (R300), and the
ring whose XLT_INVAL command asked for it (R278). -/
structure XltInv where
  ctx : Option Nat
  page : Nat
  pages : Nat
  ring : Option Nat
  deriving DecidableEq, Repr

/-- XLT, besides its registers. -/
structure XltState where
  cache : List XltEntry
  /-- invalidations in progress, oldest first -/
  inv : List XltInv
  deriving DecidableEq, Repr

/-- An entry of an ECC log (R448). -/
structure EccLog where
  addr : Nat
  typ : Nat
  bit : Nat
  req : Nat
  region : Nat
  row : Nat
  deriving DecidableEq, Repr

/-- A row and its CE count in a bank's table (R444). -/
structure RowCnt where
  bank : Nat
  row : Nat
  n : Nat
  deriving DecidableEq, Repr

/-- The ECC machinery, besides its registers: bits that differ from the stored word's code, poison tags, pending
write-backs, row tables, rows being spared and waiting to be, redirected rows, the running fill, the log, the scrub position. -/
structure EccState where
  /-- word address and the mask of its wrong bits among 72 (R430) -/
  flips : List (Nat × Nat)
  /-- word address and its poison tag, not 0 (R430) -/
  tags : List (Nat × Nat)
  /-- words with a CE write-back pending (R431) -/
  ceWb : List Nat
  /-- rows counted, oldest first (R444) -/
  rows : List RowCnt
  /-- rows to be copied, the first of a bank being copied (R445) -/
  sparing : List (Nat × Nat)
  /-- rows redirected to a spare (R445) -/
  spared : List (Nat × Nat)
  /-- the running fill: first address and length (R435) -/
  fill : Option (Nat × Nat)
  log : List EccLog
  /-- the address of the line after the one the scrubber read last, and the tick its pass began (R440) -/
  scrub : Nat
  since : Nat
  /-- the offset of the next line the porch's scrubber reads (R450) -/
  pscrub : Nat
  deriving DecidableEq, Repr

/-- Why a transaction is outstanding: what its response completes (R494). -/
inductive XactFor where
  /-- nothing waits inside the device: a master the model does not hold -/
  | outside
  /-- an engine's far load into scalar register `reg` (R125) -/
  | farLoad (eng ctx reg : Nat) (sgn : Bool)
  /-- an engine's posted far store (R125) -/
  | farStore (eng ctx : Nat)
  deriving DecidableEq, Repr

/-- The response codes (R491). -/
inductive RCode where
  | okay | error | decode | timeout
  deriving DecidableEq, Repr

/-- A transaction that has not had its response (R491, R493). `ans` is the response that waits to return, once served; `stale` marks
its ID as discard-pending (R502). -/
structure Xact where
  master : Nat
  id : Nat
  target : Nat
  addr : Nat
  write : Bool
  len : Nat
  what : XactFor
  ans : Option (RCode × List Byte)
  stale : Bool
  deriving DecidableEq, Repr

/-- A request that a master has issued (R491): master, ID, address, the number of bytes of a read, the bytes of a write by offset and the
offsets whose words carry a poison flag, CLASS, PRIV, page hint, and what its response completes. -/
structure FabReq where
  master : Nat
  id : Nat
  addr : Nat
  write : Bool
  n : Nat
  cells : List (Nat × Byte)
  flags : List Nat
  cls : Nat
  priv : Bool
  close : Bool
  what : XactFor
  deriving DecidableEq, Repr

/-- The fabric, besides its registers: transactions outstanding, oldest first, and requests that their converters hold (R493, R503). -/
structure FabState where
  outs : List Xact
  held : List FabReq
  deriving DecidableEq, Repr

end Sys2Proof.Machine
end

