-- ==== Sys2Proof/Machine/SysState.lean ====
section
/-! DEFINITION. Sys2Proof/Machine/SysState.lean: what the DRAM controller, the clocks and resets, and the porch hold besides their registers (R454 to R485, R507 to R514, R522 to R555). -/
namespace Sys2Proof.Machine

/-! ### DRAM controller -/

/-- A request at a DRAM channel (R462 to R465): master and fabric ID, class, direction, first byte's key and the number of bytes of a
read, the bytes of a write by key, the keys whose words carry a poison flag, the CLOSE hint, the tick of its arrival. -/
structure DramReq where
  master : Nat
  id : Nat
  cls : Nat
  write : Bool
  key : Nat
  n : Nat
  cells : List (Nat × Byte)
  flags : List Nat
  close : Bool
  since : Nat
  deriving DecidableEq, Repr

/-- One rank: postponed refresh units, refresh step, whether it is in power-down (R466, R467, R484). -/
structure Rank where
  debt : Nat
  step : Nat
  down : Bool
  deriving DecidableEq, Repr

/-- A training slot: the tick at which the channel stopped taking requests, and the delay registers saved (R473). -/
structure TrainSlot where
  since : Nat
  saved : List (Nat × Word)
  deriving DecidableEq, Repr

/-- One DRAM channel, besides its registers. -/
structure DmcChan where
  /-- requests taken, oldest first, and requests that wait in the fabric (R463, R473) -/
  queue : List DramReq
  wait : List DramReq
  /-- a drain of the write queue runs (R463) -/
  drain : Bool
  /-- open rows: rank × 16 + bank group × 4 + bank, row (R461, R464) -/
  rows : List (Nat × Nat)
  rank : Vector Rank 2
  /-- the power-up that INIT started, with KEEP (R480, R481) -/
  power : Option Bool
  /-- the DRAM was in self-refresh when the channel went to OFF (R481, R512) -/
  kept : Bool
  slot : Option TrainSlot
  /-- the next line of the patrol scrub, by channel offset (R483) -/
  patrol : Nat
  deriving DecidableEq, Repr

/-- A channel after reset; `kept` as given. -/
def DmcChan.resetWith (kept : Bool) : DmcChan :=
  { queue := [], wait := [], drain := false, rows := [], rank := .replicate 2 ⟨0, 0, false⟩, power := none, kept := kept,
    slot := none, patrol := 0 }

structure DmcState where
  chan : Vector DmcChan 8
  /-- the tick at which the last training slot of any channel ended (R473) -/
  slotEnd : Option Nat
  deriving DecidableEq, Repr

/-- The controllers after reset. -/
def DmcState.reset : DmcState := ⟨.replicate 8 (.resetWith false), none⟩

/-! ### The porch -/

/-- An input or output of the safe mix: port, line, slot (R535). -/
structure SafeSlot where
  port : Nat
  line : Nat
  slot : Nat
  deriving DecidableEq, Repr

/-- A gain term of the safe mix (R529). -/
structure SafeTerm where
  inp : Nat
  out : Nat
  gain : Int
  deriving DecidableEq, Repr

/-- The tables of a safe-mix block (R535). -/
structure SafeMix where
  clock : Nat
  ports : Nat
  cfg : List Nat
  clk : List Nat
  start : Nat
  ins : List SafeSlot
  outs : List SafeSlot
  delays : List Nat
  terms : List SafeTerm
  firs : List (List Int)
  deriving DecidableEq, Repr

/-- A flash operation in progress (R557): OP, flash address, length, pantry address. -/
structure FlashOp where
  op : Nat
  addr : Nat
  len : Nat
  mem : Nat
  deriving DecidableEq, Repr

/-- Why a restart of PE is due (R532, R537, R554). -/
inductive PeHold where
  /-- PE is not to restart -/
  | none
  /-- the loader is reloading after a fault (R532) -/
  | reload
  /-- RESET_MASTER holds PE (R554) -/
  | held
  deriving DecidableEq, Repr

structure PchState where
  /-- the porch is out of reset (R523) -/
  up : Bool
  /-- pins: CHIP_PG, WAKE_OUT, PCIE_PERST_N -/
  chipPg : Bool
  wakeOut : Bool
  perstN : Bool
  /-- the flash device, of which an unlisted byte reads 0xFF, and the OTP words, of which an unlisted one reads 0 -/
  flash : List (Nat × Byte)
  otp : List (Nat × Word)
  flOp : Option FlashOp
  /-- the safe mix in force -/
  safe : Option SafeMix
  /-- frames of the safe clock (FRAME of R527) -/
  frame : Nat
  /-- outputs computed and not yet due: they go to the transmit words with the next frame (R529) -/
  pipe : List Int
  /-- per output, the mixed samples, newest first, as far back as its delay and FIR reach (R529) -/
  lines : List (List Int)
  pe : PeHold
  /-- ticks of PE's latest faults (R532) -/
  faults : List Nat
  /-- PE's registers (R149): s0 to s31 and a0 lane 0, the bundle address, and the repeats that REP has left -/
  regs : RegFile
  rep : Option Nat
  /-- the tick at which each watchdog channel's count restarted (R545) -/
  wd : Vector Nat 2
  /-- the sensors whose last sample was at or above 115 °C (R548) -/
  hot : Nat
  /-- event 233 and event 218 are due when the chip domain leaves reset (R512, R551) -/
  wakeDue : Bool
  warmDue : Bool
  deriving DecidableEq, Repr

/-- The porch in cold reset, with the flash device and the OTP as given and the pins CHIP_PG and PCIE_PERST_N. -/
def PchState.cold (flash : List (Nat × Byte)) (otp : List (Nat × Word)) (chipPg perstN : Bool) : PchState :=
  { up := false, chipPg := chipPg, wakeOut := false, perstN := perstN, flash := flash, otp := otp, flOp := none, safe := none,
    frame := 0, pipe := [], lines := [], pe := .none, faults := [], regs := .zero, rep := none, wd := .replicate 2 0, hot := 0,
    wakeDue := false, warmDue := false }

/-! ### Clocks and resets -/

structure ClkState where
  /-- the running measurement: MEAS_SEL and MEAS_IDX (R510) -/
  meas : Option (Nat × Nat)
  /-- masters held in reset through the porch link (R554) -/
  link : List Nat
  /-- supervisor cores that the watchdog holds in reset (R546) -/
  wdHeld : List Nat
  deriving DecidableEq, Repr

/-- Clocks and resets after reset. -/
def ClkState.reset : ClkState := ⟨none, [], []⟩

end Sys2Proof.Machine
end

