-- ==== Sys2Proof/Machine/TskState.lean ====
section
/-! DEFINITION. Sys2Proof/Machine/TskState.lean: what TSK, the hall and GANG hold besides their registers and the pantry (R213 to R222, R227, R170 to R174, R240 to R255). -/
namespace Sys2Proof.Machine

/-- A released task (R213, R219): pool index, class, AFFINITY, KIND, LEVEL and LOG of its descriptor, the number of the template
that covers it and its PHASE, block number, the shed step active at its release and each slot's mask of shed objects (R233), the
slot that it must run for after a retry or a takeover (R226, R227), whether it was retried, the FABRIC tick since which it is
ready. -/
structure TaskInst where
  ix : Nat
  cls : Nat
  aff : Nat
  log : Bool
  tmpl : Option Nat
  phase : Nat
  block : Nat
  step : Nat
  masks : List (Nat × Nat)
  only : Option Nat
  retried : Bool
  since : Nat
  deriving DecidableEq, Repr

/-- What a delivered task is: one of a graph, or a recovery task (R227). -/
inductive RunKind where
  | graph | taskA | taskB
  deriving DecidableEq, Repr

/-- A task that an engine context holds, with the slot it runs for. -/
structure RunTask where
  eng : Nat
  ctx : Nat
  slot : Nat
  inst : TaskInst
  kind : RunKind
  deriving DecidableEq, Repr

/-- A completion that TSK has still to handle (R213, R224): status, fault code, OVF, LOST and MEMERR bits, engine (0x1F for none), slot. -/
structure DoneTask where
  inst : TaskInst
  status : Nat
  code : Nat
  flags : Nat
  eng : Nat
  slot : Nat
  kind : RunKind
  deriving DecidableEq, Repr

/-- The current instance of a template (R218 to R222): first pool index and members, block, the period and the FABRIC tick of its
release, its deadline landing, members not completed, members released since the re-arm, whether it was late. -/
structure TmplInst where
  tmpl : Nat
  base : Nat
  count : Nat
  block : Nat
  rel : Nat
  relTick : Nat
  dl : Option Nat
  pend : List Nat
  released : List Nat
  late : Bool
  deriving DecidableEq, Repr

/-- The stages of a takeover (R227): TASK_A waits for delivery, runs, has completed with OK; the same for TASK_B. -/
inductive TkStage where
  | aQueued | aRunning | aDone | bQueued | bRunning | bDone
  deriving DecidableEq, Repr

/-- A takeover in progress: its slot, the failed engine, the spare, its stage, the FABRIC tick of the fault report, the interrupted
tasks that wait for re-dispatch. -/
structure Takeover where
  slot : Nat
  failed : Nat
  spare : Nat
  stage : TkStage
  start : Nat
  tasks : List TaskInst
  deriving DecidableEq, Repr

/-- TSK, besides its registers and the pool. -/
structure TskState where
  /-- the ready lists, head first (R214) -/
  ready : Vector (List TaskInst) 4
  running : List RunTask
  done : List DoneTask
  insts : List TmplInst
  /-- takeovers in progress, oldest first -/
  take : List Takeover
  /-- the step that UNSHED asked for (R234) -/
  unshed : Option Nat
  /-- the crossbar entries that TSK has still to write: slot, engine (R229) -/
  xbar : List (Nat × Nat)
  /-- orphaned slots, and the engine whose fault orphaned each -/
  orphans : List (Nat × Nat)
  /-- a slot was orphaned since the last landing (R232) -/
  fresh : Bool
  /-- a class-0 task was late since the last landing (R232) -/
  late0 : Bool
  /-- blocks that the hall completed since the previous landing (R218) -/
  blocks : List Nat
  deriving DecidableEq, Repr

/-- TSK after reset. -/
def TskState.reset : TskState := ⟨.replicate 4 [], [], [], [], [], none, [], [], false, false, []⟩

/-- A block in the hall (R170, R171): commits by slot, and the sums by output × 64 + sample. -/
structure HallBlock where
  b : Nat
  commits : List (Nat × Nat)
  sums : List (Nat × Int)
  deriving DecidableEq, Repr

/-- The hall, besides its registers. -/
structure HallState where
  /-- blocks that are not complete, oldest first -/
  blocks : List HallBlock
  /-- blocks completed lately, which take no more commits (R171, R174) -/
  closed : List Nat
  /-- orphaned slots that count as complete since a landing (R231) -/
  orphans : List Nat
  deriving DecidableEq, Repr

/-- The hall after reset. -/
def HallState.reset : HallState := ⟨[], [], []⟩

/-- An accepted PARTIAL or DIGEST segment (R250, R254): sender, segment number, segments of the sender, first output, outputs, the
values by output × 64 + sample (PARTIAL) or the digests by output (DIGEST), its FLAGS. -/
structure GangSeg where
  sender : Nat
  seg : Nat
  total : Nat
  first : Nat
  count : Nat
  vals : List (Nat × Int)
  flags : Nat
  deriving DecidableEq, Repr

/-- A block of the exchange that is not released (R244, R245): the device sum once the hall has it and whether it is PARTIAL, the
segments accepted, whether its own frames were sent. -/
structure GangBlock where
  b : Nat
  sums : Option (List (Nat × Int))
  part : Bool
  segs : List GangSeg
  sent : Bool
  deriving DecidableEq, Repr

/-- The digests of a block in MIRROR mode (R253, R254): its own by output and its FLAGS, the twin's segments. -/
structure DigestBlock where
  b : Nat
  own : Option (List Nat)
  flags : Nat
  segs : List GangSeg
  deriving DecidableEq, Repr

/-- GANG, besides its registers. -/
structure GangState where
  /-- blocks in exchange, oldest first -/
  blocks : List GangBlock
  digests : List DigestBlock
  /-- consecutive blocks without a segment, by member (R252) -/
  silent : List (Nat × Nat)
  /-- blocks released lately, newest last: later segments of them are late (R249) -/
  released : List Nat
  deriving DecidableEq, Repr

/-- GANG after reset. -/
def GangState.reset : GangState := ⟨[], [], [], []⟩

end Sys2Proof.Machine
end

