-- ==== Sys2Proof/Machine/Dev.lean ====
section
/-! DEFINITION. Sys2Proof/Machine/Dev.lean: the device: every register and everything else the spec gives the block, the queue of waiting commands apart. -/
namespace Sys2Proof.Machine

/-- What the last access from outside got back (R5, R7, R491, R496). -/
inductive Resp where
  | none
  | okay (data : Nat)
  | error
  | decode
  | timeout
  /-- PCIe: Completer Abort, Unsupported Request, poisoned TLP (R263, R264) -/
  | abort
  | unsupported
  | poisoned
  /-- SMBus: bytes returned, or the transaction not acknowledged -/
  | bytes (l : List Byte)
  | nack
  deriving DecidableEq, Repr

/-- What LND fixed at a freeze point (R38, R30): due banks, those their owners refused, the period that the landing begins,
and the sample count when a resync loads the counters. -/
structure Frozen where
  due : Nat
  refused : Nat
  period : Nat
  resync : Option Nat
  /-- RUN was 0: the landing does not occur and LND stops (R602) -/
  stop : Bool
  deriving DecidableEq, Repr

/-- LND, besides its registers. -/
structure LndState where
  /-- the counters run (R29, R602) -/
  counting : Bool
  frozen : Option Frozen
  /-- the phase of MEDIA as a time of the time base's scale, in 2^-32 ns (R28, R31) -/
  media : Nat
  /-- the media PLL follows the selected time base (R603); otherwise MEDIA holds this increment per FABRIC tick (R31) -/
  track : Bool
  rate : Nat
  deriving DecidableEq, Repr

/-- The device. -/
structure Dev where
  /-- registers whose value differs from reset, by register-space offset: the shadow copy of landing fields -/
  regs : List (Nat × Word)
  /-- active copies of landing fields (R32), and those of the previous period and the one before (R160, R207, R241) -/
  act : List (Nat × Word)
  act1 : List (Nat × Word)
  act2 : List (Nat × Word)
  /-- latched and buffered high halves, by the address of the low half (R5) -/
  latch : List (Nat × Word)
  hbuf : List (Nat × Word)
  /-- internal memory: boot ROM, porch SRAM, pantry, rooms, DRAM, by internal physical address -/
  mem : List (Nat × Byte)
  /-- host memory, and the 64 B lines of it that answer with an error or a poisoned TLP -/
  host : List (Nat × Byte)
  hostBad : List Nat
  /-- MSI-X messages sent: address, data -/
  msix : List (Nat × Word)
  resp : Resp
  /-- the next free value (Config.free) -/
  fresh : Nat
  /-- model time in FABRIC ticks (R506): what only durations are taken from -/
  now : Nat
  lnd : LndState
  eng : Vector Eng 17
  ring : Vector Ring 41
  /-- the porch's copy of LAST_ACCEPTED and LAST_COMPLETED of every ring (R288) -/
  asnCopy : Vector (Nat × Nat) 41
  evc : EvcState
  /-- the porch copy of the events, newest last, and its SEQ (R554) -/
  porch : List PorchRec
  porchSeq : Nat
  xlt : XltState
  ecc : EccState
  fab : FabState
  tsk : TskState
  hall : HallState
  gang : GangState
  tbs : TbState
  mac : Vector MacState 4
  fe : FeState
  /-- Lortis frames that wait for GANG -/
  lortis : List InFrame
  sap : Vector SapState 8
  mix : MixState
  och : OchState
  dmc : DmcState
  pch : PchState
  clk : ClkState
  deriving DecidableEq, Repr

end Sys2Proof.Machine
end

