-- ==== Sys2Proof/Machine/Ops.lean ====
section
/-! DEFINITION. Sys2Proof/Machine/Ops.lean: reading and writing registers, memory and vectors; events and counters. -/
namespace Sys2Proof.Machine

/-! ### Vectors -/

/-- Element `i`, or the first where `i` is out of range. -/
def vat {α : Type} {n : Nat} (v : Vector α (n + 1)) (i : Nat) : α := if h : i < n + 1 then v[i] else v[0]

/-- The vector with element `i` replaced; unchanged where `i` is out of range. -/
def vput {α : Type} {n : Nat} (v : Vector α n) (i : Nat) (x : α) : Vector α n := if h : i < n then v.set i x h else v

namespace Dev

/-! ### Registers -/

/-- The word a register holds (for landing fields, the shadow copy). -/
def reg (d : Dev) (a : Nat) : Word := sget resetValue d.regs a

/-- Replace the word a register holds. -/
def setReg (d : Dev) (a : Nat) (v : Word) : Dev := { d with regs := sset resetValue d.regs a v }

/-- A field of a register. -/
def get (d : Dev) (f : Fld) : Nat := bitsOf (d.reg f.a).toNat f.lo f.w

/-- Replace a field of a register. -/
def set (d : Dev) (f : Fld) (x : Nat) : Dev :=
  d.setReg f.a (BitVec.ofNat 32 (withBits (d.reg f.a).toNat f.lo f.w x))

/-- Whether a one-bit field is 1. -/
def on (d : Dev) (f : Fld) : Bool := d.get f != 0

/-- A 64-bit value, by the address of its low half (R5). -/
def get64 (d : Dev) (a : Nat) : Nat := (d.reg a).toNat + 2 ^ 32 * (d.reg (a + 4)).toNat

/-- Replace a 64-bit value. -/
def set64 (d : Dev) (a : Nat) (v : Nat) : Dev :=
  (d.setReg a (BitVec.ofNat 32 v)).setReg (a + 4) (BitVec.ofNat 32 (v / 2 ^ 32))

/-- The active copy of a landing field (R32). -/
def aget (d : Dev) (f : Fld) : Nat := bitsOf (sget resetValue d.act f.a).toNat f.lo f.w

/-- The active copy of a 64-bit value. -/
def aget64 (d : Dev) (a : Nat) : Nat :=
  (sget resetValue d.act a).toNat + 2 ^ 32 * (sget resetValue d.act (a + 4)).toNat

/-- The active copy of the previous period. -/
def aget1 (d : Dev) (f : Fld) : Nat := bitsOf (sget resetValue d.act1 f.a).toNat f.lo f.w

/-- The active copy of the period before the previous one. -/
def aget2 (d : Dev) (f : Fld) : Nat := bitsOf (sget resetValue d.act2 f.a).toNat f.lo f.w

/-- Add to a 32-bit count, which saturates (R601). -/
def bumpBy (d : Dev) (a n : Nat) : Dev :=
  if n = 0 then d else d.setReg a (BitVec.ofNat 32 (min ((d.reg a).toNat + n) 0xFFFFFFFF))

/-- Add 1 to a 32-bit count, which saturates (R601). -/
def bump (d : Dev) (a : Nat) : Dev := d.bumpBy a 1

/-! ### Raw memory -/

/-- What a byte of internal memory that nothing has written reads as: porch SRAM, which the porch fills itself, a free value; the rest 0
(DESIGN CHOICE). -/
def unwritten (a : Nat) : Byte := if 0x01000000 ≤ a ∧ a < 0x01080000 then Config.porchSram a else 0

/-- What a byte of host memory that the host has not written reads as (DESIGN CHOICE). -/
def hostUnwritten : Nat → Byte := fun _ => 0

/-- One byte of internal memory. -/
def byteAt (d : Dev) (a : Nat) : Byte := sget unwritten d.mem a

/-- Replace one byte of internal memory. -/
def setByte (d : Dev) (a : Nat) (b : Byte) : Dev := { d with mem := sset unwritten d.mem a b }

/-- `n` bytes of internal memory from `a`. -/
def bytesAt (d : Dev) (a n : Nat) : List Byte := (List.range n).map (fun i => d.byteAt (a + i))

/-- Write bytes to internal memory from `a`. -/
def setBytes : Dev → Nat → List Byte → Dev
  | d, _, [] => d
  | d, a, b :: t => setBytes (d.setByte a b) (a + 1) t

/-- `n` bytes of host memory from `a`. -/
def hostAt (d : Dev) (a n : Nat) : List Byte := (List.range n).map (fun i => sget hostUnwritten d.host (a + i))

/-- Write bytes to host memory from `a`. -/
def setHost : Dev → Nat → List Byte → Dev
  | d, _, [] => d
  | d, a, b :: t => setHost { d with host := sset hostUnwritten d.host a b } (a + 1) t

/-- The chip domain runs: PCH_STATUS.CHIP is 1, boot ROM, or 2, firmware. -/
def chipOn (d : Dev) : Bool := d.get PCH_STATUS.CHIP == 1 || d.get PCH_STATUS.CHIP == 2

/-! ### Free values -/

/-- Take a free value: nothing constrains it, and the next one is another. -/
def takeFree (d : Dev) : Nat × Dev := (Config.free d.fresh, { d with fresh := d.fresh + 1 })

/-! ### Performance counters (R568 to R571) -/

/-- Count `w` on event signal `n`: `w` in level mode, 1 in edge mode when `w` is not 0 (R569). The count wraps at 2^48: the wrap
sets the counter's WRAP bit, and source 251 pulses at the end of the step (R570). -/
def pmc (d : Dev) (n w : Nat) : Dev :=
  if w = 0 then d
  else
    let c : Nat := d.get64 (Adr.PMC_CNT_LO n) + (if bitOf (d.reg (Adr.PMC_MODE (n / 32))).toNat (n % 32) then w else 1)
    let d := d.set64 (Adr.PMC_CNT_LO n) (c % 2 ^ 48)
    if 2 ^ 48 ≤ c then
      let d := d.setReg (Adr.PMC_WRAP (n / 32)) (d.reg (Adr.PMC_WRAP (n / 32)) ||| BitVec.ofNat 32 (2 ^ (n % 32)))
      let d := d.set PMC_STATUS.WRAP 1
      { d with evc := { d.evc with wraps := d.evc.wraps + 1 } }
    else d

/-! ### Events (R561, R562) -/

/-- Send an MSI-X message, or set the vector's pending bit while it is masked or the link is down (R562, R567). -/
def msixSend (d : Dev) (v : Nat) : Dev :=
  if bitOf (d.reg (Adr.HIF_MSIX_CTRL v)).toNat 0 || !d.on HIF_STATUS.LINK_UP then
    d.setReg (Adr.HIF_MSIX_PBA (v / 32)) (d.reg (Adr.HIF_MSIX_PBA (v / 32)) ||| BitVec.ofNat 32 (2 ^ (v % 32)))
  else
    let d := d.pmc (16 * 19 + 5) 1
    { d with msix := d.msix ++ [((d.reg (Adr.HIF_MSIX_ADDR_LO v)).toNat + 2 ^ 32 * (d.reg (Adr.HIF_MSIX_ADDR_HI v)).toNat,
        d.reg (Adr.HIF_MSIX_DATA v))] }

/-- PERIOD of a record (R563). -/
def recPeriod (d : Dev) : Nat := if d.on LND_STATUS.RUNNING then d.get64 Adr.LND_PERIOD_LO else 0

/-- Keep a record in the porch copy (R554, R564). -/
def porchPut (d : Dev) (r : EvRec) : Dev :=
  { d with
    porch := d.porch ++ [({ seq := d.porchSeq + 1, ev := r, unread := true } : PorchRec)]
    porchSeq := d.porchSeq + 1 }

/-- The porch copy keeps the 64 newest records and drops the oldest (R554, R564). -/
def porchTrim (d : Dev) : Dev := { d with porch := d.porch.drop (d.porch.length - 64) }

/-- One occurrence of source `n`: `b11` is 1 for a level assertion (R298), `detail` the source's DETAIL (R561, R562). `ring` is
false where the step itself forms the ring's record. While the chip domain is off or in reset, EVC forms nothing. -/
def occurBy (d : Dev) (ring : Bool) (n b11 detail : Nat) : Dev :=
  if isReservedSource n || !d.chipOn || !bitOf (d.reg (Adr.EVC_SRC_CFG n)).toNat 0 then d
  else
    let cfg := (d.reg (Adr.EVC_SRC_CFG n)).toNat
    let was := bitOf (d.reg (Adr.EVC_PEND (n / 32))).toNat (n % 32)
    let r : EvRec := ⟨n, 0, b11, detail % 2 ^ 32, d.recPeriod, 1⟩
    let d := d.setReg (Adr.EVC_PEND (n / 32)) (d.reg (Adr.EVC_PEND (n / 32)) ||| BitVec.ofNat 32 (2 ^ (n % 32)))
    let d := if bitOf cfg 3 && !was then d.msixSend (bitsOf cfg 8 6) else d
    let d : Dev := if ring && bitOf cfg 1 && n != 250 && d.get (HIF_RING_STATUS.STATE 20) != 0 then
        { d with evc := { d.evc with queue := d.evc.queue ++ [r] } } else d
    if bitOf cfg 2 then d.porchPut r else d

/-- One occurrence of source `n`, on every route. -/
def occur (d : Dev) (n b11 detail : Nat) : Dev := d.occurBy true n b11 detail

/-- One occurrence of source `n` whose ring record the step forms itself (R302). -/
def occurOff (d : Dev) (n b11 detail : Nat) : Dev := d.occurBy false n b11 detail

/-- A pulse of source `n` with DETAIL. -/
def raise (d : Dev) (n : Nat) (detail : Nat := 0) : Dev := d.occur n 0 detail

/-- The state of level source `n`; a change of state is an occurrence (R561). EVC takes the states anew as the chip domain leaves reset. -/
def level (d : Dev) (n : Nat) (b : Bool) (detail : Nat := 0) : Dev :=
  if !d.chipOn || bitOf (d.reg (Adr.EVC_LEVEL (n / 32))).toNat (n % 32) == b then d
  else
    let d := d.setReg (Adr.EVC_LEVEL (n / 32)) (d.reg (Adr.EVC_LEVEL (n / 32)) ^^^ BitVec.ofNat 32 (2 ^ (n % 32)))
    d.occur n (b2n b) detail

/-! ### Time in periods -/

/-- Samples per period P (R26). -/
def perLen (d : Dev) : Nat := 8 * 2 ^ d.get LND_CTRL.PERIOD_LEN

/-- CTRL_INTERVAL in periods: 0 means 64. -/
def interval (d : Dev) : Nat := if d.get LND_CTRL.CTRL_INTERVAL = 0 then 64 else d.get LND_CTRL.CTRL_INTERVAL

/-- The render rate in Hz. -/
def fs (d : Dev) : Nat := if d.on LND_CTRL.RATE then 48000 else 96000

/-- The period in progress (R26). -/
def period (d : Dev) : Nat := d.get64 Adr.LND_PERIOD_LO

/-- LND counts as stopped (R60). -/
def lndStopped (d : Dev) : Bool := !d.on LND_CTRL.RUN && !d.on LND_STATUS.RUNNING

/-- The device is in standby (R549). -/
def inStandby (d : Dev) : Bool := d.get PCH_STATUS.CHIP == 3

/-- A master that the porch holds in reset through its link (R554). -/
def linkHeld (d : Dev) (m : Nat) : Bool := d.clk.link.contains m

/-- FE runs: it is not in block reset (R390, R513). -/
def feRunning (d : Dev) : Bool := d.on FE_STATUS.RUNNING && !bitOf (d.get RST_MISC.MISC) 1

/-- Bank `b` is armed, a missed bank included. -/
def armed (d : Dev) (b : Nat) : Bool := bitOf (d.get64 Adr.LND_ARMED_LO) b

end Dev
end Sys2Proof.Machine
end

