-- ==== Sys2Proof/Machine/Mem.lean ====
section
/-! DEFINITION. Sys2Proof/Machine/Mem.lean: the internal physical map (R489, R576), ECC words and poison (R428 to R437, R448, R449, R457, R458), DRAM addresses (R455, R459). -/
namespace Sys2Proof.Machine

/-- The targets of the fabric (R489). `dram c o` carries the channel and the channel offset; `dramBad c` is a window address that
R459 does not make valid, with the channel it is counted in (R460). -/
inductive Target where
  | bootRom
  | porchSram
  | pantry (p : Nat)
  | room (n : Nat)
  | regs
  | dram (c o : Nat)
  | dramBad (c : Nat)
  | host (ctx : Nat)
  | nothing
  deriving DecidableEq, Repr

/-- The number of a target (R489); 0x3F for none. -/
def Target.num : Target → Nat
  | .bootRom => 35
  | .porchSram => 34
  | .pantry p => p
  | .room n => 16 + n
  | .regs => 33
  | .dram c _ => 8 + c
  | .dramBad c => 8 + c
  | .host _ => 36
  | .nothing => 0x3F

/-- First address of the pantry. -/
abbrev pantryBase : Nat := 0x10000000
/-- First address of room 0; the rooms are 8 MiB each. -/
abbrev roomBase : Nat := 0x20000000
/-- First address of the register space (R9). -/
abbrev regBase : Nat := 0x40000000
/-- First address of the DRAM window. -/
abbrev dramBase : Nat := 0x100000000
/-- First address of the host window. -/
abbrev hostBase : Nat := 0x1000000000
/-- First address of porch SRAM. -/
abbrev porchBase : Nat := 0x01000000

/-- The internal address of offset `x` of room `n`. -/
def roomAddr (n x : Nat) : Nat := roomBase + 0x800000 * n + x

/-- The offset in the DRAM window of an address at or above its base. -/
def dramOfs (a : Nat) : Nat := 2 ^ 32 * (a / 2 ^ 32 - 1) + a % 2 ^ 32

namespace Dev

/-- Usable bytes per channel (R455): whole ECC groups of every rank. -/
def dramUsable (d : Dev) : Nat :=
  954433536 * 2 ^ min (d.get (DMC_CFG.RANK_SIZE 0)) 2 * (1 + d.get (DMC_CFG.RANKS 0))

/-- The target of offset `w` of the DRAM window under the map that channel 0 selects (R459, R460). -/
def dramTarget (d : Dev) (w : Nat) : Target :=
  if d.on (DMC_CFG.MAP 0) then
    if w % 2 ^ 32 < d.dramUsable ∧ w / 2 ^ 32 < 8 then .dram (w / 2 ^ 32) (w % 2 ^ 32) else .dramBad (w / 2 ^ 32 % 8)
  else
    if w < 8 * d.dramUsable then .dram (w / 4096 % 8) (4096 * (w / 32768) + w % 4096) else .dramBad 0

/-- The target that an internal physical address decodes to (R489). -/
def targetOf (d : Dev) (a : Nat) : Target :=
  if a < 0x40000 then .bootRom
  else if porchBase ≤ a ∧ a < porchBase + 0x80000 then .porchSram
  else if pantryBase ≤ a ∧ a < pantryBase + 0x4000000 then .pantry (a % pantryBase / 0x800000)
  else if roomBase ≤ a ∧ a < roomBase + 17 * 0x800000 then .room (a % roomBase / 0x800000)
  else if regBase ≤ a ∧ a < regBase + 0x10000000 then .regs
  else if dramBase ≤ a ∧ a < 0x900000000 then d.dramTarget (dramOfs a)
  else if hostBase ≤ a ∧ a < 0x2000000000 then .host (a % hostBase / 2 ^ 32)
  else .nothing

/-- Where a byte of memory is kept: an SRAM byte under its address, a DRAM byte under its channel and channel offset. -/
def memKey (d : Dev) (a : Nat) : Nat :=
  match d.targetOf a with
  | .dram c o => 2 ^ 40 + 2 ^ 33 * c + o
  | _ => a

end Dev

/-- A key of DRAM. -/
def isDramKey (k : Nat) : Bool := decide (2 ^ 40 ≤ k)
/-- The channel of a DRAM key. -/
def keyChan (k : Nat) : Nat := k / 2 ^ 33 % 128
/-- A key of porch SRAM. -/
def isPorchKey (k : Nat) : Bool := decide (porchBase ≤ k) && decide (k < porchBase + 0x80000)
/-- The unit that ECC and poison cover: a 64 B line in DRAM, an 8 B word elsewhere (R430, R458). -/
def eccUnit (k : Nat) : Nat := if isDramKey k then 64 else 8
/-- First key of the unit that holds `k`. -/
def unitOf (k : Nat) : Nat := k / eccUnit k * eccUnit k

/-- The ECC block's bank of a pantry or room address (R428, R429). -/
def bankOf (k : Nat) : Nat :=
  if k < roomBase then k % pantryBase / 0x200000
  else 32 + 16 * (k % roomBase / 0x800000) + k / 16 % 16
/-- The row of a pantry or room address in its bank (R428). -/
def rowOf (k : Nat) : Nat :=
  if k < roomBase then k % 0x200000 / 4096 else k % 0x800000 / 16384

/-- What a read of a unit finds (R430). -/
inductive WordState where
  | clean | ceData | ceCheck | ue | poisoned
  deriving DecidableEq, Repr

/-- The wrong bits of the word at key `w`, among 72. -/
def flipMask (e : EccState) (w : Nat) : Nat := sget (fun _ => 0) e.flips w

/-- The state of one 8 B word, poison apart. -/
def wordSyn (e : EccState) (w : Nat) : WordState :=
  match bitList 72 (flipMask e w) with
  | [] => .clean
  | [b] => if b < 64 then .ceData else .ceCheck
  | _ => .ue

/-- The worst of two states of words in one line. -/
def WordState.worse : WordState → WordState → WordState
  | .poisoned, _ => .poisoned
  | _, .poisoned => .poisoned
  | .ue, _ => .ue
  | _, .ue => .ue
  | .clean, y => y
  | x, _ => x

/-- The state of the unit that starts at key `w` (R430, R457, R458). -/
def unitState (e : EccState) (w : Nat) : WordState :=
  if (sget (fun _ => 0) e.tags w) != 0 then .poisoned
  else if isDramKey w then (List.range 8).foldl (fun s i => s.worse (wordSyn e (w + 8 * i))) .clean
  else wordSyn e w

/-- The failing bit of a CE. -/
def failBit (e : EccState) (w : Nat) : Nat := (bitList 72 (flipMask e w)).headD 0

/-- The words of a unit. -/
def unitWords (w : Nat) : List Nat := (List.range (eccUnit w / 8)).map (fun i => w + 8 * i)

/-- The state with the unit's bits all right and its poison tag set to `t`. -/
def EccState.store (e : EccState) (w t : Nat) : EccState :=
  { e with
    flips := (unitWords w).foldl serase e.flips
    tags := sset (fun _ => 0) e.tags w t
    ceWb := e.ceWb.filter (· != w) }

namespace Dev

/-- The region entry that covers a pantry or room address: the lowest index with a CLASS other than 0 (R442). -/
def regionOf (d : Dev) (k : Nat) : Option Nat :=
  (List.range 64).find? (fun r => d.get (ECC_REGION_CFG.CLASS r) != 0 && decide (d.get (ECC_REGION_BASE.BASE r) ≤ k / 4096)
    && decide (k / 4096 ≤ d.get (ECC_REGION_LIMIT.LIMIT r)))

/-- The class of an address: 1 precious, 2 regenerable, 3 unused (R442). -/
def classOf (d : Dev) (k : Nat) : Nat :=
  match d.regionOf k with
  | none => 1
  | some r => d.get (ECC_REGION_CFG.CLASS r)

/-- Add an entry to the ECC log; a full log discards it (R448). -/
def eccLog (d : Dev) (k typ bit req : Nat) : Dev :=
  if 32 ≤ d.ecc.log.length then (d.bump Adr.ECC_LOG_DROP_CNT).raise 185
  else
    let d : Dev := { d with ecc := { d.ecc with log := d.ecc.log ++ [(⟨k, typ, bit, req, (d.regionOf k).getD 0x7F, rowOf k⟩ : EccLog)] } }
    d.set ECC_LOG_CFG.COUNT d.ecc.log.length

/-- The row table of bank `b` after a CE of row `r`: a new row replaces the entry with the lowest count, and the oldest of those (R444). -/
def rowsAfter (rows : List RowCnt) (b r : Nat) : List RowCnt :=
  let mine : List RowCnt := rows.filter (fun x => x.bank == b)
  if mine.any (fun x => x.row == r) then rows.map (fun x => if x.bank == b && x.row == r then { x with n := x.n + 1 } else x)
  else if mine.length < 16 then rows ++ [(⟨b, r, 1⟩ : RowCnt)]
  else
    let low : Nat := mine.foldl (fun m x => min m x.n) (mine.headD (⟨b, r, 0⟩ : RowCnt)).n
    match mine.find? (fun x => x.n == low) with
    | none => rows ++ [(⟨b, r, 1⟩ : RowCnt)]
    | some old => rows.filter (fun x => !(x.bank == b && x.row == old.row)) ++ [(⟨b, r, 1⟩ : RowCnt)]

/-- The CE count of row `r` of bank `b`. -/
def rowCe (rows : List RowCnt) (b r : Nat) : Nat :=
  match rows.find? (fun x => x.bank == b && x.row == r) with
  | some x => x.n
  | none => 0

/-- Count a CE on its row; a row that reaches THRESH is spared if its bank has a spare left (R444). -/
def rowCount (d : Dev) (k : Nat) : Dev :=
  let b : Nat := bankOf k
  let r : Nat := rowOf k
  let d : Dev := { d with ecc := { d.ecc with rows := rowsAfter d.ecc.rows b r } }
  let used : Nat := d.get (ECC_BANK_STATUS.SPARES_USED b)
  let waiting : Nat := (d.ecc.sparing.filter (fun x => x.1 == b)).length
  if max 1 (d.get ECC_SPARE_CFG.THRESH) ≤ rowCe d.ecc.rows b r ∧ used + waiting < 8 ∧ d.ecc.sparing.contains (b, r) = false then
    { d with ecc := { d.ecc with sparing := d.ecc.sparing ++ [(b, r)] } }
  else d

/-- A CE found in a unit: counted once until its write-back (R430, R431), by the counters of its memory (R450, R458). -/
def foundCe (d : Dev) (req w bit : Nat) : Dev :=
  if d.ecc.ceWb.contains w then d
  else
    let d : Dev := { d with ecc := { d.ecc with ceWb := d.ecc.ceWb ++ [w] } }
    if isDramKey w then (d.bump (Adr.DMC_CE_CNT (keyChan w))).raise 202
    else if isPorchKey w then ((d.bump Adr.PCH_SRAM_CE_CNT).set PCH_SRAM_STATUS.CE 1).raise 230
    else
      let d := ((d.bump (Adr.ECC_BANK_CE_CNT (bankOf w))).set ECC_STATUS.CE 1).raise 176
      let d := d.pmc (16 * 22 + (if w < roomBase then 0 else 2)) 1
      let d := if d.on ECC_LOG_CFG.LOG_CE then d.eccLog w (if bit < 64 then 1 else 2) bit req else d
      d.rowCount w

/-- The internal address of a DRAM key under the map in force (R459). -/
def dramWindow (d : Dev) (w : Nat) : Nat :=
  let c := keyChan w
  let o := w % 2 ^ 33
  if d.on (DMC_CFG.MAP 0) then dramBase + 2 ^ 32 * c + o else dramBase + 32768 * (o / 4096) + 4096 * c + o % 4096

/-- The address of the first UE of a DRAM channel goes into DMC_ERR_ADDR (R483). -/
def dramUe (d : Dev) (w : Nat) : Dev :=
  let c := keyChan w
  let d := if d.reg (Adr.DMC_UE_CNT c) = 0 then d.set64 (Adr.DMC_ERR_ADDR_LO c) (d.dramWindow w) else d
  (d.bump (Adr.DMC_UE_CNT c)).raise 203

/-- A UE found by a read: counted, logged, and the unit becomes poisoned (R430, R450, R458). -/
def foundUe (d : Dev) (req w : Nat) : Dev :=
  let d : Dev := { d with ecc := { d.ecc with tags := sset (fun _ => 0) d.ecc.tags w 3, ceWb := d.ecc.ceWb.filter (· != w) } }
  if isDramKey w then d.dramUe w
  else if isPorchKey w then
    let d := if d.on PCH_SRAM_STATUS.UE then d else d.setReg Adr.PCH_SRAM_ERR_ADDR (BitVec.ofNat 32 (w % porchBase))
    (((d.bump Adr.PCH_SRAM_UE_CNT).set PCH_SRAM_STATUS.UE 1).set PCH_STATUS.SRAM_UE 1).raise 231
  else
    let d := ((d.bump (Adr.ECC_BANK_UE_CNT (bankOf w))).set ECC_STATUS.UE 1).raise 177
    (d.pmc (16 * 22 + (if w < roomBase then 1 else 3)) 1).eccLog w 3 0 req

/-- A poisoned unit read (R430). -/
def foundPoison (d : Dev) (w : Nat) : Dev :=
  if isDramKey w || isPorchKey w then d
  else (((d.bump Adr.ECC_POISON_READ_CNT).set ECC_STATUS.POISON_READ 1).raise 178).pmc (16 * 22 + 4) 1

/-- Read one unit: whether its data may be used (R430). -/
def readUnit (d : Dev) (req w : Nat) : Dev × Bool :=
  match unitState d.ecc w with
  | .clean => (d, true)
  | .ceData => (d.foundCe req w (failBit d.ecc w), true)
  | .ceCheck => (d.foundCe req w (failBit d.ecc w), true)
  | .ue => (d.foundUe req w, false)
  | .poisoned => (d.foundPoison w, false)

/-- The units that the `n` bytes from key `k` touch. -/
def unitsOf (k n : Nat) : List Nat :=
  (List.range ((k + n + eccUnit k - 1) / eccUnit k - k / eccUnit k)).map (fun i => unitOf k + i * eccUnit k)

/-- Read the units of a range in order; the units that could not be used. -/
def readUnits (d : Dev) (req : Nat) : List Nat → Dev × List Nat
  | [] => (d, [])
  | w :: t =>
    let (d1, ok) := d.readUnit req w
    let (d2, bad) := readUnits d1 req t
    (d2, if ok then bad else w :: bad)

/-- Read `n` bytes of SRAM or DRAM at address `a`, which must not cross a 4 KiB boundary in DRAM: the bytes, or the first
address that gave an error response (R430, R432). -/
def memRead (d : Dev) (req a n : Nat) : Dev × Except Nat (List Byte) :=
  let k := d.memKey a
  let (d, bad) := d.readUnits req (unitsOf k n)
  match bad with
  | [] => (d, .ok (d.bytesAt k n))
  | w :: _ => (d, .error (a + (w - k)))

/-- Read for a block that takes a bad word as 0 (R432). -/
def memRead0 (d : Dev) (req a n : Nat) : Dev × List Byte :=
  let k := d.memKey a
  let (d, bad) := d.readUnits req (unitsOf k n)
  (d, (List.range n).map (fun i => if bad.contains (unitOf (k + i)) then 0 else d.byteAt (k + i)))

/-- An armed injection acts on the write of its word, in the pantry and the rooms (R449). -/
def inject (d : Dev) (w : Nat) : Dev :=
  if d.on ECC_INJ_CTRL.ARM && d.get64 Adr.ECC_INJ_ADDR_LO == w && !isDramKey w && !isPorchKey w then
    let pick := fun b => if 72 ≤ b then 0 else b
    let b1 := pick (d.get ECC_INJ_CTRL.BIT)
    let b2 := pick (d.get ECC_INJ_CTRL.BIT2)
    let m := flipMask d.ecc w
    let d := d.set ECC_INJ_CTRL.ARM 0
    match d.get ECC_INJ_CTRL.MODE with
    | 1 => { d with ecc := { d.ecc with flips := sset (fun _ => 0) d.ecc.flips w (m ^^^ 2 ^ b1) } }
    | 2 =>
      let m2 := if b1 = b2 then m ^^^ 2 ^ b1 else m ^^^ 2 ^ b1 ^^^ 2 ^ b2
      { d with ecc := { d.ecc with flips := sset (fun _ => 0) d.ecc.flips w m2 } }
    | 3 => { d with ecc := { d.ecc with tags := sset (fun _ => 0) d.ecc.tags w 3 } }
    | _ => d
  else d

/-- Put bytes at their keys. -/
def putCells (d : Dev) (l : List (Nat × Byte)) : Dev := l.foldl (fun d c => d.setByte c.1 c.2) d

/-- Write bytes inside the unit `w`: all of it, with its poison flag, or a part of it (R433, R437, R458). The answer is whether the
response is OK. -/
def writeUnit (d : Dev) (req w : Nat) (l : List (Nat × Byte)) (flag : Bool) : Dev × Bool :=
  if l.length = eccUnit w then
    let d := d.putCells l
    let d : Dev := { d with ecc := d.ecc.store w (if flag then 3 else 0) }
    (d.inject w, true)
  else
    let st := unitState d.ecc w
    let d := if isDramKey w || isPorchKey w then d else d.pmc (16 * 22 + 7) 1
    match st with
    | .clean =>
      let d : Dev := { d with ecc := if flag then d.ecc.store w 3 else d.ecc }
      ((d.putCells l).inject w, true)
    | .ceData | .ceCheck =>
      let d := d.foundCe req w (failBit d.ecc w)
      let d := if isDramKey w || isPorchKey w then d else d.bump Adr.ECC_PW_CE_CNT
      let d : Dev := { d with ecc := d.ecc.store w (if flag then 3 else 0) }
      ((d.putCells l).inject w, true)
    | .ue | .poisoned =>
      let d : Dev := { d with ecc := { d.ecc with tags := sset (fun _ => 0) d.ecc.tags w 3 } }
      let d := if isDramKey w then (if st = .ue then d.dramUe w else d)
        else if isPorchKey w then d
        else (((d.bump Adr.ECC_PW_UE_CNT).set ECC_STATUS.PW_UE 1).eccLog w 4 0 req).raise 179
      ((d.putCells l).inject w, false)

/-- The units that bytes touch, each once, in the order of the bytes. -/
def cellUnits (l : List (Nat × Byte)) : List Nat :=
  l.foldl (fun u c => if u.contains (unitOf c.1) then u else u ++ [unitOf c.1]) []

/-- Write bytes, unit by unit; `flags` names keys in units whose poison flag is set (R433). The answer is whether every response
is OK, and the first unit whose response is not. -/
def writeUnits (d : Dev) (req : Nat) (flags : List Nat) (l : List (Nat × Byte)) : List Nat → Dev × Option Nat
  | [] => (d, none)
  | w :: t =>
    let (d1, ok) := d.writeUnit req w (l.filter (fun c => unitOf c.1 == w)) (flags.any (fun f => unitOf f == w))
    let (d2, bad) := writeUnits d1 req flags l t
    (d2, if ok then bad else some w)

/-- The bytes of `l` with their keys from `k` on. -/
def cellsFrom (k : Nat) (l : List Byte) : List (Nat × Byte) := (List.range l.length).zip l |>.map (fun c => (k + c.1, c.2))

/-- Write bytes at their keys. -/
def writeCells (d : Dev) (req : Nat) (l : List (Nat × Byte)) : Dev × Option Nat := d.writeUnits req [] l (cellUnits l)

/-- Write bytes to SRAM or DRAM at address `a`; true where every response is OK. -/
def memWrite (d : Dev) (req a : Nat) (l : List Byte) : Dev × Bool :=
  let (d, bad) := d.writeCells req (cellsFrom (d.memKey a) l)
  (d, bad.isNone)

/-- Write bytes with poison flags on the words at the given addresses (R433). -/
def memWriteFlags (d : Dev) (req a : Nat) (l : List Byte) (flags : List Nat) : Dev × Bool :=
  let cells := cellsFrom (d.memKey a) l
  let (d, bad) := d.writeUnits req (flags.map d.memKey) cells (cellUnits cells)
  (d, bad.isNone)

/-- Write bytes for a block that ignores the response. -/
def memPut (d : Dev) (req a : Nat) (l : List Byte) : Dev := (d.memWrite req a l).1

end Dev
end Sys2Proof.Machine
end

