-- ==== Sys2Proof/Machine/Flags.lean ====
section
/-! DEFINITION. Sys2Proof/Machine/Flags.lean: rounding, saturation, accumulator additions and narrowing, with the flags they set (R61, R67 to R73). -/
namespace Sys2Proof.Machine

/-- `z / 2^s` rounded to the nearest integer, a tie to the even one (R71). -/
def roundShift (z : Int) (s : Nat) : Int :=
  let p : Int := ((2 ^ s : Nat) : Int)
  let q := z / p
  let r := z % p
  if p < 2 * r ∨ (2 * r = p ∧ q % 2 = 1) then q + 1 else q

/-- `a / b` rounded to the nearest integer, a tie to the even one, for `b > 0`. -/
def roundDiv (a : Int) (b : Nat) : Int :=
  let q := a / (b : Int)
  let r := a % (b : Int)
  if (b : Int) < 2 * r ∨ (2 * r = (b : Int) ∧ q % 2 = 1) then q + 1 else q

/-- The 32 bits of `z`. -/
def lane32 (z : Int) : BitVec 32 := BitVec.ofInt 32 z

/-- A 32-bit result saturated, and whether it saturated. -/
def sat32 (z : Int) : BitVec 32 × Bool := (BitVec.ofInt 32 (satTo 32 z), outside 32 z)

/-- The mask whose bit `l` is `p l`. -/
def maskOf (p : Nat → Bool) : BitVec 32 := BitVec.ofNat 32 ((List.range 32).foldl (fun m l => if p l then m + 2 ^ l else m) 0)

/-- What an addition did to a lane: the lane, and whether it sets WRAP and LOST. -/
structure AccRes where
  l : Acc84
  wrap : Bool
  lost : Bool
  deriving DecidableEq, Repr

/-- Whether a lane is lost (R69). -/
def Acc84.isLost (l : Acc84) : Bool := l.wc == 0b1000#4

/-- A lost lane, lost upward or downward (R69). -/
def Acc84.lostLane (up : Bool) : Acc84 := ⟨if up then 1 else 0, 0b1000#4⟩

/-- Add `x` to the value and `w` to the wrap count of a lane (R67, R69). -/
def Acc84.addWc (l : Acc84) (x w : Int) : AccRes :=
  if l.isLost then ⟨l, false, false⟩
  else
    let s := l.v.toInt + x
    let k := (s + ((2 ^ 79 : Nat) : Int)) / ((2 ^ 80 : Nat) : Int)
    let c := l.wc.toInt + k + w
    if 7 < c then ⟨.lostLane true, true, true⟩
    else if c < -7 then ⟨.lostLane false, true, true⟩
    else ⟨⟨BitVec.ofInt 80 s, BitVec.ofInt 4 c⟩, k + w != 0, false⟩

/-- Add `x` to a lane (R67, R69). -/
def Acc84.add (l : Acc84) (x : Int) : AccRes := l.addWc x 0

/-- Add a lane to a lane: the value, the wrap count, and the lost state (R115, AADD). -/
def Acc84.addAcc (l a : Acc84) : AccRes :=
  if l.isLost then ⟨l, false, false⟩
  else if a.isLost then ⟨.lostLane (a.v.getLsbD 0), true, true⟩
  else l.addWc a.v.toInt a.wc.toInt

/-- A narrowed lane: the value and whether it sets OVF and LOST. -/
structure NarRes where
  v : Int
  ovf : Bool
  lost : Bool
  deriving DecidableEq, Repr

/-- The largest and the smallest value of a signed width. -/
def maxOf (w : Nat) : Int := ((2 ^ (w - 1) : Nat) : Int) - 1
def minOf (w : Nat) : Int := -((2 ^ (w - 1) : Nat) : Int)

/-- Narrow a lane with shift `sh` to width `w` (R70, R71). -/
def Acc84.narrow (l : Acc84) (sh w : Nat) : NarRes :=
  if l.isLost then ⟨if l.v.getLsbD 0 then maxOf w else minOf w, true, true⟩
  else if 0 < l.wc.toInt then ⟨maxOf w, true, false⟩
  else if l.wc.toInt < 0 then ⟨minOf w, true, false⟩
  else
    let r := roundShift l.v.toInt sh
    ⟨satTo w r, outside w r, false⟩

end Sys2Proof.Machine
end

