-- ==== Sys2Proof/Machine/Operands.lean ====
section
/-! DEFINITION. Sys2Proof/Machine/Operands.lean: operand forms of the instructions: fields, lane masks, register reads and writes, circular pointers (R62 to R66, R106 to R108, R122, R123). -/
namespace Sys2Proof.Machine

/-! ### Fields (R106, R107) -/

/-- Field of X. -/
def xf (w : SlotWord) (lo n : Nat) : Nat := bitsOf w.x.toNat lo n
/-- X bit. -/
def xb (w : SlotWord) (i : Nat) : Bool := w.x.getLsbD i
/-- The sign-extended immediate X[23:0]. -/
def ximm (w : SlotWord) : Int := signedOf 24 (xf w 0 24)
/-- Whether only the X bits of `m` are used. -/
def xOnly (w : SlotWord) (m : Nat) : Bool := w.x &&& ~~~(BitVec.ofNat 33 m) == 0
/-- A mask of the `n` bits from `lo`. -/
def ones (lo n : Nat) : Nat := 2 ^ lo * (2 ^ n - 1)
def f1 (w : SlotWord) : Nat := w.f1.toNat
def f2 (w : SlotWord) : Nat := w.f2.toNat
def f3 (w : SlotWord) : Nat := w.f3.toNat
def f4 (w : SlotWord) : Nat := w.f4.toNat

/-! ### Registers -/

def RegFile.getS (r : RegFile) (i : Nat) : BitVec 64 := if i = 0 then 0 else if h : i < 32 then r.s[i] else 0
def RegFile.getV (r : RegFile) (i : Nat) : VReg := if h : i < 32 then r.v[i] else r.v[0]
def RegFile.getA (r : RegFile) (i : Nat) : AReg := if h : i < 8 then r.a[i] else r.a[0]
def RegFile.getK (r : RegFile) (i : Nat) : BitVec 32 := if h : i < 8 then r.k[i] else 0
def RegFile.getC (r : RegFile) (i : Nat) : BitVec 64 := if h : i < 8 then r.c[i] else 0
def RegFile.getD (r : RegFile) (i : Nat) : VReg := if h : i < 4 then r.d[i] else r.d[0]
/-- A write to s0 is discarded (R62). -/
def RegFile.setS (r : RegFile) (i : Nat) (v : BitVec 64) : RegFile :=
  if i = 0 then r else if h : i < 32 then { r with s := r.s.set i v h } else r
def RegFile.setV (r : RegFile) (i : Nat) (v : VReg) : RegFile := if h : i < 32 then { r with v := r.v.set i v h } else r
def RegFile.setA (r : RegFile) (i : Nat) (v : AReg) : RegFile := if h : i < 8 then { r with a := r.a.set i v h } else r
def RegFile.setK (r : RegFile) (i : Nat) (v : BitVec 32) : RegFile := if h : i < 8 then { r with k := r.k.set i v h } else r
def RegFile.setC (r : RegFile) (i : Nat) (v : BitVec 64) : RegFile := if h : i < 8 then { r with c := r.c.set i v h } else r
def RegFile.setD (r : RegFile) (i : Nat) (v : VReg) : RegFile := if h : i < 4 then { r with d := r.d.set i v h } else r

/-- Lane `l`. -/
def lane {α : Type} (v : Vector α 32) (l : Nat) : α := if h : l < 32 then v[l] else v[0]

/-- A register with the lanes of `m` replaced. -/
def onLanes {α : Type} (m : BitVec 32) (old : Vector α 32) (f : Nat → α) : Vector α 32 :=
  Vector.ofFn (fun (i : Fin 32) => if m.getLsbD i then f i else old[i])

/-- The lanes that K enables (R108). -/
def enabled (r : RegFile) (w : SlotWord) : BitVec 32 := if w.k = 0 then 0xFFFFFFFF else r.getK w.k.toNat

/-- A lane mask for complex pairs: a pair is enabled when both its lanes are (R116). -/
def pairMask (m : BitVec 32) : BitVec 32 := maskOf (fun l => m.getLsbD (l / 2 * 2) && m.getLsbD (l / 2 * 2 + 1))

/-- The read of the mask register that K names. -/
def kSrc (w : SlotWord) : List RegRef := if w.k = 0 then [] else [⟨3, w.k.toNat, 1⟩]

def srcS (i : Nat) : RegRef := ⟨0, i, 1⟩
def srcV (i : Nat) (m : BitVec 32) : RegRef := ⟨1, i, m⟩
def srcA (i : Nat) (m : BitVec 32) : RegRef := ⟨2, i, m⟩
def srcK (i : Nat) : RegRef := ⟨3, i, 1⟩
def srcC (i : Nat) : RegRef := ⟨4, i, 1⟩
def srcD (i : Nat) (m : BitVec 32) : RegRef := ⟨5, i, m⟩

/-- What an instruction that touches only registers does: its sources, its destinations, and the registers after it from those
before the bundle and those that the bundle has written so far (R109). Flags in the result are those it sets. -/
structure Plan where
  src : List RegRef
  dst : List RegRef
  run : RegFile → RegFile → RegFile

/-- Set OVF, LOST and WRAP bits. -/
def RegFile.flag (r : RegFile) (o l w : BitVec 32) : RegFile := { r with ovf := r.ovf ||| o, lost := r.lost ||| l, wrap := r.wrap ||| w }

/-- Accumulate into the lanes of `m`: lane `l` by `f l`, with WRAP and LOST (R67, R69). -/
def accumulate (r : RegFile) (ad : Nat) (m : BitVec 32) (f : Nat → AccRes) : RegFile :=
  (r.setA ad (onLanes m (r.getA ad) (fun l => (f l).l))).flag 0
    (maskOf (fun l => m.getLsbD l && (f l).lost)) (maskOf (fun l => m.getLsbD l && (f l).wrap))

/-- Write saturated lanes with OVF. -/
def writeSat (r : RegFile) (vd : Nat) (m : BitVec 32) (f : Nat → BitVec 32 × Bool) : RegFile :=
  (r.setV vd (onLanes m (r.getV vd) (fun l => (f l).1))).flag (maskOf (fun l => m.getLsbD l && (f l).2)) 0 0

/-- Write lanes. -/
def writeV (r : RegFile) (vd : Nat) (m : BitVec 32) (f : Nat → BitVec 32) : RegFile := r.setV vd (onLanes m (r.getV vd) f)

/-! ### Circular pointers (R64 to R66) -/

def cBase (c : BitVec 64) : Nat := bitsOf c.toNat 0 23
def cLen (c : BitVec 64) : Nat := bitsOf c.toNat 24 5
def cIndex (c : BitVec 64) : Nat := bitsOf c.toNat 32 23

/-- Whether an access through the pointer is legal (R66). -/
def cLegal (c : BitVec 64) : Bool :=
  cLen c == 0 || (decide (6 ≤ cLen c) && decide (cLen c ≤ 22) && cBase c % 2 ^ cLen c == 0)

/-- The room offset that an access at offset `x` reaches; it may lie outside the room (R65). -/
def cAddr (c : BitVec 64) (x : Int) : Int :=
  if cLen c = 0 then (cBase c : Int) + cIndex c + x
  else (cBase c : Int) + ((cIndex c : Int) + x) % ((2 ^ cLen c : Nat) : Int)

/-- The pointer after an update by `step` (R65). -/
def cStep (c : BitVec 64) (step : Int) : BitVec 64 :=
  let n := if cLegal c && cLen c != 0 then cLen c else 23
  BitVec.ofNat 64 (withBits c.toNat 32 23 (((cIndex c : Int) + step) % ((2 ^ n : Nat) : Int)).toNat)

end Sys2Proof.Machine
end

