-- ==== Sys2Proof/Machine/Engine.lean ====
section
/-! DEFINITION. Sys2Proof/Machine/Engine.lean: issue on a render engine: fetch, legality, parity, faults, the two slots of a bundle, REP (R82, R83, R88, R91 to R94, R104 to R111, R141, R142, R145). -/
namespace Sys2Proof.Machine

/-- Engine states (R95). -/
abbrev engOff : Nat := 0
abbrev engSelftest : Nat := 1
abbrev engReady : Nat := 2
abbrev engActive : Nat := 3
abbrev engHalted : Nat := 4
abbrev engFailed : Nat := 5

/-- What a fault records (R91, R102). -/
structure FaultInfo where
  code : Nat
  addr : Nat
  file : Nat
  ix : Nat
  lane : Nat
  deriving DecidableEq, Repr

/-- An illegal encoding. -/
def illegal : FaultInfo := ⟨3, 0, 0, 0, 0⟩
/-- A privilege violation or an access violation, with its address. -/
def violation (a : Nat) : FaultInfo := ⟨4, a % 2 ^ 40, 0, 0, 0⟩
/-- An uncorrectable or poisoned room word at an offset. -/
def roomUe (a : Nat) : FaultInfo := ⟨2, a, 0, 0, 0⟩

/-- Whether a fault is of the engine class (R91). -/
def FaultInfo.engineClass (f : FaultInfo) : Bool := f.code == 1 || f.code == 2

/-- What a slot-B instruction does: it stalls, faults, or completes, going on at the next bundle or at a given room offset. -/
inductive BRes (α : Type) where
  | stall
  | fault (d : α) (f : FaultInfo)
  | done (d : α)
  | jump (d : α) (pc : Int)
  /-- the bundle ends the task: the PC stays -/
  | stay (d : α)
  /-- the next bundle is repeated `n` times -/
  | rep (d : α) (n : Nat)

namespace Dev

def engAt (d : Dev) (k : Nat) : Eng := vat d.eng k
def setEng (d : Dev) (k : Nat) (e : Eng) : Dev := { d with eng := vput d.eng k e }
/-- A context of an engine. -/
def ctxAt (d : Dev) (k c : Nat) : Ctx := vat (d.engAt k).ctx c
def setCtx (d : Dev) (k c : Nat) (x : Ctx) : Dev := d.setEng k { d.engAt k with ctx := vput (d.engAt k).ctx c x }
/-- STATE of engine `k` (R95). -/
def engState (d : Dev) (k : Nat) : Nat := d.get (ENG_STATUS.STATE k)
/-- The context that issues or issued last. -/
def runCtx (d : Dev) (k : Nat) : Nat := (d.engAt k).run.val
/-- The other context. -/
def other (c : Nat) : Nat := 1 - c
/-- The event signal `e` of engine `k` (R571's table). -/
def engPmc (d : Dev) (k e w : Nat) : Dev := d.pmc (16 * (1 + k) + e) w

/-- Whether the running context of an active engine can issue: no halt is due before a new bundle (R97), no far load is
outstanding (R124). -/
def canIssue (d : Dev) (k : Nat) : Bool :=
  let x := d.ctxAt k (d.runCtx k)
  d.engState k == engActive && x.mode == .running && x.farLoad.isNone
    && (!(d.engAt k).haltReq || x.rep.isSome || x.bundle.isSome)

/-! ### Faults -/

/-- Record a fault: the ENG_FAULT registers hold the first since ENG_EVENT.FAULT was last cleared (R102). -/
def recordFault (d : Dev) (k c : Nat) (f : FaultInfo) (aborted : Bool) : Dev :=
  let x := d.ctxAt k c
  let d := if d.on (ENG_EVENT.FAULT k) then d
    else
      let d := d.setReg (Adr.ENG_FAULT k) (BitVec.ofNat 32 (f.code + 2 ^ 8 * c + 2 ^ 9 * b2n f.engineClass + 2 ^ 10 * b2n aborted
        + 2 ^ 16 * f.file + 2 ^ 19 * f.ix + 2 ^ 24 * f.lane))
      let d := d.setReg (Adr.ENG_FAULT_PC k) (BitVec.ofNat 32 x.r.pc.toNat)
      let d := d.set64 (Adr.ENG_FAULT_ADDR_LO k) f.addr
      d.setReg (Adr.ENG_FAULT_TASK k) (BitVec.ofNat 32 x.task)
  (d.set (ENG_EVENT.FAULT k) 1).level (32 + k) true

/-- Drop what a context has on its way to the hall (R94). -/
def dropSends (d : Dev) (k c : Nat) : Dev :=
  let d := d.setEng k { d.engAt k with hallIn := (d.engAt k).hallIn.filter (fun h => h.ctx != c) }
  d.setCtx k c { d.ctxAt k c with staged := [], sends := 0 }

/-- A task-class fault: the context stops and its stream queue drains; a parked task resumes (R92, R99). -/
def taskFault (d : Dev) (k c : Nat) (f : FaultInfo) : Dev :=
  let d := (d.recordFault k c f false).dropSends k c
  let d := d.setCtx k c { d.ctxAt k c with mode := .draining, fault := some f.code, rep := none, bundle := none, pload := [], farLoad := none }
  let o := d.ctxAt k (other c)
  if o.mode = .parked ∨ o.mode = .delivered then
    let d := d.setCtx k (other c) { o with mode := .running }
    d.setEng k { d.engAt k with run := Fin.ofNat 2 (other c) }
  else d

/-- Stop a context for an engine-class fault or a reset: its task is to be reported with `code` (R93). -/
def abortCtx (d : Dev) (k c code : Nat) : Dev :=
  let x := d.ctxAt k c
  let x : Ctx := if x.mode = .free then x else { x with mode := .aborted, fault := some (x.fault.getD code) }
  d.setCtx k c { x with stream := [], pload := [], staged := [], sends := 0, rep := none, bundle := none, farLoad := none }

/-- An engine-class fault: both contexts stop, queued stream entries are cancelled, the engine enters FAILED (R93). -/
def engineFault (d : Dev) (k c : Nat) (f : FaultInfo) : Dev :=
  let om := (d.ctxAt k (other c)).mode
  let d := d.recordFault k c f (decide (om = .parked ∨ om = .delivered))
  let d := (d.abortCtx k c f.code).abortCtx k (other c) 0
  let d := d.setEng k { d.engAt k with hallIn := [], haltReq := false }
  d.set (ENG_STATUS.STATE k) engFailed

/-- The flags `n` without those that slot A of the faulting bundle set: `o` before the bundle, `f` what slot A set. -/
def undoFlags (o n f : BitVec 32) : BitVec 32 := n &&& ~~~(f &&& ~~~o)

/-- Take a fault in context `c`: the context stops at the faulting bundle, of which nothing happened (R92). -/
def fault (d : Dev) (k c : Nat) (f : FaultInfo) : Dev :=
  let x := d.ctxAt k c
  let x : Ctx := match x.bundle with
    | none => x
    | some b =>
      { x with
        r := { b.old with
          ovf := undoFlags b.old.ovf x.r.ovf b.ovf
          lost := undoFlags b.old.lost x.r.lost b.lost
          wrap := undoFlags b.old.wrap x.r.wrap b.wrap }
        bad := b.bad
        bundle := none }
  let d := d.setCtx k c x
  if f.engineClass then d.engineFault k c f else d.taskFault k c f

/-! ### Fetch (R82, R83) -/

/-- The lines of one set of the cache, 256 sets of 4 ways. -/
def icacheAdd (l : List Nat) (n : Nat) : List Nat :=
  let same := l.filter (fun x => x % 256 == n % 256)
  (if 4 ≤ same.length then l.erase (same.headD n) else l) ++ [n]

/-- Fill a line from the room. -/
def icacheFill (d : Dev) (k n : Nat) : Dev × Option FaultInfo :=
  let d := d.engPmc k 9 1
  match d.memRead k (roomAddr k (64 * n)) 64 with
  | (d, .error a) => (d, some (roomUe (a - roomAddr k 0)))
  | (d, .ok _) =>
    let e := d.engAt k
    let bad := match e.inj with
      | some (4, _) => true
      | _ => false
    let e : Eng := { e with icache := icacheAdd e.icache n, icBad := if bad then e.icBad ++ [n] else e.icBad, inj := if bad then none else e.inj }
    (d.setEng k e, none)

/-- A parity error in a resident line: the line is invalidated, with event 50 (R83). -/
def icacheParity (d : Dev) (k n : Nat) : Dev :=
  let e := d.engAt k
  let d := d.setEng k { e with icache := e.icache.erase n, icBad := e.icBad.erase n }
  (d.set (ENG_EVENT.ICACHE_PARITY k) 1).raise 50

/-- Invalidate the whole cache (R82). -/
def icinv (d : Dev) (k : Nat) : Dev := d.setEng k { d.engAt k with icache := [], icBad := [] }

/-- Fetch the bundle at `pc`. -/
def fetch (d : Dev) (k pc : Nat) : Dev × Option FaultInfo :=
  if d.on (ENG_CFG.ICACHE_EN k) then
    let n := pc / 64
    if (d.engAt k).icache.contains n then
      if (d.engAt k).icBad.contains n then (d.icacheParity k n).icacheFill k n else (d, none)
    else d.icacheFill k n
  else
    match d.memRead k (roomAddr k pc) 16 with
    | (d, .error a) => (d, some (roomUe (a - roomAddr k 0)))
    | (d, .ok _) => (d, none)

/-! ### Parity (R91, R604) -/

/-- The first source whose parity is wrong. -/
def badSource (bad : List BadParity) : List RegRef → Option FaultInfo
  | [] => none
  | s :: t =>
    match (List.range 32).find? (fun l => s.lanes.getLsbD l && bad.contains ⟨s.file, s.ix, l⟩) with
    | some l => some ⟨1, 0, s.file, s.ix, if s.file = 1 ∨ s.file = 2 ∨ s.file = 5 then l else 0⟩
    | none => badSource bad t

/-- Registers written: their lanes have good parity, but for the one that takes an armed injection. -/
def writtenOne (d : Dev) (k c : Nat) (r : RegRef) : Dev :=
  if r.file = 0 ∧ r.ix = 0 then d
  else
    let x := d.ctxAt k c
    let bad := x.bad.filter (fun b => !(b.file == r.file && b.ix == r.ix && r.lanes.getLsbD b.lane))
    let e := d.engAt k
    let tgt := match r.file with
      | 0 => 1
      | 1 => 2
      | 2 => 3
      | _ => 0
    match e.inj, (List.range 32).find? (fun l => r.lanes.getLsbD l) with
    | some (t, ci), some l =>
      if t = tgt ∧ ci = c then
        (d.setCtx k c { x with bad := bad ++ [(⟨r.file, r.ix, l⟩ : BadParity)] }).setEng k
          { (d.setCtx k c { x with bad := bad ++ [(⟨r.file, r.ix, l⟩ : BadParity)] }).engAt k with inj := none }
      else d.setCtx k c { x with bad := bad }
    | _, _ => d.setCtx k c { x with bad := bad }

/-- Registers written, in order. -/
def written (d : Dev) (k c : Nat) (l : List RegRef) : Dev := l.foldl (fun d r => d.writtenOne k c r) d

/-! ### Bundles -/

/-- A CORE cycle in which the context runs (R90, R571). -/
def runCycles (d : Dev) (k c n : Nat) : Dev :=
  let x := d.ctxAt k c
  let d := d.setCtx k c { x with cycles := min (x.cycles + n) 0xFFFFFFFF }
  let d := d.set64 (Adr.ENG_CYCLES_LO k) (d.get64 (Adr.ENG_CYCLES_LO k) + n)
  let e := d.engAt k
  let d := d.setEng k { e with busy := e.busy + n, busy0 := e.busy0 + (if x.cls = 0 then n else 0) }
  let d := d.engPmc k 0 n
  if x.cls = 0 then d.engPmc k 11 n else d

/-- The access violation of a bundle after which the context would go on outside the room: at `next`, or after the bundle (R142). A
bundle with repeats left goes on with itself. -/
def stepFault (x : Ctx) (next : Option Int) : Option FaultInfo :=
  let pc : Int := next.getD ((x.r.pc.toNat : Int) + 16)
  match x.rep with
  | some (_ + 2) => none
  | _ => if 0 ≤ pc ∧ pc < 0x800000 then none else some (violation (BitVec.ofInt 40 pc).toNat)

/-- The bundle ends and the context goes on at `next`, or after it; a repeated bundle counts a repeat (R142, R145). -/
def endBundle (d : Dev) (k c : Nat) (next : Option Int) : Dev :=
  let x := d.ctxAt k c
  match stepFault x next with
  | some f => d.fault k c f
  | none =>
    let d := (d.runCycles k c (if next.isSome then 2 else 1)).engPmc k 1 1
    let x1 : Ctx := { d.ctxAt k c with bundle := none }
    match x.rep with
    | some (n + 2) => d.setCtx k c { x1 with rep := some (n + 1) }
    | _ => d.setCtx k c { x1 with rep := none, r := { x1.r with pc := BitVec.ofInt 23 (next.getD ((x.r.pc.toNat : Int) + 16)) } }

/-- Before slot A of a new bundle, a bundle whose slot B was not issued ends with NOP there. -/
def closeOpen (d : Dev) (k c : Nat) : Dev := if (d.ctxAt k c).bundle.isSome then d.endBundle k c none else d

/-- The snapshot that opens a bundle. -/
def openWith (d : Dev) (k c : Nat) (dst : List RegRef) (r : RegFile) : Dev :=
  let x := d.ctxAt k c
  d.setCtx k c { x with bundle := some ⟨x.r, x.bad, dst, r.ovf, r.lost, r.wrap⟩ }

/-- Registers with no flag set. -/
def noFlags (r : RegFile) : RegFile := { r with ovf := 0, lost := 0, wrap := 0 }

/-- The registers after an instruction whose result is `n`, with the flags of `old` kept. -/
def withFlags (old n : RegFile) : RegFile := { n with ovf := old.ovf ||| n.ovf, lost := old.lost ||| n.lost, wrap := old.wrap ||| n.wrap }

/-- Issue a slot-A instruction on engine `k`; `plan` is `none` for an illegal encoding. -/
def issueA (d : Dev) (k : Nat) (w : SlotWord) (plan : RegFile → SlotWord → Option Plan) : Dev :=
  let c := d.runCtx k
  if !d.canIssue k then d
  else
    let d := d.closeOpen k c
    if !d.canIssue k then d
    else
      let x := d.ctxAt k c
      match d.fetch k x.r.pc.toNat with
      | (d, some f) => d.fault k c f
      | (d, none) =>
        match (if w.slot = .a then plan x.r w else none) with
        | none => d.fault k c illegal
        | some p =>
          match badSource x.bad p.src with
          | some f => d.fault k c f
          | none =>
            let r := p.run x.r (noFlags x.r)
            let d := d.openWith k c p.dst r
            let d := d.setCtx k c { d.ctxAt k c with r := withFlags x.r r }
            d.written k c p.dst

/-- Whether two destinations name one register (R109). -/
def clash (a b : List RegRef) : Bool := a.any (fun x => b.any (fun y => x.file == y.file && x.ix == y.ix && !(x.file == 0 && x.ix == 0)))

/-- What a slot-B instruction is before it executes: its sources and destinations, and whether it may stand in the bundle that a
REP repeats (R88, R141). -/
structure BPlan where
  src : List RegRef
  dst : List RegRef
  inRep : Bool

/-- Issue a slot-B instruction: `plan` is `none` for an illegal encoding, `op` acts on the device for engine `k`, context `c`,
from the registers before the bundle. -/
def issueB (d : Dev) (k : Nat) (w : SlotWord) (plan : RegFile → SlotWord → Option BPlan)
    (op : Dev → Nat → Nat → RegFile → SlotWord → BRes Dev) : Dev :=
  let c := d.runCtx k
  if !d.canIssue k then d
  else
    let x := d.ctxAt k c
    let (d1, ff) := if x.bundle.isSome then (d, none) else d.fetch k x.r.pc.toNat
    match ff with
    | some f => d1.fault k c f
    | none =>
      let d1 := if x.bundle.isSome then d1 else d1.openWith k c [] RegFile.zero
      let x1 := d1.ctxAt k c
      let b : OpenBundle := x1.bundle.getD ⟨x1.r, x1.bad, [], 0, 0, 0⟩
      match (if w.slot = .b then plan b.old w else none) with
      | none => d1.fault k c illegal
      | some p =>
        if (x.rep.isSome && !p.inRep) || clash b.dst p.dst then d1.fault k c illegal
        else
          match badSource b.bad p.src with
          | some f => d1.fault k c f
          | none =>
            match op d1 k c b.old w with
            | .stall => d
            | .fault d2 f => d2.fault k c f
            | .done d2 =>
              match stepFault x1 none with
              | some f => d1.fault k c f
              | none => if (d2.ctxAt k c).mode = .running then (d2.written k c p.dst).endBundle k c none else d2
            | .jump d2 pc =>
              match stepFault x1 (some pc) with
              | some f => d1.fault k c f
              | none => (d2.written k c p.dst).endBundle k c (some pc)
            | .rep d2 n =>
              let d2 := d2.endBundle k c none
              let x2 := d2.ctxAt k c
              if x2.mode = .running then d2.setCtx k c { x2 with rep := some n } else d2
            | .stay d2 =>
              let d2 := (d2.runCycles k c 1).engPmc k 1 1
              d2.setCtx k c { d2.ctxAt k c with bundle := none }

/-- Issue a slot-B instruction that touches only registers. -/
def issueBReg (d : Dev) (k : Nat) (w : SlotWord) (plan : RegFile → SlotWord → Option Plan) : Dev :=
  d.issueB k w (fun r w => (plan r w).map (fun p => ⟨p.src, p.dst, true⟩)) (fun d k c old w =>
    match plan old w with
    | none => .fault d illegal
    | some p =>
      let x := d.ctxAt k c
      let r := p.run old (noFlags x.r)
      .done (d.setCtx k c { x with r := withFlags x.r r }))

end Dev
end Sys2Proof.Machine
end

