-- ==== Sys2Proof/Machine/VecOps.lean ====
section
/-! DEFINITION. Sys2Proof/Machine/VecOps.lean: the vector, accumulator and scalar register instructions as plans (R113 to R120). -/
namespace Sys2Proof.Machine

/-- The encoding has only the given fields: F1 to F4 used or 0, X within a mask (R107). -/
def uses (w : SlotWord) (u2 u3 u4 uk : Bool) (xm : Nat) : Bool :=
  (u2 || w.f2 == 0) && (u3 || w.f3 == 0) && (u4 || w.f4 == 0) && (uk || w.k == 0) && xOnly w xm

/-- A lane-by-lane instruction of one source. -/
def lane1 (w : SlotWord) (ok : Bool) (r0 : RegFile) (f : BitVec 32 → BitVec 32 × Bool) : Option Plan :=
  if ok then
    let m := enabled r0 w
    some ⟨kSrc w ++ [srcV (f2 w) m], [⟨1, f1 w, m⟩], fun old r => writeSat r (f1 w) m (fun l => f (lane (old.getV (f2 w)) l))⟩
  else none

/-- A lane-by-lane instruction of two sources. -/
def lane2 (w : SlotWord) (ok : Bool) (r0 : RegFile) (f : BitVec 32 → BitVec 32 → BitVec 32 × Bool) : Option Plan :=
  if ok then
    let m := enabled r0 w
    some ⟨kSrc w ++ [srcV (f2 w) m, srcV (f3 w) m], [⟨1, f1 w, m⟩],
      fun old r => writeSat r (f1 w) m (fun l => f (lane (old.getV (f2 w)) l) (lane (old.getV (f3 w)) l))⟩
  else none

/-- A result that sets no flag. -/
def plain (x : BitVec 32) : BitVec 32 × Bool := (x, false)

def planVadd (r : RegFile) (w : SlotWord) : Option Plan := lane2 w (uses w true true false true 0) r (fun a b => plain (a + b))
def planVadds (r : RegFile) (w : SlotWord) : Option Plan := lane2 w (uses w true true false true 0) r (fun a b => sat32 (a.toInt + b.toInt))
def planVsub (r : RegFile) (w : SlotWord) : Option Plan := lane2 w (uses w true true false true 0) r (fun a b => plain (a - b))
def planVsubs (r : RegFile) (w : SlotWord) : Option Plan := lane2 w (uses w true true false true 0) r (fun a b => sat32 (a.toInt - b.toInt))
def planVmulq (r : RegFile) (w : SlotWord) : Option Plan :=
  lane2 w (uses w true true false true 0) r (fun a b => sat32 (roundShift (a.toInt * b.toInt) 31))
def planVand (r : RegFile) (w : SlotWord) : Option Plan := lane2 w (uses w true true false true 0) r (fun a b => plain (a &&& b))
def planVor (r : RegFile) (w : SlotWord) : Option Plan := lane2 w (uses w true true false true 0) r (fun a b => plain (a ||| b))
def planVxor (r : RegFile) (w : SlotWord) : Option Plan := lane2 w (uses w true true false true 0) r (fun a b => plain (a ^^^ b))
def planVandn (r : RegFile) (w : SlotWord) : Option Plan := lane2 w (uses w true true false true 0) r (fun a b => plain (a &&& ~~~b))

/-- A shift: the count is X[4:0] when X[5] is 1, else vb[4:0] lane by lane, F3 naming vb. -/
def shiftPlan (w : SlotWord) (r0 : RegFile) (f : BitVec 32 → Nat → BitVec 32 × Bool) : Option Plan :=
  if xb w 5 then lane1 w (uses w true false false true (ones 0 6)) r0 (fun a => f a (xf w 0 5))
  else lane2 w (uses w true true false true 0) r0 (fun a b => f a (b.toNat % 32))

def planVshl (r : RegFile) (w : SlotWord) : Option Plan := shiftPlan w r (fun a n => plain (a <<< n))
def planVshr (r : RegFile) (w : SlotWord) : Option Plan := shiftPlan w r (fun a n => plain (a >>> n))
def planVsra (r : RegFile) (w : SlotWord) : Option Plan := shiftPlan w r (fun a n => plain (a.sshiftRight n))
def planVshls (r : RegFile) (w : SlotWord) : Option Plan := shiftPlan w r (fun a n => sat32 (a.toInt * ((2 ^ n : Nat) : Int)))

/-- Smaller, signed or unsigned. -/
def lt32 (u : Bool) (a b : BitVec 32) : Bool := if u then a.ult b else a.slt b

def planVmin (r : RegFile) (w : SlotWord) : Option Plan :=
  lane2 w (uses w true true false true 1) r (fun a b => plain (if lt32 (xb w 0) b a then b else a))
def planVmax (r : RegFile) (w : SlotWord) : Option Plan :=
  lane2 w (uses w true true false true 1) r (fun a b => plain (if lt32 (xb w 0) a b then b else a))
def planVabs (r : RegFile) (w : SlotWord) : Option Plan :=
  lane1 w (uses w true false false true 0) r (fun a => sat32 (if a.toInt < 0 then -a.toInt else a.toInt))
def planVneg (r : RegFile) (w : SlotWord) : Option Plan := lane1 w (uses w true false false true 0) r (fun a => sat32 (-a.toInt))
def planVsat (r : RegFile) (w : SlotWord) : Option Plan :=
  lane1 w (uses w true false false true (ones 0 5) && xf w 0 5 != 0) r
    (fun a => (BitVec.ofInt 32 (satTo (xf w 0 5 + 1) a.toInt), outside (xf w 0 5 + 1) a.toInt))

/-- The conversions of VCVT (R114). -/
def vcvt (form : Nat) (a : BitVec 32) : BitVec 32 × Bool :=
  match form with
  | 0 => plain (BitVec.ofInt 32 (signedOf 16 a.toNat))
  | 1 => plain (BitVec.ofInt 32 (signedOf 24 a.toNat))
  | 2 => plain (a <<< 16)
  | 3 => plain (a <<< 8)
  | 4 => (BitVec.ofInt 32 (satTo 16 (roundShift a.toInt 16)), outside 16 (roundShift a.toInt 16))
  | 5 => (BitVec.ofInt 32 (satTo 24 (roundShift a.toInt 8)), outside 24 (roundShift a.toInt 8))
  | _ => plain (BitVec.ofNat 32 (netOf 4 a.toNat |> ofBytes))

def planVcvt (r : RegFile) (w : SlotWord) : Option Plan :=
  lane1 w (uses w true false false true (ones 0 4) && decide (xf w 0 4 < 7)) r (vcvt (xf w 0 4))

/-- VSEL writes every lane and reads va where the mask is 1 and vb elsewhere. -/
def planVsel (r : RegFile) (w : SlotWord) : Option Plan :=
  if uses w true true false true 0 then
    let m := enabled r w
    some ⟨kSrc w ++ [srcV (f2 w) m, srcV (f3 w) (~~~m)], [⟨1, f1 w, 0xFFFFFFFF⟩],
      fun old r => writeV r (f1 w) 0xFFFFFFFF (fun l => lane (old.getV (if m.getLsbD l then f2 w else f3 w)) l)⟩
  else none

/-- VCMP's conditions. -/
def vcond (c : Nat) (a b : BitVec 32) : Bool :=
  match c with
  | 0 => a == b
  | 1 => a != b
  | 2 => a.slt b
  | 3 => a.sle b
  | 4 => a.ult b
  | _ => a.ule b

def planVcmp (r : RegFile) (w : SlotWord) : Option Plan :=
  if uses w true true false true (ones 0 3) && decide (xf w 0 3 < 6) && decide (f1 w < 8) then
    let m := enabled r w
    some ⟨kSrc w ++ [srcV (f2 w) m, srcV (f3 w) m], [⟨3, f1 w, 1⟩],
      fun old r => r.setK (f1 w) (maskOf (fun l => m.getLsbD l && vcond (xf w 0 3) (lane (old.getV (f2 w)) l) (lane (old.getV (f3 w)) l)))⟩
  else none

def planVmov (r : RegFile) (w : SlotWord) : Option Plan := lane1 w (uses w true false false true 0) r plain

def planVbcast (r : RegFile) (w : SlotWord) : Option Plan :=
  if uses w true false false true 0 then
    let m := enabled r w
    some ⟨kSrc w ++ [srcS (f2 w)], [⟨1, f1 w, m⟩], fun old r => writeV r (f1 w) m (fun _ => (old.getS (f2 w)).setWidth 32)⟩
  else none

def planVswz (r : RegFile) (w : SlotWord) : Option Plan :=
  if uses w true false false true (ones 0 5) then
    let m := enabled r w
    let from_ := fun l => l ^^^ xf w 0 5
    some ⟨kSrc w ++ [srcV (f2 w) (maskOf (fun l => m.getLsbD (from_ l)))], [⟨1, f1 w, m⟩],
      fun old r => writeV r (f1 w) m (fun l => lane (old.getV (f2 w)) (from_ l))⟩
  else none

/-! ### Accumulators and complex values (R115 to R119) -/

/-- A lane as a signed or an unsigned integer. -/
def laneInt (u : Bool) (v : VReg) (l : Nat) : Int := if u then ((lane v l).toNat : Int) else (lane v l).toInt

/-- The value with a sign. -/
def signIf (n : Bool) (z : Int) : Int := if n then -z else z

def planVmac (r : RegFile) (w : SlotWord) : Option Plan :=
  if uses w true true false true (ones 0 2) && decide (f1 w < 8) then
    let m := enabled r w
    some ⟨kSrc w ++ [srcA (f1 w) m, srcV (f2 w) m, srcV (f3 w) m], [⟨2, f1 w, m⟩],
      fun old r => accumulate r (f1 w) m (fun l => (lane (old.getA (f1 w)) l).add
        (signIf (xb w 0) (laneInt (xb w 1) (old.getV (f2 w)) l * laneInt (xb w 1) (old.getV (f3 w)) l)))⟩
  else none

def planVmac2 (r : RegFile) (w : SlotWord) : Option Plan :=
  if uses w true true true true (ones 0 6) && decide (f1 w < 8) then
    let m := enabled r w
    let e := xf w 0 5
    some ⟨kSrc w ++ [srcA (f1 w) m, srcV (f2 w) m, srcV (f3 w) m, srcV (f4 w) m, srcV e m], [⟨2, f1 w, m⟩],
      fun old r => accumulate r (f1 w) m (fun l => (lane (old.getA (f1 w)) l).add
        (signIf (xb w 5) (laneInt false (old.getV (f2 w)) l * laneInt false (old.getV (f3 w)) l
          + laneInt false (old.getV (f4 w)) l * laneInt false (old.getV e) l)))⟩
  else none

/-- The part of the complex product of lane pairs that lane `l` takes (R116). -/
def cmul (conj : Bool) (a b : VReg) (l : Nat) : Int :=
  let j := l / 2 * 2
  let ar := laneInt false a j
  let ai := laneInt false a (j + 1)
  let br := laneInt false b j
  let bi := signIf conj (laneInt false b (j + 1))
  if l % 2 = 0 then ar * br - ai * bi else ar * bi + ai * br

def planVcmac (r : RegFile) (w : SlotWord) : Option Plan :=
  if uses w true true false true (ones 0 2) && decide (f1 w < 8) then
    let m := pairMask (enabled r w)
    some ⟨kSrc w ++ [srcA (f1 w) m, srcV (f2 w) m, srcV (f3 w) m], [⟨2, f1 w, m⟩],
      fun old r => accumulate r (f1 w) m (fun l => (lane (old.getA (f1 w)) l).add
        (signIf (xb w 1) (cmul (xb w 0) (old.getV (f2 w)) (old.getV (f3 w)) l)))⟩
  else none

def planVcmul (r : RegFile) (w : SlotWord) : Option Plan :=
  if uses w true true false true 1 then
    let m := pairMask (enabled r w)
    some ⟨kSrc w ++ [srcV (f2 w) m, srcV (f3 w) m], [⟨1, f1 w, m⟩],
      fun old r => writeSat r (f1 w) m (fun l => sat32 (roundShift (cmul (xb w 0) (old.getV (f2 w)) (old.getV (f3 w)) l) 31))⟩
  else none

/-- Output `i` of the butterfly at lane `l` from the inputs x0 to x3, exactly; `s` is −1 for the inverse (R117). -/
def butterfly (x : Nat → VReg) (s : Int) (i l : Nat) : Int :=
  let j := l / 2 * 2
  let re := fun n => laneInt false (x n) j
  let im := fun n => laneInt false (x n) (j + 1)
  match i, l % 2 with
  | 0, 0 => re 0 + re 1 + re 2 + re 3
  | 0, _ => im 0 + im 1 + im 2 + im 3
  | 1, 0 => re 0 + s * im 1 - re 2 - s * im 3
  | 1, _ => im 0 - s * re 1 - im 2 + s * re 3
  | 2, 0 => re 0 - re 1 + re 2 - re 3
  | 2, _ => im 0 - im 1 + im 2 - im 3
  | _, 0 => re 0 - s * im 1 - re 2 + s * im 3
  | _, _ => im 0 + s * re 1 - im 2 - s * re 3

def planBfly4 (r : RegFile) (w : SlotWord) : Option Plan :=
  if uses w true false false true (ones 0 3) && decide (xf w 0 2 < 3) && f1 w % 4 == 0 && f2 w % 4 == 0 then
    let m := pairMask (enabled r w)
    let s : Int := if xb w 2 then -1 else 1
    some ⟨kSrc w ++ (List.range 4).map (fun i => srcV (f2 w + i) m), (List.range 4).map (fun i => ⟨1, f1 w + i, m⟩),
      fun old r => (List.range 4).foldl (fun r i => writeSat r (f1 w + i) m (fun l =>
        sat32 (roundShift (butterfly (fun n => old.getV (f2 w + n)) s i l) (xf w 0 2)))) r⟩
  else none

def planVacs (r : RegFile) (w : SlotWord) : Option Plan :=
  if uses w true true true true (ones 0 8) then
    let m := enabled r w
    let e := xf w 0 5
    let dn := xf w 5 2
    let sumA := fun (old : RegFile) l => sat32 ((lane (old.getV (f2 w)) l).toInt + (lane (old.getV (f3 w)) l).toInt)
    let sumB := fun (old : RegFile) l => sat32 ((lane (old.getV (f4 w)) l).toInt + (lane (old.getV e) l).toInt)
    let pick := fun old l => lt32 false (if xb w 7 then (sumB old l).1 else (sumA old l).1) (if xb w 7 then (sumA old l).1 else (sumB old l).1)
    some ⟨kSrc w ++ [srcV (f2 w) m, srcV (f3 w) m, srcV (f4 w) m, srcV e m, srcD dn m], [⟨1, f1 w, m⟩, ⟨5, dn, m⟩],
      fun old r =>
        let r := writeSat r (f1 w) m (fun l => (if pick old l then (sumB old l).1 else (sumA old l).1, (sumA old l).2 || (sumB old l).2))
        r.setD dn (onLanes m (r.getD dn) (fun l => (lane (old.getD dn) l <<< 1) ||| (if pick old l then 1 else 0)))⟩
  else none

def planAclr (r : RegFile) (w : SlotWord) : Option Plan :=
  if uses w false false false true 0 && decide (f1 w < 8) then
    let m := enabled r w
    some ⟨kSrc w, [⟨2, f1 w, m⟩], fun _ r => r.setA (f1 w) (onLanes m (r.getA (f1 w)) (fun _ => .zero))⟩
  else none

def planAmov (r : RegFile) (w : SlotWord) : Option Plan :=
  if uses w true false false true (ones 0 6) && decide (f1 w < 8) then
    let m := enabled r w
    some ⟨kSrc w ++ [srcV (f2 w) m], [⟨2, f1 w, m⟩],
      fun old r => accumulate r (f1 w) m (fun l => Acc84.zero.add (laneInt false (old.getV (f2 w)) l * ((2 ^ xf w 0 6 : Nat) : Int)))⟩
  else none

def planAadd (r : RegFile) (w : SlotWord) : Option Plan :=
  if uses w true false false true 0 && decide (f1 w < 8) && decide (f2 w < 8) then
    let m := enabled r w
    some ⟨kSrc w ++ [srcA (f1 w) m, srcA (f2 w) m], [⟨2, f1 w, m⟩],
      fun old r => accumulate r (f1 w) m (fun l => (lane (old.getA (f1 w)) l).addAcc (lane (old.getA (f2 w)) l))⟩
  else none

def planAaddv (r : RegFile) (w : SlotWord) : Option Plan :=
  if uses w true false false true (ones 0 6) && decide (f1 w < 8) then
    let m := enabled r w
    some ⟨kSrc w ++ [srcA (f1 w) m, srcV (f2 w) m], [⟨2, f1 w, m⟩],
      fun old r => accumulate r (f1 w) m (fun l => (lane (old.getA (f1 w)) l).add
        (laneInt false (old.getV (f2 w)) l * ((2 ^ xf w 0 6 : Nat) : Int)))⟩
  else none

/-- The widths of narrowing: 0 for 16, 1 for 32, 2 for 48. -/
def narWidth (c : Nat) : Nat := 16 * (c + 1)

def planNarw (r : RegFile) (w : SlotWord) : Option Plan :=
  if uses w true false false true (ones 0 8) && decide (f2 w < 8) && decide (xf w 6 2 < 3) && (xf w 6 2 != 2 || f1 w % 2 == 0) then
    let m := enabled r w
    let nar := fun (old : RegFile) l => (lane (old.getA (f2 w)) l).narrow (xf w 0 6) (narWidth (xf w 6 2))
    let two := xf w 6 2 == 2
    some ⟨kSrc w ++ [srcA (f2 w) m], ⟨1, f1 w, m⟩ :: (if two then [⟨1, f1 w + 1, m⟩] else []),
      fun old r =>
        let r := writeV r (f1 w) m (fun l => lane32 (nar old l).v)
        let r := if two then writeV r (f1 w + 1) m (fun l => lane32 ((nar old l).v / ((2 ^ 32 : Nat) : Int))) else r
        r.flag (maskOf (fun l => m.getLsbD l && (nar old l).ovf)) (maskOf (fun l => m.getLsbD l && (nar old l).lost)) 0⟩
  else none

/-! ### Scalars, masks, pointers (R120) -/

/-- A scalar instruction of two sources. -/
def scalar2 (w : SlotWord) (f : BitVec 64 → BitVec 64 → BitVec 64) : Option Plan :=
  if uses w true true false false 0 then
    some ⟨[srcS (f2 w), srcS (f3 w)], [⟨0, f1 w, 1⟩], fun old r => r.setS (f1 w) (f (old.getS (f2 w)) (old.getS (f3 w)))⟩
  else none

def b64 (b : Bool) : BitVec 64 := if b then 1 else 0

def planAdd (_ : RegFile) (w : SlotWord) : Option Plan := scalar2 w (fun a b => a + b)
def planSub (_ : RegFile) (w : SlotWord) : Option Plan := scalar2 w (fun a b => a - b)
def planAnd (_ : RegFile) (w : SlotWord) : Option Plan := scalar2 w (fun a b => a &&& b)
def planOr (_ : RegFile) (w : SlotWord) : Option Plan := scalar2 w (fun a b => a ||| b)
def planXor (_ : RegFile) (w : SlotWord) : Option Plan := scalar2 w (fun a b => a ^^^ b)
def planSll (_ : RegFile) (w : SlotWord) : Option Plan := scalar2 w (fun a b => a <<< (b.toNat % 64))
def planSrl (_ : RegFile) (w : SlotWord) : Option Plan := scalar2 w (fun a b => a >>> (b.toNat % 64))
def planSra (_ : RegFile) (w : SlotWord) : Option Plan := scalar2 w (fun a b => a.sshiftRight (b.toNat % 64))
def planMul (_ : RegFile) (w : SlotWord) : Option Plan := scalar2 w (fun a b => a * b)
def planMulh (_ : RegFile) (w : SlotWord) : Option Plan := scalar2 w (fun a b => BitVec.ofInt 64 (a.toInt * b.toInt / ((2 ^ 64 : Nat) : Int)))
def planSlt (_ : RegFile) (w : SlotWord) : Option Plan := scalar2 w (fun a b => b64 (a.slt b))
def planSltu (_ : RegFile) (w : SlotWord) : Option Plan := scalar2 w (fun a b => b64 (a.ult b))
def planSeq (_ : RegFile) (w : SlotWord) : Option Plan := scalar2 w (fun a b => b64 (a == b))

def planAddi (_ : RegFile) (w : SlotWord) : Option Plan :=
  if uses w true false false false (ones 0 24) then
    some ⟨[srcS (f2 w)], [⟨0, f1 w, 1⟩], fun old r => r.setS (f1 w) (old.getS (f2 w) + BitVec.ofInt 64 (ximm w))⟩
  else none

/-- LI with p = 0, 1 or 2: bits [23:0], [47:24] or [63:48] take the immediate. -/
def planLi (_ : RegFile) (w : SlotWord) : Option Plan :=
  let p := xf w 24 2
  if uses w false false false false (if p = 2 then ones 0 16 + ones 24 2 else ones 0 26) && decide (p < 3) then
    some ⟨[srcS (f1 w)], [⟨0, f1 w, 1⟩], fun old r =>
      r.setS (f1 w) (BitVec.ofNat 64 (withBits (old.getS (f1 w)).toNat (24 * p) (if p = 2 then 16 else 24) (xf w 0 24)))⟩
  else none

def planShi (_ : RegFile) (w : SlotWord) : Option Plan :=
  if uses w true false false false (ones 0 8) && decide (xf w 6 2 < 3) then
    some ⟨[srcS (f2 w)], [⟨0, f1 w, 1⟩], fun old r =>
      let a := old.getS (f2 w)
      let n := xf w 0 6
      r.setS (f1 w) (match xf w 6 2 with
        | 0 => a <<< n
        | 1 => a >>> n
        | _ => a.sshiftRight n)⟩
  else none

def planCset (_ : RegFile) (w : SlotWord) : Option Plan :=
  if uses w true false false false 0 && decide (f1 w < 8) then
    some ⟨[srcS (f2 w)], [⟨4, f1 w, 1⟩], fun old r => r.setC (f1 w) (old.getS (f2 w))⟩
  else none

def planCget (_ : RegFile) (w : SlotWord) : Option Plan :=
  if uses w true false false false 0 && decide (f2 w < 8) then
    some ⟨[srcC (f2 w)], [⟨0, f1 w, 1⟩], fun old r => r.setS (f1 w) (old.getC (f2 w))⟩
  else none

def planCadd (_ : RegFile) (w : SlotWord) : Option Plan :=
  if uses w true false false false (ones 0 24) && decide (f1 w < 8) then
    some ⟨[srcC (f1 w), srcS (f2 w)], [⟨4, f1 w, 1⟩], fun old r =>
      r.setC (f1 w) (cStep (old.getC (f1 w)) ((old.getS (f2 w)).toInt + ximm w))⟩
  else none

def planKset (_ : RegFile) (w : SlotWord) : Option Plan :=
  if uses w true false false false 0 && decide (f1 w < 8) then
    some ⟨[srcS (f2 w)], [⟨3, f1 w, 1⟩], fun old r => r.setK (f1 w) ((old.getS (f2 w)).setWidth 32)⟩
  else none

def planKget (_ : RegFile) (w : SlotWord) : Option Plan :=
  if uses w true false false false 0 && decide (f2 w < 8) then
    some ⟨[srcK (f2 w)], [⟨0, f1 w, 1⟩], fun old r => r.setS (f1 w) ((old.getK (f2 w)).setWidth 64)⟩
  else none

/-- One lane as a mask. -/
def oneLane (l : Nat) : BitVec 32 := BitVec.ofNat 32 (2 ^ l)

def planVext (_ : RegFile) (w : SlotWord) : Option Plan :=
  if uses w true false false false (ones 0 5) then
    some ⟨[srcV (f2 w) (oneLane (xf w 0 5))], [⟨0, f1 w, 1⟩], fun old r =>
      r.setS (f1 w) ((lane (old.getV (f2 w)) (xf w 0 5)).signExtend 64)⟩
  else none

def planVins (_ : RegFile) (w : SlotWord) : Option Plan :=
  if uses w true false false false (ones 0 5) then
    some ⟨[srcS (f2 w)], [⟨1, f1 w, oneLane (xf w 0 5)⟩], fun old r =>
      writeV r (f1 w) (oneLane (xf w 0 5)) (fun _ => (old.getS (f2 w)).setWidth 32)⟩
  else none

/-- Leading bits equal to the sign bit, the sign bit not counted. -/
def clsOf (a : BitVec 32) : Nat := ((List.range 31).map (fun i => a.getLsbD (30 - i))).takeWhile (· == a.getLsbD 31) |>.length

def planVcls (r : RegFile) (w : SlotWord) : Option Plan :=
  if uses w true false false true 0 then
    let m := enabled r w
    some ⟨kSrc w ++ [srcV (f2 w) m], [⟨0, f1 w, 1⟩], fun old r =>
      r.setS (f1 w) (BitVec.ofNat 64 ((List.range 32).foldl (fun n l => if m.getLsbD l then min n (clsOf (lane (old.getV (f2 w)) l)) else n) 31))⟩
  else none

def planDget (_ : RegFile) (w : SlotWord) : Option Plan :=
  if uses w true false false false (ones 0 5) && decide (f2 w < 4) then
    some ⟨[srcD (f2 w) (oneLane (xf w 0 5))], [⟨0, f1 w, 1⟩], fun old r =>
      r.setS (f1 w) ((lane (old.getD (f2 w)) (xf w 0 5)).setWidth 64)⟩
  else none

def planDclr (_ : RegFile) (w : SlotWord) : Option Plan :=
  if uses w false false false false 0 && decide (f1 w < 4) then
    some ⟨[], [⟨5, f1 w, 0xFFFFFFFF⟩], fun _ r => r.setD (f1 w) (.replicate 32 0)⟩
  else none

/-- NOP: every field 0. -/
def planNop (_ : RegFile) (w : SlotWord) : Option Plan :=
  if uses w false false false false 0 && w.f1 == 0 then some ⟨[], [], fun _ r => r⟩ else none

end Sys2Proof.Machine
end

