-- ==== Sys2Proof/Machine/EngOps.lean ====
section
/-! DEFINITION. Sys2Proof/Machine/EngOps.lean: the instructions that reach the room, the gather unit, the hall input, the stream queue and the control state of a context (R121 to R146). -/
namespace Sys2Proof.Machine
namespace Dev

/-! ### The room -/

/-- A read of room bytes at given offsets, or the offset of the first bad word (R91, R430). -/
def roomBytes (d : Dev) (k : Nat) (offs : List Nat) : Dev × Except Nat (List Byte) :=
  let keys := offs.map (roomAddr k)
  let units := cellUnits (keys.map (fun a => (a, 0)))
  let (d, bad) := d.readUnits k units
  match bad with
  | [] => (d, .ok (keys.map d.byteAt))
  | w :: _ => (d, .error (w - roomAddr k 0))

/-- Offsets of `n` bytes from `a`. -/
def span (a n : Nat) : List Nat := (List.range n).map (fun i => a + i)

/-- A read of 4 B words at given offsets. -/
def roomWords (d : Dev) (k : Nat) (offs : List Nat) : Dev × Except Nat (List (BitVec 32)) :=
  match d.roomBytes k (offs.flatMap (fun a => span a 4)) with
  | (d, .error a) => (d, .error a)
  | (d, .ok l) => (d, .ok ((List.range offs.length).map (fun i => BitVec.ofNat 32 (ofBytes (slice l (4 * i) 4)))))

/-- A write of room bytes, or the offset of the first bad word (R437). -/
def roomWrite (d : Dev) (k : Nat) (l : List (Nat × Byte)) : Dev × Option Nat :=
  let (d, bad) := d.writeCells k (l.map (fun c => (roomAddr k c.1, c.2)))
  (d, bad.map (fun w => w - roomAddr k 0))

/-- Change the live registers of a context. -/
def setRegs (d : Dev) (k c : Nat) (f : RegFile → RegFile) : Dev := d.setCtx k c { d.ctxAt k c with r := f (d.ctxAt k c).r }

/-- The address sa + sext(X[23:0]) (R121, R122). -/
def scalarAddr (old : RegFile) (i : Nat) (w : SlotWord) : Nat := ((old.getS i) + BitVec.ofInt 64 (ximm w)).toNat

/-- Whether the bytes from `a` lie in the room. -/
def inRoom (a n : Nat) : Bool := decide (a + n ≤ 0x800000)

/-! ### LD and ST (R121, R123, R125) -/

/-- The access size of LD and ST. -/
def ldSize (w : SlotWord) : Nat := 2 ^ xf w 24 2

/-- What LD makes of the bytes it read. -/
def ldValue (w : SlotWord) (l : List Byte) : BitVec 64 :=
  if xb w 26 then BitVec.ofNat 64 (ofBytes l) else BitVec.ofInt 64 (signedOf (8 * l.length) (ofBytes l))

def planLd (_ : RegFile) (w : SlotWord) : Option BPlan :=
  if uses w true false false false (ones 0 28) then some ⟨[srcS (f2 w)], [⟨0, f1 w, 1⟩], !xb w 27⟩ else none

def planSt (_ : RegFile) (w : SlotWord) : Option BPlan :=
  if uses w true false false false (ones 0 26 + ones 27 1) then some ⟨[srcS (f1 w), srcS (f2 w)], [], !xb w 27⟩ else none

/-- LD from the room. -/
def ldRoom (d : Dev) (k c : Nat) (old : RegFile) (w : SlotWord) : BRes Dev :=
  let a := scalarAddr old (f2 w) w
  let n := ldSize w
  if a % n ≠ 0 ∨ inRoom a n = false then .fault d (violation a)
  else
    match d.roomBytes k (span a n) with
    | (d, .error x) => .fault d (roomUe x)
    | (d, .ok l) => .done (d.setRegs k c (fun r => r.setS (f1 w) (ldValue w l)))

/-- ST to the room. -/
def stRoom (d : Dev) (k : Nat) (old : RegFile) (w : SlotWord) : BRes Dev :=
  let a := scalarAddr old (f1 w) w
  let n := ldSize w
  if a % n ≠ 0 ∨ inRoom a n = false then .fault d (violation a)
  else
    match d.roomWrite k ((span a n).zip (bytesOf n (old.getS (f2 w)).toNat)) with
    | (d, some x) => .fault d (roomUe x)
    | (d, none) => .done d

/-! ### VLD and VST (R122, R123) -/

/-- The address mode. -/
def vMode (w : SlotWord) : Nat := xf w 24 2

def vUses (w : SlotWord) (bbit : Bool) : Bool :=
  decide (vMode w < 3) && w.f4 == 0 && xOnly w (ones 0 26 + (if bbit then ones 26 1 else 0))
    && (if vMode w = 0 then w.f3 == 0 else w.f2 == 0 && decide (f3 w < 8))

/-- The registers that give the address. -/
def vSrc (w : SlotWord) : List RegRef := if vMode w = 0 then [srcS (f2 w)] else [srcC (f3 w)]
/-- The pointer that mode 2 updates. -/
def vDst (w : SlotWord) : List RegRef := if vMode w = 2 then [⟨4, f3 w, 1⟩] else []

/-- The room offset of byte `x` of the vector; it may lie outside the room. -/
def vAddr (old : RegFile) (w : SlotWord) (x : Int) : Int :=
  match vMode w with
  | 0 => (old.getS (f2 w) + BitVec.ofInt 64 (ximm w)).toInt + x
  | 1 => cAddr (old.getC (f3 w)) (ximm w + x)
  | _ => cAddr (old.getC (f3 w)) x

/-- Mode 2 adds the offset to INDEX. -/
def vStep (w : SlotWord) (old r : RegFile) : RegFile :=
  if vMode w = 2 then r.setC (f3 w) (cStep (old.getC (f3 w)) (ximm w)) else r

/-- What is wrong with the access, if anything: its own room offset and every lane it accesses must lie in the room (R123; DEDUCED: the offset counts also where lane 0 is not enabled). -/
def vFault (old : RegFile) (w : SlotWord) (xs : List Int) : Option FaultInfo :=
  if vMode w ≠ 0 ∧ cLegal (old.getC (f3 w)) = false then some illegal
  else if vAddr old w 0 % 4 ≠ 0 then some (violation (unsignedOf 40 (vAddr old w 0)))
  else
    match ((0 : Int) :: xs).find? (fun x => decide (vAddr old w x < 0) || decide (0x800000 ≤ vAddr old w x)) with
    | some x => some (violation (unsignedOf 40 (vAddr old w x)))
    | none => none

def planVld (r : RegFile) (w : SlotWord) : Option BPlan :=
  if vUses w true then some ⟨kSrc w ++ vSrc w, ⟨1, f1 w, enabled r w⟩ :: vDst w, true⟩ else none

def planVst (r : RegFile) (w : SlotWord) : Option BPlan :=
  if vUses w false then some ⟨kSrc w ++ vSrc w ++ [srcV (f1 w) (enabled r w)], vDst w, true⟩ else none

/-- The enabled lanes in order. -/
def lanesOf (m : BitVec 32) : List Nat := (List.range 32).filter (fun l => m.getLsbD l)

def vld (d : Dev) (k c : Nat) (old : RegFile) (w : SlotWord) : BRes Dev :=
  let m := enabled old w
  let ls := lanesOf m
  let one := xb w 26
  let xs : List Int := if ls.isEmpty then [] else if one then [0] else ls.map (fun (l : Nat) => 4 * (l : Int))
  match vFault old w xs with
  | some f => .fault d f
  | none =>
    match d.roomWords k (xs.map (fun x => (vAddr old w x).toNat)) with
    | (d, .error x) => .fault d (roomUe x)
    | (d, .ok ws) =>
      .done (d.setRegs k c (fun r => vStep w old (writeV r (f1 w) m (fun l =>
        if one then ws.headD 0 else (ws.getD (ls.takeWhile (· != l)).length 0)))))

/-- The enabled lanes whose word VST stores: where a circular buffer makes two of them meet in one word, one of the two, as bits of `f` say. -/
def vstLanes (old : RegFile) (w : SlotWord) (ls : List Nat) (f : Nat) : List Nat :=
  ls.filter (fun (l : Nat) => match ls.find? (fun (m : Nat) => m != l && vAddr old w (4 * (m : Int)) == vAddr old w (4 * (l : Int))) with
    | none => true
    | some m => bitOf f (min l m) == decide (m < l))

/-- VST. Which of two lanes that meet in one word stands is a free value: the spec gives no order. -/
def vst (d : Dev) (k c : Nat) (old : RegFile) (w : SlotWord) : BRes Dev :=
  let ls := lanesOf (enabled old w)
  match vFault old w (ls.map (fun (l : Nat) => 4 * (l : Int))) with
  | some f => .fault d f
  | none =>
    let (f, d) := if (ls.map (fun (l : Nat) => vAddr old w (4 * (l : Int)))).Nodup then (0, d) else d.takeFree
    let cells := (vstLanes old w ls f).flatMap (fun (l : Nat) =>
      (span (vAddr old w (4 * (l : Int))).toNat 4).zip (bytesOf 4 (lane (old.getV (f1 w)) l).toNat))
    match d.roomWrite k cells with
    | (d, some x) => .fault d (roomUe x)
    | (d, none) => .done (d.setRegs k c (vStep w old))

/-! ### Lane-0 arithmetic (R137, R138) -/

/-- Write lane `l` of accumulator `ad` with a result and its flags. -/
def accLane (r : RegFile) (ad l : Nat) (x : AccRes) : RegFile := accumulate r ad (oneLane l) (fun _ => x)

def planTapmove (_ : RegFile) (w : SlotWord) : Option BPlan :=
  if uses w true true false false 0 && decide (f1 w < 8) && w.f2 != w.f3 then
    some ⟨[srcA (f1 w) 1, srcS (f2 w), srcS (f3 w)], [⟨2, f1 w, 1⟩, ⟨0, f2 w, 1⟩, ⟨0, f3 w, 1⟩], true⟩
  else none

def tapmove (d : Dev) (k c : Nat) (old : RegFile) (w : SlotWord) : BRes Dev :=
  let sx := (old.getS (f2 w)).toNat
  let sh := (old.getS (f3 w)).toNat
  if sx % 4 ≠ 0 ∨ inRoom sx 8 = false then .fault d (violation sx)
  else if sh % 4 ≠ 0 ∨ inRoom sh 4 = false then .fault d (violation sh)
  else
    match d.roomWords k [sx, sh] with
    | (d, .error x) => .fault d (roomUe x)
    | (d, .ok l) =>
      let x := l.headD 0
      let h := l.getD 1 0
      match d.roomWrite k ((span (sx + 4) 4).zip (bytesOf 4 x.toNat)) with
      | (d, some a) => .fault d (roomUe a)
      | (d, none) =>
        .done (d.setRegs k c (fun r =>
          let r1 := accLane (noFlags r) (f1 w) 0 ((lane (old.getA (f1 w)) 0).add (x.toInt * h.toInt))
          ((withFlags r r1).setS (f2 w) (old.getS (f2 w) - 4)).setS (f3 w) (old.getS (f3 w) + 4)))

def planSmac (_ : RegFile) (w : SlotWord) : Option Plan :=
  if uses w true true false false 0 && decide (f1 w < 8) then
    some ⟨[srcA (f1 w) 1, srcS (f2 w), srcS (f3 w)], [⟨2, f1 w, 1⟩], fun old r =>
      accLane r (f1 w) 0 ((lane (old.getA (f1 w)) 0).add
        (((old.getS (f2 w)).setWidth 32).toInt * ((old.getS (f3 w)).setWidth 32).toInt))⟩
  else none

def planNars (_ : RegFile) (w : SlotWord) : Option Plan :=
  if uses w true false false false (ones 0 14) && decide (f2 w < 8) && decide (xf w 6 2 < 3) then
    let l := xf w 8 5
    let clr := xb w 13
    some ⟨[srcA (f2 w) (oneLane l)], ⟨0, f1 w, 1⟩ :: (if clr then [⟨2, f2 w, oneLane l⟩] else []), fun old r =>
      let n := (lane (old.getA (f2 w)) l).narrow (xf w 0 6) (narWidth (xf w 6 2))
      let r := r.setS (f1 w) (BitVec.ofInt 64 n.v)
      let r := if clr then r.setA (f2 w) (onLanes (oneLane l) (r.getA (f2 w)) (fun _ => .zero)) else r
      r.flag (if n.ovf then oneLane l else 0) (if n.lost then oneLane l else 0) 0⟩
  else none

/-! ### Settings of the slot (R127, R160) -/

/-- A landing field of the slot as it was active in period b + 1 of block `b`: the current period's value, or the previous one's. -/
def blockGet (d : Dev) (b : Nat) (f : Fld) : Nat := if d.period ≤ b + 1 then d.aget f else d.aget1 f

/-- WLEN: 0–9 and 15 act as 14. -/
def wlenOf (v : Nat) : Nat := if 10 ≤ v ∧ v ≤ 14 then v else 14

/-! ### PSTEP (R128, R129) -/

/-- Whether the form is LOAD. -/
def planPstepLoad (_ : RegFile) (w : SlotWord) : Option BPlan :=
  let tags := xb w 16
  if uses w true false false false (ones 0 20) && xf w 18 2 == 0 && decide (xf w 0 8 + (xf w 8 8 + 1) ≤ 256) && (tags || w.f2 == 0) then
    some ⟨[srcS (f1 w)] ++ (if tags then [srcS (f2 w)] else []), [], true⟩
  else none

/-- The pair entry of 16 bytes and a tag (R159). -/
def entryOf (l : List Byte) (tag : Nat) : PairEntry :=
  ⟨BitVec.ofNat 32 (ofBytes (slice l 0 4)), BitVec.ofNat 32 (ofBytes (slice l 4 4)), BitVec.ofNat 32 (ofBytes (slice l 8 4)),
    BitVec.ofNat 32 (ofBytes (slice l 12 4)), BitVec.ofNat 16 tag⟩

def pstepLoad (d : Dev) (k c : Nat) (old : RegFile) (w : SlotWord) : BRes Dev :=
  let x := d.ctxAt k c
  let cnt := xf w 8 8 + 1
  let half := if xb w 17 then
      (if d.blockGet x.block (HALL_SLOT_CFG.HALF x.slot) = 1 then 16 * d.blockGet x.block (HALL_SLOT_PT_BASE1.BASE x.slot)
        else 16 * d.blockGet x.block (HALL_SLOT_PT_BASE0.BASE x.slot))
    else 0
  let a := (old.getS (f1 w)).toNat + half
  let t := (old.getS (f2 w)).toNat
  if a % 16 ≠ 0 ∨ inRoom a (16 * cnt) = false then .fault d (violation a)
  else if xb w 16 = true ∧ (t % 2 ≠ 0 ∨ inRoom t (2 * cnt) = false) then .fault d (violation t)
  else
    match d.roomBytes k (span a (16 * cnt)) with
    | (d, .error e) => .fault d (roomUe e)
    | (d, .ok l) =>
      match (if xb w 16 then d.roomBytes k (span t (2 * cnt)) else (d, .ok [])) with
      | (d, .error e) => .fault d (roomUe e)
      | (d, .ok tl) =>
        let es := (List.range cnt).map (fun i => entryOf (slice l (16 * i) 16) (ofBytes (slice tl (2 * i) 2)))
        .done (d.setCtx k c { d.ctxAt k c with pload := (d.ctxAt k c).pload ++ [(⟨xf w 0 8, es⟩ : PairLoad)] })

/-- The oldest queued load completes (R129). -/
def pstepLoadDone (d : Dev) (k c : Nat) : Dev :=
  let x := d.ctxAt k c
  match x.pload with
  | [] => d
  | p :: t =>
    let pb := ((List.range p.es.length).zip p.es).foldl (fun v e => vput v (p.pb + e.1) e.2) x.pbuf
    d.setCtx k c { x with pload := t, pbuf := pb }

def planPstepWait (_ : RegFile) (w : SlotWord) : Option BPlan :=
  if uses w false false false false (ones 18 2) && w.f1 == 0 && xf w 18 2 == 1 then some ⟨[], [], false⟩ else none

def pstepWait (d : Dev) (k c : Nat) (_ : RegFile) (_ : SlotWord) : BRes Dev :=
  if (d.ctxAt k c).pload.isEmpty then .done d else .stall

/-! ### GATHER (R130 to R133, R164 to R168) -/

/-- A pair as one sample steps it: gain, whole delay, fraction, and whether gain and offset were clamped (R164). -/
structure Stepped where
  g : Int
  di : Nat
  f : Nat
  gsat : Bool
  clamped : Bool
  deriving DecidableEq, Repr

/-- The pair stepper: `bulk` the object's bulk delay, `wmax` the largest window offset in samples (R164). -/
def pairStep (e : PairEntry) (n bulk : Nat) (wmax : Nat) : Stepped :=
  let g := e.g.toInt + (n : Int) * e.gs.toInt
  let w := 65536 * (e.dl.toNat : Int) + (n : Int) * e.ds.toInt - 2 ^ 28 * (bulk : Int)
  let top : Int := 2 ^ 28 * (wmax : Int)
  let wc := if w < 0 then 0 else if top < w then top else w
  ⟨satTo 32 g, (wc / 2 ^ 28).toNat, (wc % 2 ^ 28).toNat, outside 32 g, decide (wc ≠ w)⟩

/-- The 4-tap coefficients at u = U / 2^16, in Q2.30 (R165). -/
def lagrange (u : Int) : List Int :=
  let o : Int := 65536
  [roundDiv (-(u * (u - o) * (u - 2 * o))) (6 * 2 ^ 18), roundDiv ((u + o) * (u - o) * (u - 2 * o)) (2 * 2 ^ 18),
    roundDiv (-((u + o) * u * (u - 2 * o))) (2 * 2 ^ 18), roundDiv ((u + o) * u * (u - o)) (6 * 2 ^ 18)]

/-- The interpolated sample and whether it saturated. -/
def interpolate (cs : List Int) (xs : List (BitVec 32)) : Int × Bool :=
  let s := roundShift ((cs.zip xs).foldl (fun a p => a + p.1 * p.2.toInt) 0) 30
  (satTo 32 s, outside 32 s)

/-- The banks that `n` words at given offsets take (R74). -/
def banksOf (offs : List Nat) : List Nat := (offs.map (fun a => a / 16 % 16)).eraseDups

/-- The replays of one cycle's ports: a port whose bank is taken goes again in the next cycle (R76). -/
def replays : Nat → List (List Nat) → Nat
  | 0, _ => 0
  | fuel + 1, ports =>
    let (_, later) := ports.foldl (fun (acc : List Nat × List (List Nat)) p =>
      if p.any (fun b => acc.1.contains b) then (acc.1, acc.2 ++ [p]) else (acc.1 ++ p, acc.2)) (([], []) : List Nat × List (List Nat))
    if later.isEmpty then 0 else later.length + replays fuel later

def planGather (r : RegFile) (w : SlotWord) : Option BPlan :=
  let np := xf w 8 3 + 1
  let lb := xf w 11 5
  let m := enabled r w
  if uses w true true false true (ones 0 17) && decide (f1 w < 8) && decide (f3 w < 8) && decide (xf w 0 8 + np ≤ 256)
      && (xb w 16 || decide (lb + np ≤ 32)) && cLegal (r.getC (f3 w)) && cLen (r.getC (f3 w)) != 0 then
    let lanes := if xb w 16 then (if (List.range np).any (fun j => m.getLsbD j) then oneLane lb else 0)
      else maskOf (fun l => decide (lb ≤ l) && decide (l < lb + np) && m.getLsbD l)
    some ⟨kSrc w ++ [srcS (f2 w), srcC (f3 w), srcA (f1 w) lanes], [⟨2, f1 w, lanes⟩], true⟩
  else none

/-- What GATHER has gathered so far. -/
structure GatherAcc where
  d : Dev
  r : RegFile
  total : Int
  any : Bool
  pairs : Nat
  /-- ports of the cycles that the pairs take: first cycle, second -/
  p0 : List (List Nat)
  p1 : List (List Nat)
  err : Option Nat

/-- One pair of a GATHER. -/
def gatherPair (k : Nat) (w : SlotWord) (old : RegFile) (x : Ctx) (a : GatherAcc) (j : Nat) : GatherAcc :=
  if a.err.isSome then a
  else
    let sum := xb w 16
    let lb := xf w 11 5
    let l := if sum then lb else lb + j
    let m := if sum then j else l
    let cw := old.getC (f3 w)
    let e := vat x.pbuf (xf w 0 8 + j)
    let len := 2 ^ cLen cw
    let win := 4096 * a.d.blockGet x.block (HALL_SLOT_WIN_BASE.BASE x.slot)
    let obj := if sum then e.tag.toNat % 64 else (cBase cw - win) / len
    let oi := 64 * x.slot + obj
    if !(enabled old w).getLsbD m || a.d.blockGet x.block (HALL_OBJ.EN oi) == 0 || x.shedMask.getLsbD obj then a
    else
      let n := (old.getS (f2 w)).toNat % 4096
      let st := pairStep e n (a.d.blockGet x.block (HALL_OBJ.BULK oi)) (len / 4 - a.d.perLen - 8)
      let d := if st.gsat then a.d.pmc 9 1 else a.d
      let d := if st.clamped then (d.bump Adr.HALL_CLAMP_CNT).pmc 8 1 else d
      let base := cBase cw + (if sum then obj * len else 0)
      let eight := a.d.blockGet x.block (HALL_SLOT_CFG.INTERP x.slot) == 1
      let at_ := fun (o : Int) => base + (((cIndex cw : Int) + 4 * (o - (st.di : Int))) % ((len : Nat) : Int)).toNat
      let taps := if eight then (List.range 8).map (fun (i : Nat) => at_ (-1 - (i : Int))) else (List.range 4).map (fun (i : Nat) => at_ (-3 - (i : Int)))
      let row := 4096 * a.d.blockGet x.block (HALL_SLOT_INTERP_BASE.BASE x.slot) + 32 * (st.f / 2 ^ 18)
      let rowOffs := (List.range 8).map (fun i => (row + 4 * i) % 0x800000)
      match d.roomWords k taps with
      | (d, .error b) => { a with d := d, err := some b }
      | (d, .ok ts) =>
        match (if eight then d.roomWords k rowOffs else (d, .ok [])) with
        | (d, .error b) => { a with d := d, err := some b }
        | (d, .ok cs) =>
          let (v, sat) := interpolate (if eight then cs.map (·.toInt) else lagrange ((st.f / 2 ^ 12 : Nat) : Int)) ts
          let p := v * st.g
          let r := if sat then a.r.flag (oneLane l) 0 0 else a.r
          let r := if sum then r else accLane r (f1 w) l ((lane (r.getA (f1 w)) l).add p)
          let ports := banksOf taps :: (if eight then [banksOf rowOffs] else [])
          let first := !eight || j < 4
          { d := d, r := r, total := a.total + p, any := true, pairs := a.pairs + 1,
            p0 := if first then a.p0 ++ ports else a.p0, p1 := if first then a.p1 else a.p1 ++ ports, err := none }

def gather (d : Dev) (k c : Nat) (old : RegFile) (w : SlotWord) : BRes Dev :=
  let x := d.ctxAt k c
  let np := xf w 8 3 + 1
  let sum := xb w 16
  let cw := old.getC (f3 w)
  let m := enabled old w
  let wl := wlenOf (d.blockGet x.block (HALL_SLOT_CFG.WLEN x.slot))
  let win := 4096 * d.blockGet x.block (HALL_SLOT_WIN_BASE.BASE x.slot)
  let len := 2 ^ cLen cw
  let needed := (List.range np).filter (fun j => m.getLsbD (if sum then j else xf w 11 5 + j))
  if x.pload.any (fun p => needed.any (fun j => decide (p.pb ≤ xf w 0 8 + j) && decide (xf w 0 8 + j < p.pb + p.es.length))) then .stall
  else if cLen cw ≠ wl + 2 ∨ (if sum then cBase cw ≠ win else (cBase cw < win ∨ (cBase cw - win) % len ≠ 0 ∨ 64 ≤ (cBase cw - win) / len)) then
    .fault d (violation (cBase cw))
  else
    let objOf := fun (j : Nat) => (vat x.pbuf (xf w 0 8 + j)).tag.toNat % 64
    let live := fun (j : Nat) => d.blockGet x.block (HALL_OBJ.EN (64 * x.slot + objOf j)) != 0 && !x.shedMask.getLsbD (objOf j)
    match (if sum then needed.find? (fun j => live j && decide (0x800000 ≤ cBase cw + objOf j * len)) else none) with
    | some j => .fault d (violation (cBase cw + objOf j * len))
    | none =>
      let a0 : GatherAcc := ⟨d, noFlags x.r, 0, false, 0, [], [], none⟩
      let a := (List.range np).foldl (gatherPair k w old x) a0
      match a.err with
      | some b => .fault a.d (roomUe b)
      | none =>
        let r := if sum && a.any then accLane a.r (f1 w) (xf w 11 5) ((lane (old.getA (f1 w)) (xf w 11 5)).add a.total) else a.r
        let d := a.d.setRegs k c (fun r0 => withFlags r0 r)
        let rp := replays 64 a.p0 + replays 64 a.p1
        let d := (d.engPmc k 5 a.pairs).engPmc k 6 rp
        .done (d.runCycles k c (rp + (if a.p1.isEmpty then 0 else 1)))

/-! ### HSEND and the hall input (R134 to R136) -/

def planHsend (r : RegFile) (w : SlotWord) : Option BPlan :=
  if uses w true true false true 1 && decide (f1 w < 8) then
    let m := enabled r w
    some ⟨kSrc w ++ [srcA (f1 w) m, srcS (f2 w), srcS (f3 w)], if xb w 0 then [⟨2, f1 w, m⟩] else [], false⟩
  else none

def hsend (d : Dev) (k c : Nat) (old : RegFile) (w : SlotWord) : BRes Dev :=
  if 8 ≤ (d.engAt k).hallIn.length then .stall
  else
    let m := enabled old w
    let sy := (old.getS (f2 w)).toNat
    let st := (old.getS (f3 w)).toNat
    let nar := fun l => (lane (old.getA (f1 w)) l).narrow 20 48
    let keep := fun l => decide (sy + l < 768) && decide (st < d.perLen)
    let vals := ((lanesOf m).filter keep).map (fun l => (⟨sy + l, st, (nar l).v⟩ : Staged))
    let d := d.engPmc k 14 ((lanesOf m).length - vals.length)
    let d := d.setEng k { d.engAt k with hallIn := (d.engAt k).hallIn ++ [(⟨c, vals⟩ : HallSend)] }
    let d := d.setCtx k c { d.ctxAt k c with sends := (d.ctxAt k c).sends + 1 }
    .done (d.setRegs k c (fun r =>
      let r := r.flag (maskOf (fun l => m.getLsbD l && (nar l).ovf)) (maskOf (fun l => m.getLsbD l && (nar l).lost)) 0
      if xb w 0 then r.setA (f1 w) (onLanes m (r.getA (f1 w)) (fun _ => .zero)) else r))

/-- The hall input passes its oldest HSEND: its values are staged for the task, replacing earlier ones of the same output and
sample (R135, R136). -/
def hallPass (d : Dev) (k : Nat) : Dev :=
  let e := d.engAt k
  match e.hallIn with
  | [] => d
  | h :: t =>
    let d := d.setEng k { e with hallIn := t }
    let x := d.ctxAt k h.ctx
    let kept := x.staged.filter (fun s => !h.vals.any (fun v => v.out == s.out && v.smp == s.smp))
    let d := d.setCtx k h.ctx { x with staged := kept ++ h.vals }
    [0, 1].foldl (fun d c => d.setCtx k c { d.ctxAt k c with hallWait := (d.ctxAt k c).hallWait - 1 }) d

/-! ### The stream queue (R78, R84, R139, R140) -/

/-- Whether a user task's window covers the bytes (R84, R103). -/
def inRegion (d : Dev) (k a n : Nat) (write : Bool) : Bool :=
  (List.range 4).any (fun i =>
    let base := d.get64 (Adr.ENG_UREGION_BASE_LO k i)
    d.on (if write then ENG_UREGION_SIZE.W k i else ENG_UREGION_SIZE.R k i) && decide (base ≤ a)
      && decide (a + n ≤ base + 4096 * d.get (ENG_UREGION_SIZE.SIZE k i)))

/-- Whether the bytes lie in the pantry or in fitted DRAM. -/
def inFar (d : Dev) (a n : Nat) : Bool :=
  let ok := fun x => match d.targetOf x with
    | .pantry _ => true
    | .dram _ _ => true
    | _ => false
  ok a && ok (a + n - 1) && (decide (a < dramBase) == decide (a + n - 1 < dramBase))

def planSdma (_ : RegFile) (w : SlotWord) : Option BPlan :=
  if uses w true true false false (ones 24 1) then some ⟨[srcS (f1 w), srcS (f2 w), srcS (f3 w)], [], false⟩ else none

def sdma (d : Dev) (k c : Nat) (old : RegFile) (w : SlotWord) : BRes Dev :=
  let x := d.ctxAt k c
  let room := (old.getS (f1 w)).toNat
  let far := (old.getS (f2 w)).toNat
  let len := (old.getS (f3 w)).toNat
  let out := xb w 24
  if len = 0 ∨ len % 64 ≠ 0 ∨ 0x100000 < len ∨ room % 64 ≠ 0 ∨ far % 64 ≠ 0 ∨ inRoom room len = false then .fault d (violation room)
  else if 2 ^ 40 ≤ far ∨ d.inFar far len = false ∨ (x.priv = false ∧ d.inRegion k far len out = false) then .fault d (violation far)
  else if 8 ≤ x.stream.length then .stall
  else .done (d.setCtx k c { x with stream := x.stream ++ [(⟨room, far, len, out⟩ : StreamEntry)] })

def planSwait (_ : RegFile) (w : SlotWord) : Option BPlan :=
  if uses w false false false false (ones 0 3) && w.f1 == 0 then some ⟨[], [], false⟩ else none

def swait (d : Dev) (k c : Nat) (_ : RegFile) (w : SlotWord) : BRes Dev :=
  if (d.ctxAt k c).stream.length ≤ xf w 0 3 then .done d else .stall

def planFenceRoom (_ : RegFile) (w : SlotWord) : Option BPlan :=
  if uses w false false false false 1 && w.f1 == 0 && !xb w 0 then some ⟨[], [], false⟩ else none

/-- Every room store has taken effect when it issued. -/
def fenceRoom (d : Dev) (_ _ : Nat) (_ : RegFile) (_ : SlotWord) : BRes Dev := .done d

def planFenceStream (_ : RegFile) (w : SlotWord) : Option BPlan :=
  if uses w false false false false 1 && w.f1 == 0 && xb w 0 then some ⟨[], [], false⟩ else none

def fenceStream (d : Dev) (k c : Nat) (_ : RegFile) (_ : SlotWord) : BRes Dev :=
  if (d.ctxAt k c).stream.isEmpty then .done d else .stall

def planNone (inRep : Bool) (_ : RegFile) (w : SlotWord) : Option BPlan :=
  if uses w false false false false 0 && w.f1 == 0 then some ⟨[], [], inRep⟩ else none

/-- A far store of the context. -/
def isStoreOf (k c : Nat) (x : XactFor) : Bool :=
  match x with
  | .farStore e i => e == k && i == c
  | _ => false

/-- Whether a far store of the context awaits its response. -/
def storesOut (d : Dev) (k c : Nat) : Bool :=
  d.fab.outs.any (fun x => isStoreOf k c x.what && !x.stale) || d.fab.held.any (fun x => isStoreOf k c x.what)

def barrier (d : Dev) (k c : Nat) (_ : RegFile) (_ : SlotWord) : BRes Dev :=
  let x := d.ctxAt k c
  if x.stream.isEmpty && x.pload.isEmpty && !d.storesOut k c && (d.engAt k).hallIn.all (fun h => h.ctx != c) then .done d else .stall

/-! ### Control (R142 to R145) -/

/-- A branch target: the offset counts bundles. -/
def target (d : Dev) (k c : Nat) (w : SlotWord) : Int := ((d.ctxAt k c).r.pc.toNat : Int) + 16 * ximm w

def planBr (_ : RegFile) (w : SlotWord) : Option BPlan :=
  if uses w false false false false (ones 0 24) && w.f1 == 0 then some ⟨[], [], false⟩ else none

def br (d : Dev) (k c : Nat) (_ : RegFile) (w : SlotWord) : BRes Dev := .jump d (d.target k c w)

def planBcond (_ : RegFile) (w : SlotWord) : Option BPlan :=
  if uses w true false false false (ones 0 27) && decide (xf w 24 3 < 6) then some ⟨[srcS (f1 w), srcS (f2 w)], [], false⟩ else none

/-- BCOND's conditions. -/
def bcondHolds (c : Nat) (a b : BitVec 64) : Bool :=
  match c with
  | 0 => a == b
  | 1 => a != b
  | 2 => a.slt b
  | 3 => !a.slt b
  | 4 => a.ult b
  | _ => !a.ult b

def bcond (d : Dev) (k c : Nat) (old : RegFile) (w : SlotWord) : BRes Dev :=
  if bcondHolds (xf w 24 3) (old.getS (f1 w)) (old.getS (f2 w)) then .jump d (d.target k c w) else .done d

def planJal (_ : RegFile) (w : SlotWord) : Option BPlan :=
  if uses w false false false false (ones 0 24) then some ⟨[], [⟨0, f1 w, 1⟩], false⟩ else none

def jal (d : Dev) (k c : Nat) (_ : RegFile) (w : SlotWord) : BRes Dev :=
  let pc := (d.ctxAt k c).r.pc.toNat
  .jump (d.setRegs k c (fun r => r.setS (f1 w) (BitVec.ofNat 64 (pc + 16)))) (d.target k c w)

def planJr (_ : RegFile) (w : SlotWord) : Option BPlan :=
  if uses w false false false false 0 then some ⟨[srcS (f1 w)], [], false⟩ else none

def jr (d : Dev) (_ _ : Nat) (old : RegFile) (w : SlotWord) : BRes Dev :=
  .jump d (((old.getS (f1 w)).toNat % 2 ^ 23 / 16 * 16 : Nat) : Int)

def planRep (_ : RegFile) (w : SlotWord) : Option BPlan :=
  if uses w false false false false (if xb w 8 then ones 8 1 else ones 0 8) && (xb w 8 || w.f1 == 0) then
    some ⟨if xb w 8 then [srcS (f1 w)] else [], [], false⟩
  else none

def rep (d : Dev) (_ _ : Nat) (old : RegFile) (w : SlotWord) : BRes Dev :=
  .rep d ((if xb w 8 then (old.getS (f1 w)).toNat % 256 else xf w 0 8) + 1)

/-- The task starts to complete (R143). -/
def startDone (d : Dev) (k c : Nat) (na : Option (BitVec 4)) : Dev :=
  d.setCtx k c { d.ctxAt k c with mode := .ending, nextAccept := na, hallWait := (d.engAt k).hallIn.length }

def tdone (d : Dev) (k c : Nat) (_ : RegFile) (_ : SlotWord) : BRes Dev := .stay (d.startDone k c none)

def planWaitwork (_ : RegFile) (w : SlotWord) : Option BPlan :=
  if uses w false false false false 0 then some ⟨[srcS (f1 w)], [], false⟩ else none

def waitwork (d : Dev) (k c : Nat) (old : RegFile) (w : SlotWord) : BRes Dev :=
  if (d.ctxAt k c).priv then .stay (d.startDone k c (some ((old.getS (f1 w)).setWidth 4))) else .fault d (violation 0)

/-! ### System operations (R146) -/

def planGetp (_ : RegFile) (w : SlotWord) : Option BPlan :=
  if uses w false false false false (ones 0 3) && decide (xf w 0 3 < 5) then some ⟨[], [⟨0, f1 w, 1⟩], true⟩ else none

def getp (d : Dev) (k c : Nat) (_ : RegFile) (w : SlotWord) : BRes Dev :=
  let x := d.ctxAt k c
  let v := match xf w 0 3 with
    | 0 => x.slot
    | 1 => x.block
    | 2 => x.task
    | 3 => x.cls
    | _ => x.cycles
  .done (d.setRegs k c (fun r => r.setS (f1 w) (BitVec.ofNat 64 v)))

def planMflg (_ : RegFile) (w : SlotWord) : Option BPlan :=
  if uses w false false false false (ones 0 3) && decide (xf w 0 3 < 6) then some ⟨[], [⟨0, f1 w, 1⟩], true⟩ else none

def mflg (d : Dev) (k c : Nat) (old : RegFile) (w : SlotWord) : BRes Dev :=
  let x := d.ctxAt k c
  let v := match xf w 0 3 with
    | 0 => old.ovf.toNat
    | 1 => old.lost.toNat
    | 2 => old.wrap.toNat
    | 3 => b2n x.memerr
    | 4 => x.stream.length
    | _ => x.pload.length
  .done (d.setRegs k c (fun r => r.setS (f1 w) (BitVec.ofNat 64 v)))

def planFclr (_ : RegFile) (w : SlotWord) : Option BPlan :=
  if uses w false false false false (ones 0 3) && decide (xf w 0 3 < 4) then some ⟨[srcS (f1 w)], [], true⟩ else none

def fclr (d : Dev) (k c : Nat) (old : RegFile) (w : SlotWord) : BRes Dev :=
  let x := d.ctxAt k c
  let m := ~~~((old.getS (f1 w)).setWidth 32 : BitVec 32)
  let b : OpenBundle := x.bundle.getD ⟨x.r, x.bad, [], 0, 0, 0⟩
  match xf w 0 3 with
  | 0 => .done (d.setRegs k c (fun r => { r with ovf := (r.ovf &&& m) ||| b.ovf }))
  | 1 => .done (d.setRegs k c (fun r => { r with lost := (r.lost &&& m) ||| b.lost }))
  | 2 => .done (d.setRegs k c (fun r => { r with wrap := (r.wrap &&& m) ||| b.wrap }))
  | _ => .done (d.setCtx k c { x with memerr := x.memerr && m.getLsbD 0 })

def icinvOp (d : Dev) (k c : Nat) (_ : RegFile) (_ : SlotWord) : BRes Dev :=
  if (d.ctxAt k c).priv then .done (d.icinv k) else .fault d (violation 0)

end Dev
end Sys2Proof.Machine
end

