-- ==== Sys2Proof/Machine/Hall.lean ====
section
/-! DEFINITION. Sys2Proof/Machine/Hall.lean: the hall: commits, blocks, narrowing into the reduction staging (R170 to R176, R231, R241). -/
namespace Sys2Proof.Machine

/-- A number taken modulo 2^64: block and period numbers are 64-bit. -/
def wrap64 (z : Int) : Nat := unsignedOf 64 z

namespace Dev

/-- Fault-tolerant mode (R16). -/
def tolerant (d : Dev) : Bool := d.on LND_CTRL.MODE

/-- SENDERS of slot `k` for block `b` (R171). -/
def senders (d : Dev) (b k : Nat) : Nat := d.blockGet b (HALL_SLOT_CFG.SENDERS k)

/-- Commits of slot `k`. -/
def commitsOf (h : HallBlock) (k : Nat) : Nat := sget (fun _ => 0) h.commits k

/-- Slots that have not committed SENDERS tasks; an orphaned slot counts as complete (R171, R231). -/
def missingSlots (d : Dev) (h : HallBlock) : List Nat :=
  (List.range 16).filter (fun k => decide (commitsOf h k < d.senders h.b k) && !d.hall.orphans.contains k)

/-- The landing before which a block must be complete in the hall (R17, R18). -/
def hallDeadline (d : Dev) (b : Nat) : Nat := b + (if d.tolerant then 3 else 2)

/-- A field of B48 as block `b` uses it: active in period b + 1 (R241). -/
def gangGet (d : Dev) (b : Nat) (f : Fld) : Nat :=
  if d.period ≤ b + 1 then d.aget f else if d.period = b + 2 then d.aget1 f else d.aget2 f

/-- Whether block `b` goes through the reduce-scatter exchange (R244). -/
def gangBlock (d : Dev) (b : Nat) : Bool := d.gangGet b GANG_CTRL.EN == 1 && !d.on GANG_CFG.MODE

/-- One narrowed sample (R173): sat32(round(sum / 2^(7 + OUT_SHIFT))), and whether it saturated. -/
def narrowSum (d : Dev) (s : Int) : Int × Bool :=
  let v := roundDiv s (2 ^ (7 + min (d.get HALL_CTRL.OUT_SHIFT) 8))
  (satTo 32 v, outside 32 v)

/-- The address of output `y` of block `b` in the reduction staging (R173). -/
def rstageAddr (d : Dev) (b y : Nat) : Nat := 2 ^ 21 * d.get HALL_RSTAGE_BASE.BASE + (768 * (b % 8) + y) * (4 * d.perLen)

/-- Write the samples of output `y` of block `b`; staging outside the pantry is not written. -/
def rstagePut (d : Dev) (b y : Nat) (vals : List Int) : Dev :=
  let a := d.rstageAddr b y
  if pantryBase ≤ a ∧ a + 4 * vals.length ≤ pantryBase + 0x4000000 then
    d.memPut 26 a (vals.flatMap (fun v => bytesOf 4 (unsignedOf 32 v)))
  else d

/-- The samples of output `y`, narrowed, and how many saturated. -/
def narrowOut (d : Dev) (sums : List (Nat × Int)) (y : Nat) : List Int × Nat :=
  let l := (List.range d.perLen).map (fun s => d.narrowSum (sget (fun _ => 0) sums (64 * y + s)))
  (l.map (·.1), (l.filter (·.2)).length)

/-- Narrow the outputs `ys` of a block into the staging (R173). -/
def narrowBlock (d : Dev) (b : Nat) (sums : List (Nat × Int)) (ys : List Nat) : Dev :=
  let (d, n) := ys.foldl (fun (acc : Dev × Nat) y =>
    let (vals, k) := acc.1.narrowOut sums y
    (acc.1.rstagePut b y vals, acc.2 + k)) (d, 0)
  if n = 0 then d
  else (((d.bumpBy Adr.HALL_OVF_CNT n).set HALL_STATUS.OVF 1).raise 241).pmc 6 n

/-- The block is done: HALL_DONE_BLOCK, and TSK is told (R173). -/
def hallSignal (d : Dev) (b : Nat) : Dev :=
  let d := (d.set64 Adr.HALL_DONE_BLOCK_LO b).pmc 4 1
  { d with tsk := { d.tsk with blocks := d.tsk.blocks ++ [b] } }

/-- The device sum of a block goes to the exchange (R244). -/
def gangTake (d : Dev) (h : HallBlock) (part : Bool) : Dev :=
  let l := if d.gang.blocks.any (fun g => g.b == h.b) then
      d.gang.blocks.map (fun g => if g.b == h.b then { g with sums := some h.sums, part := part } else g)
    else d.gang.blocks ++ [(⟨h.b, some h.sums, part, [], false⟩ : GangBlock)]
  { d with gang := { d.gang with blocks := l } }

/-- Complete a block; `missing` slots make it PARTIAL (R173 to R175). -/
def hallFinish (d : Dev) (h : HallBlock) (missing : List Nat) : Dev :=
  let d : Dev := { d with hall := { d.hall with blocks := d.hall.blocks.filter (fun x => x.b != h.b), closed := (d.hall.closed ++ [h.b]).drop (d.hall.closed.length - 15) } }
  let d := if missing.isEmpty then d
    else (((d.set HALL_STATUS.PARTIAL 1).set HALL_PARTIAL_SLOTS.SLOTS (missing.foldl (fun s k => s + 2 ^ k) 0)).bump
      Adr.HALL_PARTIAL_CNT |>.raise 240).pmc 5 1
  if d.gangBlock h.b then d.gangTake h (!missing.isEmpty)
  else (d.narrowBlock h.b h.sums (List.range 768)).hallSignal h.b

/-- The hall has every commit of its oldest complete block (R171). -/
def hallComplete (d : Dev) : Dev :=
  match d.hall.blocks.find? (fun h => (d.missingSlots h).isEmpty) with
  | none => d
  | some h => d.hallFinish h []

/-- A discarded commit (R171). -/
def hallDiscard (d : Dev) : Dev := ((d.bump Adr.HALL_DISCARD_CNT).set HALL_STATUS.DISCARD 1).pmc 7 1

/-- Blocks in ascending order. -/
def insertBlock (h : HallBlock) : List HallBlock → List HallBlock
  | [] => [h]
  | x :: t => if h.b < x.b then h :: x :: t else x :: insertBlock h t

/-- Open block `b` if it is neither open nor closed. -/
def hallOpenBlock (d : Dev) (b : Nat) : Dev :=
  if d.hall.blocks.any (fun h => h.b == b) then d
  else { d with hall := { d.hall with blocks := insertBlock ⟨b, [], []⟩ d.hall.blocks } }

/-- A task's commit for slot `k` and block `b` (R170 to R172). -/
def hallCommit (d : Dev) (k b : Nat) (l : List Staged) : Dev :=
  if d.linkHeld 26 then d
  else if d.hall.closed.contains b || (d.on LND_STATUS.RUNNING && decide (d.hallDeadline b ≤ d.period)) || d.hall.orphans.contains k then d.hallDiscard
  else
    let d := d.hallOpenBlock b
    match d.hall.blocks.find? (fun h => h.b == b) with
    | none => d
    | some h =>
      if d.senders b k ≤ commitsOf h k then d.hallDiscard
      else
        let sums := l.foldl (fun m (s : Staged) => sset (fun _ => 0) m (64 * s.out + s.smp) (sget (fun _ => 0) m (64 * s.out + s.smp) + s.v)) h.sums
        let h : HallBlock := { h with commits := sput h.commits k (commitsOf h k + 1), sums := sums }
        let d : Dev := { d with hall := { d.hall with blocks := d.hall.blocks.map (fun x => if x.b == b then h else x) } }
        d.pmc 10 1

/-- The landing of period `m`, before its banks are copied: orphaned slots count as complete from now on (R231), and blocks at their
deadline complete with the commits they have (R174). -/
def hallDeadlines (d : Dev) (m : Nat) : Dev :=
  let d : Dev := { d with hall := { d.hall with orphans := d.tsk.orphans.map (·.1) } }
  (d.hall.blocks.filter (fun h => decide (d.hallDeadline h.b ≤ m))).foldl (fun d h => d.hallFinish h (d.missingSlots h)) d

/-- The landing of period `m`, after its banks are copied: phase A of block m − 1 begins (R16). -/
def hallStart (d : Dev) (m : Nat) : Dev :=
  let b := wrap64 ((m : Int) - 1)
  let d : Dev := { d with hall := { d.hall with closed := d.hall.closed.filter (· != b) } }
  d.hallOpenBlock b

/-- The engine that the active crossbar connects to slot `k`, and the shadow's. -/
def xbarFld (k : Nat) : Fld := ⟨Adr.HALL_XBAR (k / 4), 8 * (k % 4), 5⟩
def xbarEng (d : Dev) (k : Nat) : Nat := d.aget (xbarFld k)

/-- The slot that the active crossbar connects to engine `e`. -/
def xbarSlot (d : Dev) (e : Nat) : Option Nat := (List.range 16).find? (fun k => d.xbarEng k == e)

/-- R176: whether the crossbar shadow maps the slots to 16 distinct engines, none FAILED. -/
def xbarOk (d : Dev) : Bool :=
  let l := (List.range 16).map (fun k => d.get (xbarFld k))
  l.all (fun e => decide (e ≤ 16) && d.engState e != engFailed) && decide l.Nodup

end Dev
end Sys2Proof.Machine
end

