-- ==== Sys2Proof/Machine/TskCore.lean ====
section
/-! DEFINITION. Sys2Proof/Machine/TskCore.lean: TSK: the pool, dependence counts, release, dispatch, completion, templates, budget, shedding (R208 to R226, R231 to R235). -/
namespace Sys2Proof.Machine

/-- TSK's requester number in the ECC log (R448). -/
abbrev reqTsk : Nat := 22

/-- A descriptor as TSK reads it (R209). -/
structure Descr where
  entry : Nat
  dep : Nat
  depInit : Nat
  ctrl : Nat
  kind : Nat
  succCtrl : Nat
  aff : Nat
  limit : Nat
  ext : Nat
  args : List Nat
  succs : List Nat
  bytes : List Byte

/-- The fields of a pool entry. -/
def Descr.of (l : List Byte) : Descr :=
  let n := fun (i k : Nat) => ofBytes (slice l i k)
  ⟨n 0 4, n 4 2, n 6 2, n 8 1, n 9 1, n 11 1, n 12 2, n 16 4, n 20 2, [n 24 8, n 32 8, n 40 8],
    (List.range 8).map (fun i => n (48 + 2 * i) 2), l⟩

def Descr.cls (e : Descr) : Nat := bitsOf e.ctrl 0 2
def Descr.priv (e : Descr) : Bool := bitOf e.ctrl 2
def Descr.log (e : Descr) : Bool := bitOf e.ctrl 3
def Descr.level (e : Descr) : Nat := bitsOf e.kind 2 4
def Descr.nsucc (e : Descr) : Nat := bitsOf e.succCtrl 0 4
def Descr.hasExt (e : Descr) : Bool := bitOf e.succCtrl 4
def Descr.valid (e : Descr) : Bool := bitOf e.succCtrl 7

/-- The checks of R211 for entry `ix` of a pool of `size` entries; 0 when every check holds. -/
def Descr.check (e : Descr) (ix size : Nat) : Nat :=
  let kd := bitsOf e.kind 0 2
  let byte := fun i => (e.bytes.getD i 0).toNat
  if e.entry % 16 ≠ 0 ∨ 2 ^ 23 ≤ e.entry then 1
  else if bitsOf e.ctrl 4 4 ≠ 0 ∨ bitsOf e.kind 6 2 ≠ 0 ∨ kd = 3
      ∨ (if kd = 2 then e.level < 1 ∨ 8 < e.level else e.level ≠ 0) then 2
  else if e.aff = 0 then 3
  else if 8 < e.nsucc ∨ (e.succs.take e.nsucc).any (fun s => decide (size ≤ s % 2 ^ 14)) = true
      ∨ (e.succs.drop e.nsucc).any (fun s => s != 0) = true then 4
  else if e.hasExt = true ∧ (size ≤ e.ext % 2 ^ 14 ∨ e.ext % 2 ^ 14 = ix) then 5
  else if bitsOf e.succCtrl 5 2 ≠ 0 ∨ byte 10 ≠ 0 ∨ byte 14 ≠ 0 ∨ byte 15 ≠ 0 ∨ byte 22 ≠ 0 ∨ byte 23 ≠ 0
      ∨ 2 ^ 14 ≤ e.ext ∨ e.succs.any (fun s => decide (2 ^ 14 ≤ s)) = true then 6
  else 0

/-- The lowest slot that AFFINITY names. -/
def lowSlot (aff : Nat) : Nat := (bitList 16 aff).headD 0

namespace Dev

/-! ### The pool (R208 to R212) -/

def setTsk (d : Dev) (t : TskState) : Dev := { d with tsk := t }

/-- First address and entries of the pool. -/
def poolBase (d : Dev) : Nat := 64 * d.get TSK_POOL_BASE.BASE
def poolSize (d : Dev) : Nat := d.get TSK_POOL_SIZE.SIZE

/-- A descriptor error counted with event 52 (R213). -/
def depError (d : Dev) : Dev := ((d.bump Adr.TSK_DEPERR_CNT).raise 52).pmc (16 * 18 + 15) 1

/-- Read a pool entry; one with an uncorrectable error counts as VALID = 0 (R212). -/
def descr (d : Dev) (ix : Nat) : Dev × Option Descr :=
  match d.memRead reqTsk (d.poolBase + 64 * ix) 64 with
  | (d, .ok l) => (d, some (Descr.of l))
  | (d, .error _) => ((d.bump Adr.TSK_DEPERR_CNT).raise 61, none)

/-- VALID as memory holds it. -/
def validBit (d : Dev) (ix : Nat) : Bool := bitOf (d.byteAt (d.poolBase + 64 * ix + 11)).toNat 7

/-- Entries whose byte 11 lies among `n` bytes from address `a`. -/
def poolTouched (d : Dev) (a n : Nat) : List Nat :=
  let lo := (a - d.poolBase) / 64
  ((List.range (n / 64 + 2)).map (fun i => lo + i)).filter (fun ix =>
    decide (ix < d.poolSize) && decide (a ≤ d.poolBase + 64 * ix + 11) && decide (d.poolBase + 64 * ix + 11 < a + n))

/-- Every task of a ready list but those with pool index `ix`. -/
def unready (d : Dev) (ix : Nat) : Dev := d.setTsk { d.tsk with ready := d.tsk.ready.map (fun l => l.filter (fun t => t.ix != ix)) }

/-- A change of VALID of entry `ix` (R211, R212). -/
def validChange (d : Dev) (ix : Nat) (now : Bool) : Dev :=
  if now then
    match d.descr ix with
    | (d, none) => d
    | (d, some e) =>
      match e.check ix d.poolSize with
      | 0 => d
      | code =>
        let d := d.memPut reqTsk (d.poolBase + 64 * ix + 11) [BitVec.ofNat 8 (e.succCtrl % 128)]
        ((d.set TSK_VERR.INDEX ix).set TSK_VERR.CODE code).raise 51
  else d.unready ix

/-- A write of `n` bytes at `a` took the device from `d0` to `d`: TSK sees the changes of VALID in the pool. -/
def poolWatch (d0 d : Dev) (a n : Nat) : Dev :=
  (d0.poolTouched a n).foldl (fun d ix => if d0.validBit ix == d.validBit ix then d else d.validChange ix (d.validBit ix)) d

/-! ### Templates and instances -/

/-- The instance whose members include entry `ix`. -/
def instOf (d : Dev) (ix : Nat) : Option TmplInst := d.tsk.insts.find? (fun t => decide (t.base ≤ ix) && decide (ix < t.base + t.count))

/-- PHASE of a template. -/
def phaseOf (d : Dev) (n : Option Nat) : Nat :=
  match n with
  | none => 0
  | some n => d.aget (TSK_TMPL_CFG.PHASE n)

def setInst (d : Dev) (t : TmplInst) : Dev :=
  let d := d.setTsk { d.tsk with insts := d.tsk.insts.map (fun x => if x.tmpl == t.tmpl then t else x) }
  d.set (TSK_TMPL_STATUS.PENDING t.tmpl) t.pend.length

/-- The histogram of an instance that is complete before its deadline (R222): bin floor(16 (T − R) / (D − R)). -/
def histogram (d : Dev) (t : TmplInst) : Dev :=
  match t.dl with
  | none => d
  | some dl =>
    let ph := d.aget (TSK_TMPL_CFG.PHASE t.tmpl)
    if d.aget (TSK_TMPL_CFG.HIST t.tmpl) = 1 ∧ (ph = 1 ∨ ph = 2) ∧ t.rel < dl then
      let bin := min 15 (16 * (d.now - t.relTick) * d.fs / (800000000 * ((dl - t.rel) * d.perLen)))
      d.bump (if ph = 1 then Adr.TSK_HISTA bin else Adr.TSK_HISTB bin)
    else d

/-- A member of an instance has completed (R220 to R222). -/
def memberDone (d : Dev) (ix : Nat) : Dev :=
  match d.tsk.insts.find? (fun t => t.pend.contains ix) with
  | none => d
  | some t =>
    let t : TmplInst := { t with pend := t.pend.filter (· != ix) }
    let d := d.setInst t
    if t.pend.isEmpty && !t.late then (d.set (TSK_TMPL_STATUS.LATE t.tmpl) 0).histogram t else d

/-! ### Completion records (R224, R225) -/

/-- Append a record to the ring. -/
def clog (d : Dev) (t : DoneTask) : Dev :=
  let z := d.get TSK_CLOG_CFG.SIZE_LOG2
  let size := 2 ^ (if z < 6 then 10 else z)
  let wr := d.get TSK_CLOG_CFG.WR
  if (wr + 65536 - d.get TSK_CLOG_RD.RD) % 65536 = size then (d.bump Adr.TSK_CLOG_DROP_CNT).raise 63
  else
    let l := bytesOf 2 t.inst.ix ++ bytesOf 1 t.status ++ bytesOf 1 t.code ++ bytesOf 1 t.flags ++ bytesOf 1 t.eng
      ++ bytesOf 1 (t.slot % 16 + 16 * t.inst.cls) ++ [0] ++ bytesOf 8 t.inst.block
    let a := 16 * d.get TSK_CLOG_BASE.BASE / (16 * size) * (16 * size) + 16 * (wr % size)
    let d := if pantryBase ≤ a ∧ a + 16 ≤ pantryBase + 0x4000000 then d.memPut reqTsk a l else d
    d.set TSK_CLOG_CFG.WR (wr + 1)

/-- Write a record when R224 asks for one. -/
def record (d : Dev) (t : DoneTask) : Dev :=
  if t.inst.log || t.status != 0 || t.flags != 0 then d.clog t else d

/-- A task completes: it leaves its instance, and TSK has its completion to handle. -/
def pushDone (d : Dev) (t : DoneTask) : Dev :=
  let d := if t.kind = .graph then d.memberDone t.inst.ix else d
  d.setTsk { d.tsk with done := d.tsk.done ++ [t] }

/-- A completion without successors or recovery is recorded at once. -/
def finish (d : Dev) (t : DoneTask) : Dev := (d.memberDone t.inst.ix).record t

/-! ### Shedding (R232, R233) -/

/-- Whether a task is shed in step `st`. -/
def shedTask (st : Nat) (e : Descr) : Bool :=
  let kd := bitsOf e.kind 0 2
  (decide (1 ≤ st) && decide (2 ≤ e.cls)) || (decide (2 ≤ st) && kd == 1)
    || (decide (3 ≤ st) && kd == 2 && decide (11 ≤ e.level + st))

/-- The lowest shed convolution level, 9 if none (R216). -/
def shedLevel (st : Nat) : Nat := if st < 3 then 9 else max 1 (11 - st)

/-- Priority of object `i` (R232). -/
def objPri (d : Dev) (i : Nat) : Nat := d.aget ⟨Adr.TSK_OBJPRI (i / 8), 4 * (i % 8), 4⟩

/-- The mask of slot `k`'s shed objects in step `st`. -/
def shedMask (d : Dev) (st k : Nat) : Nat :=
  if st < 11 then 0 else (List.range 64).foldl (fun m j => if 26 ≤ d.objPri (64 * k + j) + st then m + 2 ^ j else m) 0

/-- The masks of the slots of an AFFINITY. -/
def shedMasks (d : Dev) (st aff : Nat) : List (Nat × Nat) := if st < 11 then [] else (bitList 16 aff).map (fun k => (k, d.shedMask st k))

/-! ### Slots and engines -/

/-- TSK_SLOT_ENG of slot `k`. -/
def slotEngFld (k : Nat) : Fld := ⟨Adr.TSK_SLOT_ENG (k / 4), 8 * (k % 4), 5⟩
def slotEng (d : Dev) (k : Nat) : Nat := d.get (slotEngFld k)

/-- The slot that TSK maps to engine `e`. -/
def engSlot (d : Dev) (e : Nat) : Option Nat := (List.range 16).find? (fun k => d.slotEng k == e)

/-- Whether slot `k` is orphaned (R231). -/
def orphaned (d : Dev) (k : Nat) : Bool := d.tsk.orphans.any (fun o => o.1 == k)

/-- The foster slot of slot `k`. -/
def fosterOf (d : Dev) (k : Nat) : Nat := d.aget ⟨Adr.TSK_FOSTER (k / 8), 4 * (k % 8), 4⟩

/-- The slots that may serve a task and the slot it then runs for: its own, or the foster slot of an orphan; `none` when the task is
to be completed as SKIPPED (R215, R231). -/
def serving (d : Dev) (t : TaskInst) : Option (List (Nat × Nat)) :=
  let own := match t.only with
    | some k => if d.orphaned k then none else some [(k, k)]
    | none => none
  match own with
  | some l => some l
  | none =>
    let live := (bitList 16 t.aff).filter (fun k => !d.orphaned k)
    if live.isEmpty then
      let k := lowSlot t.aff
      if t.phase = 2 ∧ d.orphaned (d.fosterOf k) = false then some [(d.fosterOf k, k)] else none
    else some (live.map (fun k => (k, k)))

/-! ### Release (R213, R219) -/

def readyAt (d : Dev) (c : Nat) : List TaskInst := vat d.tsk.ready c

/-- Join the tail or the head of a class's list (R214). -/
def readyTail (d : Dev) (t : TaskInst) : Dev := d.setTsk { d.tsk with ready := vput d.tsk.ready t.cls (d.readyAt t.cls ++ [t]) }
def readyHead (d : Dev) (l : List TaskInst) : Dev :=
  (List.range 4).foldl (fun d c => d.setTsk { d.tsk with ready := vput d.tsk.ready c (l.filter (fun t => t.cls == c) ++ d.readyAt c) }) d

/-- Complete a released task as SKIPPED (R224, R231, R233). -/
def skip (d : Dev) (t : TaskInst) : Dev := (d.pushDone ⟨t, 4, 0, 0, 0x1F, lowSlot t.aff, .graph⟩).pmc (16 * 18 + 10) 1

/-- Release entry `ix` for block `b`: shed tasks and tasks that no slot can run complete as SKIPPED (R213, R219, R231, R233). -/
def release (d : Dev) (ix b : Nat) (e : Descr) : Dev :=
  let inst := d.instOf ix
  if (match inst with
      | some t => t.released.contains ix
      | none => false) then d
  else
    let d := match inst with
      | some t => d.setTsk { d.tsk with insts := d.tsk.insts.map (fun (x : TmplInst) => if x.tmpl == t.tmpl then { x with released := x.released ++ [ix] } else x) }
      | none => d
    let st := d.get TSK_SHED.STEP
    let n := inst.map (·.tmpl)
    let t : TaskInst := ⟨ix, e.cls, e.aff, e.log, n, d.phaseOf n, b, st, d.shedMasks st e.aff, none, false, d.now⟩
    let d := d.pmc (16 * 18 + 2) 1
    if shedTask st e || (d.serving t).isNone then d.skip t else d.readyTail t

/-- Decrement the DEP of a successor (R213). -/
def decrement (d : Dev) (ix b : Nat) : Dev :=
  if d.poolSize ≤ ix then d
  else
    match d.descr ix with
    | (d, none) => d
    | (d, some e) =>
      if e.dep = 0 then d.depError
      else
        let d := d.memPut reqTsk (d.poolBase + 64 * ix + 4) (bytesOf 2 (e.dep - 1))
        if e.dep = 1 then (if e.valid then d.release ix b e else d.depError) else d

/-- The successors in an extension record, and whether the list ends in it (R210). -/
def extSuccs : List Nat → List Nat × Bool
  | [] => ([], false)
  | s :: t => if 0x4000 ≤ s then ([], true) else ((s :: (extSuccs t).1), (extSuccs t).2)

/-- Decrement the successors of the extension list from record `ix` on. -/
def extWalk : Nat → Dev → Nat → Nat → Dev
  | 0, d, _, _ => d
  | fuel + 1, d, ix, b =>
    if d.poolSize ≤ ix then d
    else
      match d.descr ix with
      | (d, none) => d
      | (d, some e) =>
        let (l, ended) := extSuccs ((List.range 31).map (fun i => ofBytes (slice e.bytes (2 * i) 2)))
        let d := l.foldl (fun d s => d.decrement s b) d
        let next := ofBytes (slice e.bytes 62 2)
        if ended || !bitOf next 15 then d else extWalk fuel d (next % 2 ^ 14) b

/-- Release the successors of a completed task (R213). -/
def successors (d : Dev) (t : TaskInst) : Dev :=
  match d.descr t.ix with
  | (d, none) => d
  | (d, some e) =>
    let d := (e.succs.take (min 8 e.nsucc)).foldl (fun d s => d.decrement (s % 2 ^ 14) t.block) d
    if e.hasExt then d.extWalk d.poolSize (e.ext % 2 ^ 14) t.block else d

/-! ### Delivery (R215 to R217) -/

/-- The lower of two cycle limits that are not 0 (R217). -/
def lowerLimit (a b : Nat) : Nat := if a = 0 then b else if b = 0 then a else min a b

/-- Place a task in a context: R63, the registers of R216, the limit of R217. -/
def deliver (d : Dev) (k c slot : Nat) (t : TaskInst) (e : Descr) (s1 : Option Nat) (kind : RunKind) : Dev :=
  let x := d.ctxAt k c
  let st := t.step
  let mask := match t.masks.find? (fun m => m.1 == slot) with
    | some m => m.2
    | none => if st < 11 then 0 else d.shedMask st slot
  let arg := fun i => BitVec.ofNat 64 (e.args.getD i 0)
  let r := RegFile.zero
  let r : RegFile := { r with pc := BitVec.ofNat 23 e.entry }
  let r := ((r.setS 1 (match s1 with | some v => BitVec.ofNat 64 v | none => arg 0)).setS 2 (arg 1)).setS 3 (arg 2)
  let r := ((r.setS 4 (BitVec.ofNat 64 t.block)).setS 5 (BitVec.ofNat 64 (st % 32 + 256 * shedLevel st))).setS 6 (BitVec.ofNat 64 mask)
  let x : Ctx := { x with
    r := r, mode := .delivered, memerr := false, task := t.ix, cls := t.cls, slot := slot, block := t.block,
    shedMask := BitVec.ofNat 64 mask, priv := e.priv, limit := lowerLimit e.limit (d.aget ⟨Adr.TSK_CLIMIT t.cls, 0, 32⟩),
    cycles := 0, wasParked := false, nextAccept := none, stream := [], pload := [], staged := [], sends := 0, hallWait := 0,
    rep := none, bundle := none, farLoad := none, bad := [], fault := none }
  let o := d.ctxAt k (other c)
  let idle := o.mode == .free || o.mode == .draining || o.mode == .aborted
  let d := d.setCtx k c (if idle then { x with mode := .running } else x)
  let d := if idle then d.setEng k { d.engAt k with run := Fin.ofNat 2 c } else d
  let d := if kind = .graph then d else d.setEng k { d.engAt k with recov := true }
  let d := d.setTsk { d.tsk with running := d.tsk.running ++ [(⟨k, c, slot, t, kind⟩ : RunTask)] }
  d.pmc (16 * 18) 1

/-- Whether context `c` of engine `k` is free and accepts class `cls` (R144, R215). -/
def accepts (d : Dev) (k c cls : Nat) : Bool :=
  let x := d.ctxAt k c
  d.engState k == engActive && x.mode == .free && x.accept.getLsbD cls
    && (c == 0 || d.on (ENG_CFG.CTX1_EN k))

/-- Whether an engine runs no task. -/
def engIdle (d : Dev) (k : Nat) : Bool := (d.ctxAt k 0).mode == .free && (d.ctxAt k 1).mode == .free

/-- The contexts of engine `k` that accept class `cls`, lowest first. -/
def freeCtx (d : Dev) (k cls : Nat) : List Nat := [0, 1].filter (fun c => d.accepts k c cls)

/-- An engine that TASK_A still prepares takes only recovery tasks. -/
def preparing (d : Dev) (k : Nat) : Bool :=
  d.tsk.take.any (fun t => t.spare == k && (t.stage == .aQueued || t.stage == .aRunning || t.stage == .aDone))

/-- The engine, context and task's slot for a task: an engine without a running task first, then the lower engine, then context 0
(R215). -/
def place (d : Dev) (t : TaskInst) : Option (Nat × Nat × Nat) :=
  match d.serving t with
  | none => none
  | some l =>
    let cand := (List.range 17).flatMap (fun k =>
      match l.find? (fun s => d.slotEng s.1 == k) with
      | some s => if d.preparing k then [] else (d.freeCtx k t.cls).map (fun c => (k, c, s.2))
      | none => [])
    match cand.find? (fun x => d.engIdle x.1) with
    | some x => some x
    | none => cand.head?

/-- The first task of a list that can be delivered. -/
def firstPlaced (d : Dev) : List TaskInst → Option (TaskInst × Nat × Nat × Nat)
  | [] => none
  | t :: l =>
    match d.place t with
    | some p => some (t, p)
    | none => firstPlaced d l

/-- The most urgent deliverable task (R214, R215). -/
def nextTask (d : Dev) : Option (TaskInst × Nat × Nat × Nat) := d.firstPlaced ((List.range 4).flatMap d.readyAt)

/-- The pool index of a recovery task in its stage. -/
def recoveryIx (d : Dev) (stage : TkStage) : Nat := if stage = .aQueued then d.aget TSK_RECOVERY.TASK_A else d.aget TSK_RECOVERY.TASK_B

def setTake (d : Dev) (t : Takeover) : Dev :=
  d.setTsk { d.tsk with take := d.tsk.take.map (fun x => if x.slot == t.slot then t else x) }

/-- The recovery task that waits and can be delivered: its takeover and the context. -/
def nextRecovery (d : Dev) : Option (Takeover × Nat) :=
  (d.tsk.take.filterMap (fun t =>
    if t.stage == .aQueued || t.stage == .bQueued then (d.freeCtx t.spare 0).head?.map (fun c => (t, c)) else none)).head?

/-- Deliver a recovery task: class 0, for the slot, s1 = failed engine, s4 = m − 1, the shed state of the slot at delivery (R227). -/
def deliverRecovery (d : Dev) (t : Takeover) (c : Nat) : Dev :=
  let ix := d.recoveryIx t.stage
  match d.descr ix with
  | (d, none) => d
  | (d, some e) =>
    let st := d.get TSK_SHED.STEP
    let inst : TaskInst := ⟨ix, 0, 2 ^ t.slot, e.log, none, 0, wrap64 ((d.period : Int) - 1), st, d.shedMasks st (2 ^ t.slot), some t.slot, false, d.now⟩
    let isA := t.stage == .aQueued
    let d := d.deliver t.spare c t.slot inst e (some t.failed) (if isA then .taskA else .taskB)
    d.setTake { t with stage := if isA then .aRunning else .bRunning }

/-- TSK delivers one task (R215). -/
def dispatch (d : Dev) : Dev :=
  if !d.on TSK_CTRL.RUN then d
  else
    match d.nextRecovery with
    | some (t, c) => d.deliverRecovery t c
    | none =>
      match d.nextTask with
      | none => d
      | some (t, k, c, slot) =>
        let d := d.setTsk { d.tsk with ready := d.tsk.ready.map (fun l => l.erase t) }
        match d.descr t.ix with
        | (d, none) => d
        | (d, some e) =>
          if e.valid then
            let d := d.deliver k c slot t e none .graph
            if d.orphaned slot then d.pmc (16 * 18 + 14) 1 else d
          else d

/-- The engine switches to a task that pre-empts (R85, R86): `latency` CORE cycles have passed since the hand-over. -/
def preemptSwitch (d : Dev) (k latency : Nat) : Dev :=
  let c := d.runCtx k
  let x := d.ctxAt k c
  let o := d.ctxAt k (other c)
  if d.engState k = engActive ∧ x.mode = .running ∧ o.mode = .delivered ∧ o.cls ≤ 1 ∧ 2 ≤ x.cls ∧ x.wasParked = false
      ∧ x.rep = none ∧ d.on (ENG_CFG.PREEMPT_EN k) = true ∧ d.on (ENG_CFG.CTX1_EN k) = true then
    let d := d.closeOpen k c
    let x := d.ctxAt k c
    if x.mode = .running then
      let d := d.setCtx k c { x with mode := .parked, wasParked := true }
      let d := d.setCtx k (other c) { d.ctxAt k (other c) with mode := .running, cycles := 40 }
      let d := d.setEng k { d.engAt k with run := Fin.ofNat 2 (other c) }
      let d := if (d.reg (Adr.ENG_PREEMPT_MAX k)).toNat < latency then d.setReg (Adr.ENG_PREEMPT_MAX k) (BitVec.ofNat 32 (min latency 0xFFFF)) else d
      d.engPmc k 10 1
    else d
  else d

/-! ### Completion (R143, R213, R224, R226) -/

/-- What TSK knows of the task in a context. -/
def runOf (d : Dev) (k c : Nat) : Option RunTask := d.tsk.running.find? (fun r => r.eng == k && r.ctx == c)

def dropRun (d : Dev) (k c : Nat) : Dev := d.setTsk { d.tsk with running := d.tsk.running.filter (fun r => !(r.eng == k && r.ctx == c)) }

/-- A context becomes free; a parked or delivered task of the other context goes on (R89). -/
def freeContext (d : Dev) (k c : Nat) : Dev :=
  let x := d.ctxAt k c
  let d := d.setCtx k c { x with
    mode := .free, accept := x.nextAccept.getD x.accept, nextAccept := none, fault := none, rep := none,
    bundle := none, staged := [], sends := 0, hallWait := 0, pload := [], farLoad := none }
  let o := d.ctxAt k (other c)
  if (o.mode = .parked ∨ o.mode = .delivered) ∧ d.engState k ≠ engFailed then
    let d := d.setCtx k (other c) { o with mode := .running }
    d.setEng k { d.engAt k with run := Fin.ofNat 2 (other c) }
  else d

/-- The drains of a task that ends are over (R143): its partials are committed, its flags reported, TSK told, the context freed. -/
def tdoneCommit (d : Dev) (k c : Nat) : Dev :=
  let x := d.ctxAt k c
  if x.mode = .ending ∧ x.stream = [] ∧ x.pload = [] ∧ x.hallWait = 0 then
    let d := if 0 < x.sends then d.hallCommit x.slot x.block x.staged else d
    let ovf := popCount 32 x.r.ovf.toNat
    let lost := popCount 32 x.r.lost.toNat
    let d := ((d.engPmc k 12 ovf).engPmc k 13 lost).engPmc k 15 1
    let flags := b2n (ovf != 0) + 2 * b2n (lost != 0) + 4 * b2n x.memerr
    let d := match d.runOf k c with
      | none => d
      | some r => (d.dropRun k c).pushDone ⟨r.inst, 0, 0, flags, k, r.slot, r.kind⟩
    d.freeContext k c
  else d

/-- A stage of the takeover for slot `k` begins. -/
def takeAt (d : Dev) (slot : Nat) : Option Takeover := d.tsk.take.find? (fun t => t.slot == slot)

/-- The level of event 58 and TSK_STATUS.ORPHAN, and TAKEOVER (R231, R237). -/
def tskStatus (d : Dev) : Dev :=
  let o := d.tsk.orphans.foldl (fun m x => min m x.1) 0x1F
  let d := (d.set TSK_STATUS.ORPHAN o).set TSK_STATUS.TAKEOVER (b2n (!d.tsk.take.isEmpty))
  d.level 58 (!d.tsk.orphans.isEmpty)

/-- Re-dispatch tasks after a fault or a takeover, in order, at the head of their lists; one that no slot can run completes as
SKIPPED (R214, R231). -/
def redispatch (d : Dev) (l : List TaskInst) : Dev :=
  let ok := l.filter (fun t => (d.serving t).isSome)
  let d := d.readyHead (ok.map (fun t => { t with since := d.now }))
  (l.filter (fun t => (d.serving t).isNone)).foldl (fun d t => d.skip t) d

/-- Ready tasks that no slot can run any longer complete as SKIPPED (R231). -/
def sweepReady (d : Dev) : Dev :=
  let gone := ((List.range 4).flatMap d.readyAt).filter (fun t => (d.serving t).isNone)
  let d := d.setTsk { d.tsk with ready := d.tsk.ready.map (fun l => l.filter (fun t => !gone.contains t)) }
  gone.foldl (fun d t => d.skip t) d

/-- Slot `k` is orphaned for a fault of engine `e`; the tasks are re-dispatched (R231). -/
def orphan (d : Dev) (k e : Nat) (l : List TaskInst) : Dev :=
  let d := d.setTsk { d.tsk with orphans := d.tsk.orphans ++ [(k, e)], fresh := true, take := d.tsk.take.filter (fun t => t.slot != k) }
  let d := (d.set (slotEngFld k) 0x1F).tskStatus
  let d := d.redispatch (l.map (fun t => { t with only := none }))
  d.sweepReady

/-- A recovery task has ended (R227): TASK_A without OK orphans the slot; TASK_B ends whatever its status. -/
def recoveryEnd (d : Dev) (t : DoneTask) : Dev :=
  match d.takeAt t.slot with
  | none => d
  | some tk =>
    if t.kind = .taskA then
      if t.status = 0 then d.setTake { tk with stage := .aDone } else d.orphan tk.slot tk.failed tk.tasks
    else d.setTake { tk with stage := .bDone }

/-- TSK handles its oldest completion (R213, R224). -/
def taskComplete (d : Dev) : Dev :=
  match d.tsk.done with
  | [] => d
  | t :: l =>
    let d := (d.setTsk { d.tsk with done := l }).record t
    let d := d.pmc (16 * 18 + 1) 1
    if t.kind = .graph then (if t.status = 0 ∨ t.status = 4 then d.successors t.inst else d) else d.recoveryEnd t

/-- Every completion that happened before a landing is handled by it (R235). -/
def drainDone : Nat → Dev → Dev
  | 0, d => d
  | fuel + 1, d => if d.tsk.done.isEmpty then d else drainDone fuel d.taskComplete

/-- Whether the deadline landing of a task's instance has passed (R226). -/
def pastDeadline (d : Dev) (t : TaskInst) : Bool :=
  match d.tsk.insts.find? (fun i => some i.tmpl == t.tmpl && i.block == t.block) with
  | none => false
  | some i => match i.dl with
    | none => false
    | some dl => decide (dl ≤ d.period)

/-- TSK takes the report of a context that drained after a task-class fault (R92, R226). -/
def taskFaultReport (d : Dev) (k c : Nat) : Dev :=
  let x := d.ctxAt k c
  if x.mode = .draining ∧ x.stream = [] then
    match d.runOf k c with
    | none => d.freeContext k c
    | some r =>
      let d := d.dropRun k c
      let code := x.fault.getD 0
      let flags := b2n (x.r.ovf != 0) + 2 * b2n (x.r.lost != 0) + 4 * b2n x.memerr
      let t : DoneTask := ⟨r.inst, 1, code, flags, k, r.slot, r.kind⟩
      if d.aget TSK_CFG.RETRY = 1 ∧ d.pastDeadline r.inst = false ∧ r.inst.retried = false then
        let d := (d.record { t with status := 6 }).pmc (16 * 18 + 11) 1
        let d := d.freeContext k c
        match r.kind with
        | .graph => d.redispatch [{ r.inst with only := some r.slot, retried := true }]
        | kind => match d.takeAt r.slot with
          | none => d
          | some tk => d.setTake { tk with stage := if kind = .taskA then .aQueued else .bQueued }
      else (d.pushDone t).freeContext k c
  else d

/-! ### Retiring (R220, R221) -/

/-- Stop the task in a context at the next bundle boundary, without an engine fault; its stream queue drains. -/
def stopTask (d : Dev) (k c : Nat) : Dev :=
  let d := d.dropSends k c
  let x := d.ctxAt k c
  let d := d.setCtx k c { x with mode := .draining, fault := none, rep := none, bundle := none, pload := [], farLoad := none }
  if x.stream.isEmpty then d.freeContext k c
  else
    let o := d.ctxAt k (other c)
    if o.mode = .parked ∨ o.mode = .delivered then
      (d.setCtx k (other c) { o with mode := .running }).setEng k
        { (d.setCtx k (other c) { o with mode := .running }).engAt k with run := Fin.ofNat 2 (other c) }
    else d

/-- Retire entry `ix` with status STALE or LATE, wherever it is: ready, waiting for a takeover, or running. -/
def retireTask (d : Dev) (ix status : Nat) : Dev :=
  match d.tsk.running.find? (fun r => r.inst.ix == ix && r.kind == .graph) with
  | some r =>
    let d := (d.dropRun r.eng r.ctx).finish ⟨r.inst, status, 0, 0, r.eng, r.slot, .graph⟩
    d.stopTask r.eng r.ctx
  | none =>
    match ((List.range 4).flatMap d.readyAt).find? (fun t => t.ix == ix) with
    | some t => (d.unready ix).finish ⟨t, status, 0, 0, 0x1F, lowSlot t.aff, .graph⟩
    | none =>
      match (d.tsk.take.flatMap (·.tasks)).find? (fun t => t.ix == ix) with
      | some t =>
        let d := d.setTsk { d.tsk with take := d.tsk.take.map (fun x => { x with tasks := x.tasks.filter (fun t => t.ix != ix) }) }
        d.finish ⟨t, status, 0, 0, 0x1F, lowSlot t.aff, .graph⟩
      | none => d

/-! ### Landings (R218 to R223, R232) -/

/-- The budget check of engine `k` for the period just ended (R223): whether it exceeded its budget. -/
def budget (d : Dev) (k : Nat) : Dev × Bool :=
  let e := d.engAt k
  let d := (d.setReg (Adr.TSK_ENG_BUSY0 k) (BitVec.ofNat 32 (min e.busy0 0xFFFFFFFF))).setReg (Adr.TSK_ENG_BUSY k) (BitVec.ofNat 32 (min e.busy 0xFFFFFFFF))
  let limit := if d.tolerant then min (d.aget TSK_CFG.CLASS_BUDGET) 50 else d.aget TSK_CFG.CLASS_BUDGET
  let heavy := !e.recov && decide (1600000000 * (limit * d.perLen) < 100 * e.busy0 * d.fs)
  let still := d.tsk.running.any (fun r => r.eng == k && r.kind != .graph)
  let d := d.setEng k { e with busy0 := 0, busy := 0, recov := still }
  (if heavy then (d.bump Adr.TSK_OVERBUDGET_CNT).raise 54 else d, heavy && (d.engSlot k).isSome)

/-- The check of every engine: whether an engine that serves a slot exceeded its budget. -/
def budgets (d : Dev) : Dev × Bool :=
  (List.range 17).foldl (fun (a : Dev × Bool) k =>
    let (d, o) := a.1.budget k
    (d, a.2 || o)) (d, false)

/-- A member is late (R221). -/
def lateMember (d : Dev) (ix : Nat) : Dev :=
  let cls := bitsOf (d.byteAt (d.poolBase + 64 * ix + 8)).toNat 0 2
  let d := ((d.bump (Adr.TSK_LATE cls)).raise 53).pmc (16 * 18 + 8) 1
  if cls = 0 then d.setTsk { d.tsk with late0 := true } else d

/-- The deadline landings of period `m` (R221). -/
def deadlines (d : Dev) (m : Nat) : Dev :=
  (d.tsk.insts.filter (fun t => match t.dl with
    | some dl => decide (dl ≤ m) && !t.late && !t.pend.isEmpty
    | none => false)).foldl (fun d t =>
      let d := d.setTsk { d.tsk with insts := d.tsk.insts.map (fun (x : TmplInst) => if x.tmpl == t.tmpl then { x with late := true } else x) }
      let d := d.set (TSK_TMPL_STATUS.LATE t.tmpl) 1
      let d := t.pend.foldl (fun d ix => d.lateMember ix) d
      if d.aget TSK_CFG.LATE_ABORT = 1 then t.pend.foldl (fun d ix => d.retireTask ix 3) d else d) d

/-- Shed and un-shed steps of a landing (R232, R234). -/
def shedStep (d : Dev) (heavy : Bool) : Dev :=
  let st := d.get TSK_SHED.STEP
  let st1 := match d.tsk.unshed with
    | some u => if u < st then u else st
    | none => st
  let take := !d.tsk.orphans.isEmpty && d.aget TSK_CFG.AUTO_SHED == 1 && decide (st1 < 26)
    && ((d.tsk.fresh && st1 == 0) || heavy || d.tsk.late0)
  let d := d.setTsk { d.tsk with unshed := none, fresh := false, late0 := false }
  let d := d.set TSK_SHED.STEP (if take then st1 + 1 else st1)
  if take then (d.raise 60).pmc (16 * 18 + 13) 1 else d

/-- Members of template `n` inside the pool. -/
def members (d : Dev) (n : Nat) : List Nat :=
  ((List.range (min (d.aget (TSK_TMPL_COUNT.COUNT n)) 16384)).map (fun i => d.aget (TSK_TMPL_BASE.BASE n) + i)).filter (fun ix => decide (ix < d.poolSize))

/-- Load DEP from DEP_INIT; the members that can be released. -/
def loadDeps : Dev → List Nat → Dev × List (Nat × Descr)
  | d, [] => (d, [])
  | d, ix :: t =>
    match d.descr ix with
    | (d, none) => loadDeps d t
    | (d, some e) =>
      let d := if e.dep = e.depInit then d else d.memPut reqTsk (d.poolBase + 64 * ix + 4) (bytesOf 2 e.depInit)
      let (d, l) := loadDeps d t
      (d, if e.depInit = 0 ∧ e.valid = true then (ix, e) :: l else l)

/-- Re-arm template `n` for block `b` at the landing of period `m` (R218 to R220). -/
def rearm (d : Dev) (n b m : Nat) : Dev :=
  let d := match d.tsk.insts.find? (fun t => t.tmpl == n) with
    | some t =>
      if t.pend.isEmpty then d
      else
        let d := (d.bump Adr.TSK_OVERRUN_CNT).raise 55
        let d := d.pmc (16 * 18 + 9) (t.pend.filter (fun ix => d.tsk.running.any (fun r => r.inst.ix == ix) ||
          ((List.range 4).flatMap d.readyAt).any (fun r => r.ix == ix))).length
        t.pend.foldl (fun d ix => d.retireTask ix 5) d
    | none => d
  let ms := d.members n
  let dl := d.aget (TSK_TMPL_CFG.DL n)
  let t : TmplInst := ⟨n, d.aget (TSK_TMPL_BASE.BASE n), d.aget (TSK_TMPL_COUNT.COUNT n), b, m, d.now,
    if dl = 0 then none else some (wrap64 ((b + dl : Nat) : Int)), ms.filter d.validBit, [], false⟩
  let d := d.setTsk { d.tsk with insts := d.tsk.insts.filter (fun x => x.tmpl != n) ++ [t] }
  let d := ((d.set (TSK_TMPL_STATUS.PENDING n) t.pend.length).set (TSK_TMPL_STATUS.BLOCK n) b).pmc (16 * 18 + 7) 1
  let (d, l) := loadDeps d ms
  l.foldl (fun d x => d.release x.1 b x.2) d

/-- The blocks for which template `n` is re-armed at the landing of period `m` (R218). -/
def rearmBlocks (d : Dev) (n m : Nat) : List Nat :=
  let div := if d.aget (TSK_TMPL_CFG.DIV n) = 0 then 64 else d.aget (TSK_TMPL_CFG.DIV n)
  let ofs := d.aget (TSK_TMPL_CFG.OFS n)
  if bitOf (d.aget64 Adr.TSK_TMPL_EN_LO) n = false ∨ d.aget (TSK_TMPL_COUNT.COUNT n) = 0 then []
  else if d.aget (TSK_TMPL_CFG.TRIG n) = 1 then d.tsk.blocks.filter (fun b => b % div == ofs)
  else if m % div = ofs then [wrap64 ((m : Int) - (d.aget (TSK_TMPL_CFG.BLOCK_OFS n) : Int))]
  else []

/-- TSK at the landing of period `m`, after the banks are copied. -/
def tskLanding (d : Dev) (m : Nat) : Dev :=
  let (d, heavy) := d.budgets
  let d := d.deadlines m
  let d := d.shedStep heavy
  let d := if d.on TSK_CTRL.RUN then
      (List.range 64).foldl (fun d n => (d.rearmBlocks n m).foldl (fun d b => d.rearm n b m) d) d
    else d
  d.setTsk { d.tsk with blocks := [] }

end Dev
end Sys2Proof.Machine
end

