-- ==== Sys2Proof/Machine/Xlt.lean ====
section
/-! DEFINITION. Sys2Proof/Machine/Xlt.lean: address translation (R299 to R302). -/
namespace Sys2Proof.Machine

/-- First address of HIF's requester numbers in the ECC log (R448). -/
abbrev reqHif : Nat := 20

namespace Dev

/-- An 8 B table entry in host memory; a line that answers with an error or a poisoned TLP is cause 7 (R301). -/
def tableEntry (d : Dev) (a : Nat) : Except Nat Nat :=
  if d.hostBad.contains (a / 64) then .error 7 else .ok (ofBytes (d.hostAt a 8))

/-- Bits that must be 0 in a table entry (R299). -/
def entryBad (e : Nat) : Bool := bitsOf e 3 9 != 0 || bitsOf e 48 16 != 0

/-- The two-level walk of context `c` for `iova` below 2^32 (R299, R301). A page is writable only where both entries allow it. -/
def xltWalk (d : Dev) (c iova : Nat) : Except Nat XltEntry :=
  let root := d.get64 (Adr.XLT_CTX_ROOT_LO c)
  match d.tableEntry (root + 8 * (iova / 2 ^ 21)) with
  | .error k => .error k
  | .ok e1 =>
    if !bitOf e1 0 then .error 1
    else if entryBad e1 || (bitOf e1 2 && bitsOf e1 12 9 != 0) then .error 4
    else if bitOf e1 2 then .ok ⟨c, iova / 4096, bitsOf e1 12 36 + iova / 4096 % 512, bitOf e1 1⟩
    else
      match d.tableEntry (4096 * bitsOf e1 12 36 + 8 * (iova / 4096 % 512)) with
      | .error k => .error k
      | .ok e2 =>
        if !bitOf e2 0 then .error 2
        else if entryBad e2 || bitOf e2 2 then .error 4
        else .ok ⟨c, iova / 4096, bitsOf e2 12 36, bitOf e1 1 && bitOf e2 1⟩

/-- Translate an address of context `c`: the host address, or the cause of the failure (R299 to R301). -/
def translate (d : Dev) (c iova : Nat) (write : Bool) : Dev × Except Nat Nat :=
  let d := d.pmc (16 * 19 + 6) 1
  if !d.on (XLT_CTX_CFG.VALID c) then (d, .error 6)
  else if d.on (XLT_CTX_CFG.MODE c) then (d, if 2 ^ 48 ≤ iova then .error 5 else .ok iova)
  else if 2 ^ 32 ≤ iova then (d, .error 5)
  else
    match d.xlt.cache.find? (fun e => e.ctx == c && e.page == iova / 4096) with
    | some e => (d, if write && !e.w then .error 3 else .ok (4096 * e.frame + iova % 4096))
    | none =>
      let d := d.pmc (16 * 19 + 7) 1
      match d.xltWalk c iova with
      | .error k => (d, .error k)
      | .ok e =>
        let d : Dev := { d with xlt := { d.xlt with cache := d.xlt.cache ++ [e] } }
        (d, if write && !e.w then .error 3 else .ok (4096 * e.frame + iova % 4096))

/-- Ring states (R272). -/
abbrev stDisabled : Nat := 0
abbrev stRunning : Nat := 1
abbrev stSuspended : Nat := 2
abbrev stStopped : Nat := 3
abbrev stError : Nat := 4

/-- STATE of ring `r`. -/
def ringState (d : Dev) (r : Nat) : Nat := d.get (HIF_RING_STATUS.STATE r)

/-- Replace what ring `r` holds besides its registers. -/
def setRing (d : Dev) (r : Nat) (x : Ring) : Dev := { d with ring := vput d.ring r x }

/-- What ring `r` holds besides its registers. -/
def ringAt (d : Dev) (r : Nat) : Ring := vat d.ring r

/-- A failed translation of ring `r`: the access suspends, the ring enters SUSPENDED, FSEQ and XLT_FAULT_CNT count, and the record
goes to the event ring, or for the event ring's own access to HIF_EVFAULT with event 73 (R302). -/
def xltFault (d : Dev) (r : Nat) (kind : AccKind) (c iova : Nat) (write : Bool) (cause : Nat) : Dev :=
  let g := iova / 64 * 64
  let fseq := (d.get (XLT_CTX_FSEQ.FSEQ c) + 1) % 65536
  let d := (d.set (XLT_CTX_FSEQ.FSEQ c) fseq).bump Adr.XLT_FAULT_CNT
  let d := d.pmc (16 * 19 + 8) 1
  let d := d.set (HIF_RING_STATUS.STATE r) stSuspended
  let d := d.setRing r { d.ringAt r with susp := some ⟨kind, c, iova, write⟩ }
  if r = 20 then
    let d := d.set64 Adr.HIF_EVFAULT_ADDR_LO g
    let d := d.setReg Adr.HIF_EVFAULT_INFO (BitVec.ofNat 32 (cause + 256 * c + 65536 * fseq))
    ((d.set HIF_STATUS.EVRING_FAULT 1).occurOff 65 0 0).raise 73
  else
    let d : Dev := if d.ringState 20 = stDisabled then d else
      { d with evc := { d.evc with queue := d.evc.queue ++
        [(⟨65, 2, cause, r + 256 * c + 65536 * fseq, g, b2n write⟩ : EvRec)] } }
    d.occurOff 65 0 0

/-- Translate an access of ring `r` through its context; a failure suspends the ring. -/
def ringXlt (d : Dev) (r : Nat) (kind : AccKind) (iova : Nat) (write : Bool) : Dev × Option Nat :=
  let c := d.get (HIF_RING_CFG.CTX r)
  match d.translate c iova write with
  | (d, .ok a) => (d, some a)
  | (d, .error k) => (d.xltFault r kind c iova write k, none)

end Dev
end Sys2Proof.Machine
end

