-- ==== Sys2Proof/Machine/Bus.lean ====
section
/-! DEFINITION. Sys2Proof/Machine/Bus.lean: what the fabric does with a request but for registers: decode, isolation, the porch gate, the refusals of targets, and the access itself (R460, R489 to R496, R500, R504, R505, R528). -/
namespace Sys2Proof.Machine

/-- PE's master number (R488). -/
abbrev mPe : Nat := 19

namespace Dev

/-- Target `t` is isolated (R500). -/
def isolated (d : Dev) (t : Nat) : Bool := bitOf (d.get64 Adr.FAB_ISOLATED_LO) t

/-- The first DECODE or TIMEOUT since both status bits were 0 goes into FAB_ERR (R519). -/
def fabErr (d : Dev) (m a t code : Nat) (write : Bool) : Dev :=
  if d.on FAB_STATUS.DECODE || d.on FAB_STATUS.TIMEOUT then d
  else (d.set64 Adr.FAB_ERR_ADDR_LO a).setReg Adr.FAB_ERR_INFO (BitVec.ofNat 32 (m + 256 * t + 65536 * code + 2 ^ 18 * b2n write))

/-- A request completes with DECODE (R490, R518). -/
def fabDecode (d : Dev) (m a : Nat) (write : Bool) : Dev :=
  let d := d.fabErr m a 0x3F 2 write
  (((d.set FAB_STATUS.DECODE 1).bump Adr.FAB_DECODE_CNT).raise 208).pmc (16 * 22 + 8) 1

/-- Channel `c` answers `n` requests with errors (R460, R476). -/
def dmcRefuse (d : Dev) (c n : Nat) : Dev :=
  if n = 0 then d else ((d.bumpBy (Adr.DMC_ERRRESP_CNT c) n).set (DMC_STATUS.ERR_RESP c) 1).raise 207

/-- The porch gate refuses a request (R505). -/
def gateRefuse (d : Dev) : Dev := d.pmc (16 * 22 + 15) 1

/-- HIF is in block reset (R513), by its bit or by PCIE_PERST_N (R593). -/
def hifReset (d : Dev) : Bool := bitOf (d.get RST_MISC.MISC) 0 || bitOf (d.get RST_MISC_BUSY.BUSY) 0 || !d.pch.perstN

/-- Channel `c` serves requests: it is ONLINE, or in a training slot that they wait out (R460, R473). -/
def dmcServes (d : Dev) (c : Nat) : Bool := d.get (DMC_STATUS.STATE c) == 2 || d.get (DMC_STATUS.STATE c) == 3

/-- Whether a request of master `m` at `a` is refused before its target serves it, and the code (R490, R492, R496). A register-space
request here is a block's, which is never one 4 B access. -/
def busRefused (d : Dev) (m a : Nat) (write : Bool) : Dev × Option RCode :=
  match d.targetOf a with
  | .nothing => (d.fabDecode m a write, some .decode)
  | .regs => if (placeOf (a % regBase)).isNone then (d.fabDecode m a write, some .decode) else (d, some .error)
  | .bootRom =>
    if !d.chipOn then (d.gateRefuse, some .error) else (d, if write || d.isolated 35 then some .error else none)
  | .porchSram =>
    if !d.chipOn then (d.gateRefuse, some .error) else (d, if write || d.isolated 34 then some .error else none)
  | t =>
    if !d.chipOn then (d.gateRefuse, some .error)
    else if d.isolated t.num then (d, some .error)
    else
      match t with
      | .room n => (d, if d.get (ENG_STATUS.STATE n) < 2 then some .error else none)
      | .dram c _ => if d.dmcServes c then (d, none) else (d.dmcRefuse c 1, some .error)
      | .dramBad c => (d.dmcRefuse c 1, some .error)
      | .host _ => (d, if d.hifReset || !d.on HIF_STATUS.LINK_UP then some .error else none)
      | _ => (d, none)

/-- The host address behind a host-window address, through a context that translates; a failure counts in XLT_FAULT_CNT and posts no
record (R299, R496). -/
def hostWindow (d : Dev) (c iova : Nat) (write : Bool) : Dev × Option Nat :=
  match (if d.on (XLT_CTX_CFG.VALID c) && d.on (XLT_CTX_CFG.MODE c) then (d, .error 6) else d.translate c iova write) with
  | (d, .ok p) => (d, some p)
  | (d, .error _) => ((d.bump Adr.XLT_FAULT_CNT).pmc (16 * 19 + 8) 1, none)

/-- A read of `n` bytes at `a`, within 4 KiB, by master `m`: the code and, with OKAY, the bytes (R491, R496). -/
def busRead (d : Dev) (m a n : Nat) : Dev × RCode × List Byte :=
  match d.busRefused m a false with
  | (d, some c) => (d, c, [])
  | (d, none) =>
    match d.targetOf a with
    | .bootRom => (d, .okay, (List.range n).map (fun i => Config.rom (a + i)))
    | .host c =>
      match d.hostWindow c (a % 2 ^ 32) false with
      | (d, none) => (d, .error, [])
      | (d, some p) =>
        if (List.range ((p % 64 + n + 63) / 64)).any (fun i => d.hostBad.contains (p / 64 + i)) then (d, .error, [])
        else (d, .okay, d.hostAt p n)
    | _ =>
      match d.memRead m a n with
      | (d, .ok l) => (d, .okay, l)
      | (d, .error _) => (d, .error, [])

/-- A write of the bytes `cells`, by offset from `a`, within 4 KiB, by master `m`, with poison flags on the words at the offsets
`flags` (R433, R491). TSK sees a write into its pool. -/
def busWrite (d : Dev) (m a : Nat) (cells : List (Nat × Byte)) (flags : List Nat) : Dev × RCode :=
  match d.busRefused m a true with
  | (d, some c) => (d, c)
  | (d, none) =>
    match d.targetOf a with
    | .host c =>
      match d.hostWindow c (a % 2 ^ 32) true with
      | (d, none) => (d, .error)
      | (d, some p) => (cells.foldl (fun d x => d.setHost (p + x.1) [x.2]) d, .okay)
    | t =>
      let k := d.memKey a
      let keyed := cells.map (fun x => (k + x.1, x.2))
      let (d1, bad) := d.writeUnits m (flags.map (k + ·)) keyed (cellUnits keyed)
      let last := cells.foldl (fun n x => max n (x.1 + 1)) 0
      let d1 := match t with
        | .pantry _ => d.poolWatch d1 a last
        | _ => d1
      (d1, if bad.isNone then .okay else .error)

/-- The pieces of a range, none crossing a 64 B line: address and length. -/
def lines : Nat → Nat → Nat → List (Nat × Nat)
  | 0, _, _ => []
  | fuel + 1, a, n => if n = 0 then [] else
    let k := min n (64 - a % 64)
    (a, k) :: lines fuel (a + k) (n - k)

/-- The pieces of a range (R490). -/
def piecesOf (a n : Nat) : List (Nat × Nat) := lines (n / 64 + 2) a n

/-- Read the pieces for a block that takes a bad line as zeros (R81, R432). -/
def busPieces0 (d : Dev) (m : Nat) : List (Nat × Nat) → Dev × List Byte
  | [] => (d, [])
  | (a, k) :: t =>
    match d.busRead m a k with
    | (d, c, l) =>
      let (d, rest) := busPieces0 d m t
      (d, (if c == .okay then l else List.replicate k 0) ++ rest)

/-- Read `n` bytes for a block that takes a bad line as zeros (R81, R432). -/
def busRead0 (d : Dev) (m a n : Nat) : Dev × List Byte := d.busPieces0 m (piecesOf a n)

/-- Write whole bytes line by line; false where a response is an error. -/
def busPieces (d : Dev) (m : Nat) (l : List Byte) : List (Nat × Nat) → Dev × Bool
  | [] => (d, true)
  | (a, k) :: t =>
    let (d, c) := d.busWrite m a ((List.range k).zip l) []
    let (d, ok) := busPieces d m (l.drop k) t
    (d, ok && c == .okay)

/-- Write bytes from `a`; false where a response is an error. -/
def busPut (d : Dev) (m a : Nat) (l : List Byte) : Dev × Bool := d.busPieces m l (piecesOf a l.length)

end Dev
end Sys2Proof.Machine
end

