-- ==== Sys2Proof/Machine/Ecc.lean ====
section
/-! DEFINITION. Sys2Proof/Machine/Ecc.lean: write-backs, fills, scrubbing, row sparing, the log and self-test of the pantry, the rooms and porch SRAM (R431, R435, R436, R439 to R450). -/
namespace Sys2Proof.Machine

/-- The map without the keys from `a` to `a + n − 1`. -/
def dropRange {α : Type} (m : List (Nat × α)) (a n : Nat) : List (Nat × α) := m.filter (fun c => decide (c.1 < a) || decide (a + n ≤ c.1))

/-- The ECC state of the keys from `a` to `a + n − 1` as after whole-word writes with clear tags. -/
def EccState.clearRange (e : EccState) (a n : Nat) : EccState :=
  { e with
    flips := dropRange e.flips a n
    tags := dropRange e.tags a n
    ceWb := e.ceWb.filter (fun w => decide (w < a) || decide (a + n ≤ w)) }

namespace Dev

/-- Zero words with correct check bits and clear tags at the keys from `a` to `a + n − 1`. -/
def zeroRange (d : Dev) (a n : Nat) : Dev := { d with mem := dropRange d.mem a n, ecc := d.ecc.clearRange a n }

/-! ### Write-backs (R431) -/

/-- CE_WRITEBACK of the unit at internal address `a`. -/
def ceWriteback (d : Dev) (a : Nat) : Dev :=
  let w := unitOf (d.memKey a)
  if d.ecc.ceWb.contains w then { d with ecc := d.ecc.store w 0 } else d

/-! ### The fill engine (R435, R436) -/

/-- A fill or setup field is refused: event 186. -/
def fillBad (d : Dev) : Dev := (d.set ECC_STATUS.FILL_BAD 1).raise 186

/-- A range that the fill engine takes (R436). -/
def fillOk (d : Dev) (a n : Nat) : Bool :=
  decide (64 ≤ n) &&
  ((decide (pantryBase ≤ a) && decide (a + n ≤ pantryBase + 0x4000000))
  || (decide (roomBase ≤ a) && decide (a + n ≤ roomBase + 17 * 0x800000) && a / 0x800000 == (a + n - 1) / 0x800000
    && decide (2 ≤ d.get (ENG_STATUS.STATE (a % roomBase / 0x800000)))))

/-- FILL_GO. -/
def fillGo (d : Dev) : Dev :=
  let a := d.get64 Adr.ECC_FILL_ADDR_LO
  let n := (d.reg Adr.ECC_FILL_LEN).toNat
  if d.ecc.fill.isSome || !d.fillOk a n then d.fillBad
  else
    let d : Dev := { d with ecc := { d.ecc with fill := some (a, n) } }
    (d.set ECC_STATUS.FILL_BUSY 1).pmc (16 * 22 + 14) 1

/-- FILL_DONE: the range holds zero words; an armed injection in the range acts on its word, and TSK sees the pool change. -/
def fillDone (d : Dev) : Dev :=
  match d.ecc.fill with
  | none => d
  | some (a, n) =>
    let d1 := d.zeroRange a n
    let d1 : Dev := { d1 with ecc := { d1.ecc with fill := none } }
    let d1 := d1.set ECC_STATUS.FILL_BUSY 0
    let w := d1.get64 Adr.ECC_INJ_ADDR_LO
    let d1 := if a ≤ w ∧ w < a + n then d1.inject w else d1
    d.poolWatch d1 a n

/-! ### Scrubbing (R440 to R443) -/

/-- The end of the scrubbed space, and the pages of 4 KiB from the pantry to room 16. -/
abbrev scrubEnd : Nat := roomBase + 17 * 0x800000

/-- The first line at or after `a` that the scrubber reads in this pass (R440). -/
def scrubNext (d : Dev) : Nat → Nat → Option Nat
  | 0, _ => none
  | fuel + 1, a =>
    if a < pantryBase then scrubNext d fuel pantryBase
    else if pantryBase + 0x4000000 ≤ a ∧ a < roomBase then scrubNext d fuel roomBase
    else if scrubEnd ≤ a then none
    else if roomBase ≤ a ∧ d.get (ENG_STATUS.STATE (a % roomBase / 0x800000)) < 2 then
      scrubNext d fuel (0x800000 * (a / 0x800000 + 1))
    else if d.classOf a = 3 then scrubNext d fuel (4096 * (a / 4096 + 1))
    else some a

/-- Upsets of cells: the word's index in the line and the mask of the bits that flip, among 72. -/
def upset (d : Dev) (w : Nat) (l : List (Nat × Nat)) : Dev :=
  { d with ecc := { d.ecc with flips := l.foldl (fun m x =>
      if x.1 < 8 then sset (fun _ => 0) m (w + 8 * x.1) ((sget (fun _ => 0) m (w + 8 * x.1)) ^^^ (x.2 % 2 ^ 72)) else m) d.ecc.flips } }

/-- A word that the scrubber has read (R443). -/
def scrubWord (d : Dev) (w : Nat) : Dev :=
  let regen := d.classOf w == 2
  let zero := fun (d : Dev) =>
    let d := (d.zeroRange w 8).eccLog w 6 0 23
    (((d.bump Adr.ECC_REGEN_CNT).set ECC_STATUS.SCRUB_UE 1).raise 181)
  match unitState d.ecc w with
  | .clean => d
  | .ceData | .ceCheck =>
    let d := d.foundCe 23 w (failBit d.ecc w)
    { d with ecc := d.ecc.store w 0 }
  | .ue =>
    let d := d.bump (Adr.ECC_BANK_UE_CNT (bankOf w))
    if regen then zero d
    else
      let d : Dev := { d with ecc := { d.ecc with tags := sset (fun _ => 0) d.ecc.tags w 3 } }
      (((d.eccLog w 5 0 23).bump Adr.ECC_PRECIOUS_CNT).set ECC_STATUS.SCRUB_UE 1).raise 180
  | .poisoned => if regen then zero d else d

/-- Milliseconds of model time since tick `t`. -/
def msSince (d : Dev) (t : Nat) : Nat := (d.now - t) / 800000

/-- The pass ends (R440). -/
def passEnd (d : Dev) : Dev :=
  let ms := d.msSince d.ecc.since
  let d := d.setReg Adr.ECC_SCRUB_PASS_CNT (d.reg Adr.ECC_SCRUB_PASS_CNT + 1)
  let d := d.setReg Adr.ECC_SCRUB_LAST_MS (BitVec.ofNat 32 ms)
  let d := if 2000 * max 1 (d.get ECC_SCRUB_CFG.PASS_S) < ms then (d.set ECC_STATUS.SCRUB_SLOW 1).raise 187 else d
  { d with ecc := { d.ecc with scrub := 0, since := d.now } }

/-- Steps that `scrubNext` may need: a page or a room at a time. -/
abbrev scrubFuel : Nat := 0x4000 + 0x8800 + 32

/-- SCRUB_LINE: the scrubber reads its next line, whose cells have changed as `l` says since they were read last. A pass ends with
its last line. -/
def scrubLine (d : Dev) (l : List (Nat × Nat)) : Dev :=
  if !d.on ECC_SCRUB_CTRL.EN then d
  else
    match d.scrubNext scrubFuel d.ecc.scrub with
    | none => d.passEnd
    | some a =>
      let d := (d.upset a l).pmc (16 * 22 + 5) 1
      let d := (unitWords0 a).foldl scrubWord d
      let d : Dev := { d with ecc := { d.ecc with scrub := a + 64 } }
      if (d.scrubNext scrubFuel (a + 64)).isNone then d.passEnd else d
where
  /-- The eight words of a line. -/
  unitWords0 (a : Nat) : List Nat := (List.range 8).map (fun i => a + 8 * i)

/-- ECC_SCRUB_CTRL.EN was written: a pass runs, or the scrubber stops after its line (R440). -/
def scrubEn (d : Dev) : Dev :=
  let was := d.on ECC_STATUS.SCRUB_RUNNING
  let d := d.set ECC_STATUS.SCRUB_RUNNING (d.get ECC_SCRUB_CTRL.EN)
  if !was && d.on ECC_SCRUB_CTRL.EN && d.ecc.scrub == 0 then { d with ecc := { d.ecc with since := d.now } } else d

/-! ### Row sparing (R444 to R446) -/

/-- The words of row `r` of bank `b` (R428, R429). -/
def rowWords (b r : Nat) : List Nat :=
  if b < 32 then (List.range 512).map (fun i => pantryBase + 0x200000 * b + 4096 * r + 8 * i)
  else
    (List.range 128).map (fun i => roomBase + 0x800000 * ((b - 32) / 16) + 16384 * r + 256 * (i / 2) + (b - 32) % 16 * 16 + i % 2 * 8)

/-- A word copied to a spare row: corrected, or poisoned where it is bad. -/
def copyWord (e : EccState) (w : Nat) : EccState :=
  match unitState e w with
  | .clean => e
  | .ceData | .ceCheck => e.store w 0
  | .ue | .poisoned => e.store w 3

/-- ROW_SPARE_DONE: the copy that bank `b` runs ends (R445). -/
def rowSpareDone (d : Dev) (b : Nat) : Dev :=
  match d.ecc.sparing.find? (fun x => x.1 == b) with
  | none => d
  | some x =>
    let e := (rowWords b x.2).foldl copyWord d.ecc
    let d : Dev := { d with ecc := { e with
      sparing := e.sparing.erase x
      spared := e.spared ++ [x]
      rows := e.rows.filter (fun c => !(c.bank == b && c.row == x.2)) } }
    let n := d.get (ECC_BANK_STATUS.SPARES_USED b) + 1
    let d := d.set (ECC_BANK_STATUS.SPARES_USED b) n
    let d := ((d.eccLog ((rowWords b x.2).headD 0) 7 0 28).raise 182).pmc (16 * 22 + 6) 1
    if n < 8 then d
    else ((d.set (ECC_BANK_STATUS.SPARE_EXHAUSTED b) 1).set ECC_STATUS.SPARE_EXHAUSTED 1).level 183 true

/-! ### The log (R448) -/

/-- ECC_LOG_POP: a read of ECC_LOG_POP; VALID says whether there was an entry. -/
def eccPop (d : Dev) : Dev :=
  match d.ecc.log with
  | [] => d.set ECC_LOG_POP.VALID 0
  | x :: t =>
    let d : Dev := { d with ecc := { d.ecc with log := t } }
    let d := (d.set ECC_LOG_CFG.COUNT t.length).set ECC_LOG_POP.VALID 1
    let d := d.set64 Adr.ECC_LOG_ADDR_LO x.addr
    d.setReg Adr.ECC_LOG_INFO (BitVec.ofNat 32 (x.typ + x.bit * 16 + 2 ^ 11 * x.req + 2 ^ 16 * x.region + 2 ^ 23 * x.row))

/-! ### Self-test (R438, R439) -/

/-- The result of one bank: whether it passed, rows mapped to spares. -/
def bankResult (d : Dev) (b : Nat) (pass : Bool) (rows : Nat) : Dev :=
  let n := min rows 8
  let d := ((d.set (ECC_BANK_STATUS.BIST_DONE b) 1).set (ECC_BANK_STATUS.BIST_PASS b) (b2n pass)).set (ECC_BANK_STATUS.BIST_SPARED b) n
  let d := d.set (ECC_BANK_STATUS.SPARES_USED b) n
  if n < 8 then d
  else ((d.set (ECC_BANK_STATUS.SPARE_EXHAUSTED b) 1).set ECC_STATUS.SPARE_EXHAUSTED 1).level 183 true

/-- The results of `n` banks from bank `b`: bit i of `fails` for bank b + i, and the rows that each mapped to spares. -/
def bankResults (d : Dev) (b n fails : Nat) (rows : List Nat) : Dev :=
  (List.range n).foldl (fun d i => d.bankResult (b + i) (!bitOf fails i) (rows.getD i 0)) d

/-! ### Porch SRAM (R450) -/

/-- A word of porch SRAM that the porch's scrubber has read: every address is precious. -/
def porchWord (d : Dev) (w : Nat) : Dev :=
  match unitState d.ecc w with
  | .clean | .poisoned => d
  | .ceData | .ceCheck =>
    let d := d.foundCe mPe w (failBit d.ecc w)
    { d with ecc := d.ecc.store w 0 }
  | .ue => d.foundUe mPe w

/-- PORCH_SCRUB_LINE: the porch's scrubber reads its next line, whose cells have changed as `l` says. -/
def porchScrub (d : Dev) (l : List (Nat × Nat)) : Dev :=
  if !d.pch.up then d
  else
    let a := porchBase + d.ecc.pscrub % 0x80000
    let d := d.upset a l
    let d := ((List.range 8).map (fun i => a + 8 * i)).foldl porchWord d
    { d with ecc := { d.ecc with pscrub := (d.ecc.pscrub + 64) % 0x80000 } }

end Dev
end Sys2Proof.Machine
end

