-- ==== Sys2Proof/Machine/Dmc.lean ====
section
/-! DEFINITION. Sys2Proof/Machine/Dmc.lean: the DRAM channels: states, fencing, refresh, training, the request queues, patrol scrub (R454 to R487). -/
namespace Sys2Proof.Machine

/-- Channel states (R480). -/
abbrev dmcOff : Nat := 0
abbrev dmcInit0 : Nat := 1
abbrev dmcOnline : Nat := 2
abbrev dmcSlot : Nat := 3
abbrev dmcFenced : Nat := 4
abbrev dmcSref : Nat := 5

/-- DMC maintenance's master number (R488). -/
abbrev mDmc : Nat := 25

/-- The step of a reported rate (R467). -/
def refStep : RefRate → Nat
  | .slower => 0
  | .normal => 0
  | .doubled => 1
  | .quadrupled => 2
  | .outside => 3

/-- The multiplier m of a step; at step 3 the controller refreshes at m = 4 (R467, R469). -/
def multOf (step : Nat) : Nat := if step = 0 then 1 else if step = 1 then 2 else 4

/-- Lines that a request covers. -/
def DramReq.lines (q : DramReq) : Nat := if q.write then (Dev.cellUnits q.cells).length else (Dev.unitsOf q.key q.n).length

namespace Dev

def dmcAt (d : Dev) (c : Nat) : DmcChan := vat d.dmc.chan c
def setDmc (d : Dev) (c : Nat) (x : DmcChan) : Dev := { d with dmc := { d.dmc with chan := vput d.dmc.chan c x } }
def rankAt (d : Dev) (c r : Nat) : Rank := vat (d.dmcAt c).rank r
def setRank (d : Dev) (c r : Nat) (x : Rank) : Dev := d.setDmc c { d.dmcAt c with rank := vput (d.dmcAt c).rank r x }

def dmcState (d : Dev) (c : Nat) : Nat := d.get (DMC_STATUS.STATE c)

/-- The channel's ranks. -/
def ranksOf (d : Dev) (c : Nat) : List Nat := if d.on (DMC_CFG.RANKS c) then [0, 1] else [0]

/-- The channel enters a state; FENCE and SREF read as the state is, and event 192 + c is up while it is FENCED (R477, R480). -/
def toState (d : Dev) (c s : Nat) : Dev :=
  let d := d.set (DMC_STATUS.STATE c) s
  let d := (d.set (DMC_CTRL.FENCE c) (b2n (s == dmcFenced))).set (DMC_CTRL.SREF c) (b2n (s == dmcSref))
  d.level (192 + c) (s == dmcFenced) (c + 8 * d.get (DMC_CFG.MAP 0))

/-- CFG_BAD or CFG_LOCKED is set: event 206. -/
def dmcCfg (d : Dev) (f : Fld) : Dev := (d.set f 1).raise 206

/-- The contents of channel `c` are lost. -/
def dramLost (d : Dev) (c : Nat) : Dev := d.zeroRange (2 ^ 40 + 2 ^ 33 * c) (2 ^ 33)

/-! ### Responses -/

/-- The first transaction of a master and ID at a target that has no answer yet gets it (R494). -/
def answer (d : Dev) (m id t : Nat) (c : RCode) (l : List Byte) : Dev :=
  match d.fab.outs.findIdx? (fun x => x.master == m && x.id == id && x.target == t && x.ans.isNone) with
  | none => d
  | some i => { d with fab := { d.fab with outs := d.fab.outs.modify i (fun x => { x with ans := some (c, l) }) } }

/-- Every queued request of channel `c` completes with an error response (R476, R513). -/
def failQueue (d : Dev) (c : Nat) : Dev :=
  let x := d.dmcAt c
  let all := x.queue ++ x.wait
  let d := d.setDmc c { x with queue := [], wait := [], drain := false }
  (all.foldl (fun d q => d.answer q.master q.id (8 + c) .error []) d).dmcRefuse c all.length

/-! ### The request queues (R461 to R465) -/

/-- The rank of a channel offset and the address within it, check bytes included (R456, R459). -/
def rankAddr (d : Dev) (c o : Nat) : Nat × Nat :=
  let half := d.dramUsable / 2
  let two := d.on (DMC_CFG.RANKS c) && decide (half ≤ o)
  let r := if two then o - half else o
  (b2n two, 36864 * (r / 32768) + r % 32768)

/-- The bank, of all ranks, and the row of a key (R461). -/
def bankRow (d : Dev) (c k : Nat) : Nat × Nat :=
  let (r, a) := d.rankAddr c (k % 2 ^ 33)
  let bg := bitsOf a 11 2 ^^^ bitsOf a 15 2
  let b := bitsOf a 13 2 ^^^ bitsOf a 17 2
  (16 * r + 4 * bg + b, a / 2 ^ 15)

/-- A request hits an open row. -/
def rowHit (d : Dev) (c : Nat) (q : DramReq) : Bool := (d.dmcAt c).rows.contains (d.bankRow c q.key)

/-- Lines in the read queue and in the write queue. -/
def readLines (x : DmcChan) : Nat := (x.queue.filter (fun q => !q.write)).foldl (fun n q => n + q.lines) 0
def writeLines (x : DmcChan) : Nat := (x.queue.filter (fun q => q.write)).foldl (fun n q => n + q.lines) 0

/-- The queue has room for a request (R463). -/
def roomFor (x : DmcChan) (q : DramReq) : Bool :=
  if q.write then decide (writeLines x + q.lines ≤ 64) else decide (readLines x + q.lines ≤ 64)

/-- A drain of writes begins at WQ_HIGH and ends at WQ_LOW. -/
def drainMark (d : Dev) (c : Nat) (x : DmcChan) : DmcChan :=
  { x with drain := if d.get (DMC_QOS.WQ_HIGH c) ≤ writeLines x ∧ 0 < writeLines x then true
      else if writeLines x ≤ d.get (DMC_QOS.WQ_LOW c) then false else x.drain }

/-- Requests that wait in the fabric enter the queue in order while it has room for them. -/
def takeIn : Nat → Dev → Nat → Dev
  | 0, d, _ => d
  | fuel + 1, d, c =>
    let x := d.dmcAt c
    match x.wait with
    | [] => d
    | q :: t =>
      if d.dmcState c = dmcOnline ∧ roomFor x q = true then
        takeIn fuel (d.setDmc c (d.drainMark c { x with queue := x.queue ++ [q], wait := t })) c
      else d

/-- A request reaches the channel. -/
def enqueue (d : Dev) (c : Nat) (q : DramReq) : Dev :=
  let d := d.setDmc c { d.dmcAt c with wait := (d.dmcAt c).wait ++ [q] }
  takeIn (d.dmcAt c).wait.length d c

/-- A request whose master and ID have no earlier one in the queue (R465). -/
def firstOfId (l : List DramReq) (q : DramReq) : Bool :=
  match l.find? (fun p => p.master == q.master && p.id == q.id) with
  | some p => p == q
  | none => true

/-- The more urgent of two reads, the first being the older: by class, then by an open row (R463). -/
def better (d : Dev) (c : Nat) (a b : DramReq) : DramReq :=
  if b.cls < a.cls ∨ (b.cls = a.cls ∧ d.rowHit c b = true ∧ d.rowHit c a = false) then b else a

/-- The request that the channel schedules next (R463). -/
def choose (d : Dev) (c : Nat) : Option DramReq :=
  let x := d.dmcAt c
  let age := d.get (DMC_QOS.AGE_LIMIT c)
  match x.queue.find? (fun q => age != 0 && decide (age < d.now - q.since)) with
  | some q => some q
  | none =>
    let ok := x.queue.filter (firstOfId x.queue)
    let best : Option DramReq := match ok.filter (fun q => !q.write) with
      | [] => none
      | a :: t => some (t.foldl (d.better c) a)
    let write := ok.find? (fun q => q.write)
    let noRead := x.queue.all (fun q => q.write)
    let cut := x.queue.any (fun q => !q.write && q.cls == 0) && decide (writeLines x < 64)
    if noRead || (x.drain && !cut) then write.orElse (fun _ => best) else best.orElse (fun _ => write)

/-- The bytes that earlier queued writes hold for the unit `w`, the newest last, and whether one of them poisons it. -/
def queuedFor (l : List DramReq) (w : Nat) : List (Nat × Byte) × Bool :=
  let ws := l.filter (fun q => q.write)
  (ws.flatMap (fun q => q.cells.filter (fun x => unitOf x.1 == w)), ws.any (fun q => q.flags.any (fun f => unitOf f == w)))

/-- Read one line with what the queued writes hold of it (R465): its bytes, or an error. -/
def lineRead (d : Dev) (m : Nat) (earlier : List DramReq) (w : Nat) : Dev × Option (List Byte) :=
  let (cells, bad) := queuedFor earlier w
  let whole := (List.range 64).all (fun i => cells.any (fun x => x.1 == w + i))
  let (d, ok) := if whole then (d, true) else d.readUnit m w
  if bad || !ok then (d, none)
  else (d, some ((List.range 64).map (fun i => match (cells.filter (fun x => x.1 == w + i)).getLast? with
    | some x => x.2
    | none => d.byteAt (w + i))))

/-- Read the lines of a request. -/
def linesRead (d : Dev) (m : Nat) (earlier : List DramReq) : List Nat → Dev × Option (List Byte)
  | [] => (d, some [])
  | w :: t =>
    let (d, a) := d.lineRead m earlier w
    let (d, b) := linesRead d m earlier t
    (d, match a, b with
      | some a, some b => some (a ++ b)
      | _, _ => none)

/-- The rows open after an access of `q`: its row, unless it closes and no queued request hits it (R464). -/
def rowsAfterReq (d : Dev) (c : Nat) (q : DramReq) (rest : List DramReq) : List (Nat × Nat) :=
  let br := d.bankRow c q.key
  let others := (d.dmcAt c).rows.filter (fun x => x.1 != br.1)
  if q.close && !rest.any (fun p => d.bankRow c p.key == br) then others else others ++ [br]

/-- The channel serves one queued request. -/
def serve (d : Dev) (c : Nat) (q : DramReq) : Dev :=
  let x := d.dmcAt c
  let rest := x.queue.erase q
  let d := d.setDmc c (d.drainMark c { x with queue := rest, rows := d.rowsAfterReq c q rest })
  let rk := (d.bankRow c q.key).1 / 16
  let d := d.setRank c rk { d.rankAt c rk with down := false }
  let d :=
    if q.write then
      let (d, bad) := d.writeUnits q.master q.flags q.cells (cellUnits q.cells)
      d.answer q.master q.id (8 + c) (if bad.isNone then .okay else .error) []
    else
      let earlier := x.queue.takeWhile (fun p => p != q)
      let (d, l) := d.linesRead q.master earlier (unitsOf q.key q.n)
      let d := d.pmc (16 * 23 + 2 * c) q.lines
      match l with
      | some l => d.answer q.master q.id (8 + c) .okay (slice l (q.key % 64) q.n)
      | none => d.answer q.master q.id (8 + c) .error []
  takeIn (d.dmcAt c).wait.length d c

/-- DRAM_REQUEST of channel `c` (R463). -/
def dramRequest (d : Dev) (c : Nat) : Dev :=
  if d.dmcState c ≠ dmcOnline then d
  else
    match d.choose c with
    | none => d
    | some q => d.serve c q

/-- Serve every request queued. -/
def serveAll : Nat → Dev → Nat → Dev
  | 0, d, _ => d
  | fuel + 1, d, c =>
    match d.choose c with
    | none => d
    | some q => serveAll fuel (d.serve c q) c

/-! ### Refresh (R466 to R469) -/

/-- DEBT and STEP show the highest of any rank. -/
def rankShow (d : Dev) (c : Nat) : Dev :=
  let a := d.rankAt c 0
  let b := d.rankAt c 1
  let d := (d.set (DMC_STATUS.DEBT c) (max a.debt b.debt)).set (DMC_STATUS.STEP c) (max a.step b.step)
  d.set (DMC_STATUS.HOT c) (b2n (a.step == 2 || b.step == 2))

/-- REFab or eight REFpb: the rank's rows are closed and it is awake. -/
def refreshed (d : Dev) (c r : Nat) : Dev :=
  let d := d.setDmc c { d.dmcAt c with rows := (d.dmcAt c).rows.filter (fun x => x.1 / 16 != r) }
  d.setRank c r { d.rankAt c r with down := false }

/-- The channel refreshes: it is in INIT, ONLINE, SLOT or FENCED. -/
def refreshes (d : Dev) (c : Nat) : Bool := decide (1 ≤ d.dmcState c) && decide (d.dmcState c ≤ 4)

/-- REFRESH_DUE of rank `r` (R466). -/
def refreshDue (d : Dev) (c r : Nat) : Dev :=
  if !(d.refreshes c && (d.ranksOf c).contains r) then d
  else if (d.dmcAt c).queue.any (fun q => decide (q.cls < 2)) && decide ((d.rankAt c r).debt < 8) then
    (d.setRank c r { d.rankAt c r with debt := (d.rankAt c r).debt + 1 }).rankShow c
  else d.refreshed c r

/-- REFRESH_REPAY: one postponed REFab of the rank with the higher debt (R466). -/
def refreshRepay (d : Dev) (c : Nat) : Dev :=
  let r := if (d.rankAt c 0).debt < (d.rankAt c 1).debt then 1 else 0
  if !(d.refreshes c && (d.dmcAt c).queue.isEmpty) || (d.rankAt c r).debt == 0 then d
  else ((d.setRank c r { d.rankAt c r with debt := (d.rankAt c r).debt - 1 }).refreshed c r).rankShow c

/-- A rank moves to a step: its debt is rescaled, and a debt above 8 is worked off in a forced burst (R468). -/
def rankStep (d : Dev) (c r step : Nat) : Dev :=
  let x := d.rankAt c r
  if x.step = step then d
  else
    let debt := (x.debt * multOf step + multOf x.step - 1) / multOf x.step
    let d := d.setRank c r { x with step := step, debt := min debt 8 }
    if debt ≤ 8 then d
    else
      let d := (d.refreshed c r).pmc (16 * 23 + 2 * c + 1) 1
      ((d.bump (Adr.DMC_FORCED_CNT c)).set (DMC_STATUS.FORCED c) 1).raise 204

/-- The delay registers of a channel (R471). -/
def delayRegs (c : Nat) : List Nat :=
  (List.range 18).map (fun i => Adr.DMC_DQ_DLY c i) ++ (List.range 8).map (fun i => Adr.DMC_CA_DLY c i) ++ [Adr.DMC_WCK_DLY c]

/-- The slot ends; the saved delays come back unless they are to be kept (R474). A running operation is abandoned. -/
def slotOver (d : Dev) (c : Nat) (keep : Bool) : Dev :=
  match (d.dmcAt c).slot with
  | none => d
  | some s =>
    let d := if keep then d else s.saved.foldl (fun d x => d.setReg x.1 x.2) d
    let d := (d.setDmc c { d.dmcAt c with slot := none }).set (DMC_TRN_STATUS.BUSY c) 0
    { d with dmc := { d.dmc with slotEnd := some d.now } }

/-- The channel is fenced (R476); a slot ends with the saved delays (R485). -/
def fence (d : Dev) (c : Nat) : Dev :=
  let d := d.slotOver c false
  ((d.set (DMC_TRN_STATUS.SLOT_PENDING c) 0).toState c dmcFenced).failQueue c

/-- HOT, OOR and their events follow the steps of all ranks; a rank at step 3 fences every channel (R469). -/
def tempShow (d : Dev) : Dev :=
  let any := fun (s : Nat) => (List.range 8).any (fun c => (d.rankAt c 0).step == s || (d.rankAt c 1).step == s)
  let d := d.level 200 (any 2)
  let d := (List.range 8).foldl (fun d c => d.set (DMC_STATUS.OOR c) (b2n (any 3))) d
  let d := d.level 201 (any 3)
  if any 3 then
    (List.range 8).foldl (fun d c => if d.dmcState c = dmcOnline ∨ d.dmcState c = dmcSlot then d.fence c else d) d
  else d

/-- MR4_POLL: the value of each rank's MR4 and the rate that it reports (R467). A poll that falls due in a slot waits (R485). -/
def mr4Poll (d : Dev) (c : Nat) (v0 v1 : Byte) (r0 r1 : RefRate) : Dev :=
  if !d.refreshes c || d.dmcState c == dmcSlot then d
  else
    let two := d.on (DMC_CFG.RANKS c)
    let d := d.set (DMC_MR4.RANK0 c) v0.toNat
    let d := if two then d.set (DMC_MR4.RANK1 c) v1.toNat else d
    let d := d.rankStep c 0 (refStep r0)
    let d := if two then d.rankStep c 1 (refStep r1) else d
    (d.rankShow c).tempShow

/-! ### States (R480 to R484) -/

/-- A field that INIT refuses (R481): a timing field of 0, a rank size above 4 GiB in all, setup that differs from a live channel's. -/
def initBad (d : Dev) (c : Nat) : Bool :=
  let bytes := fun (a n : Nat) => (List.range n).any (fun i => bitsOf (d.reg a).toNat (8 * i) 8 == 0)
  let setup := fun (c : Nat) => [(d.reg (Adr.DMC_CFG c)).toNat % 64, (d.reg (Adr.DMC_REF0 c)).toNat, (d.reg (Adr.DMC_REF1 c)).toNat,
    (d.reg (Adr.DMC_AC0 c)).toNat, (d.reg (Adr.DMC_AC1 c)).toNat, (d.reg (Adr.DMC_AC2 c)).toNat, (d.reg (Adr.DMC_AC3 c)).toNat]
  d.get (DMC_REF0.TREFI_NS c) == 0 || d.get (DMC_REF1.TRFCAB_NS c) == 0 || d.get (DMC_REF1.TRFCPB_NS c) == 0
  || bytes (Adr.DMC_AC0 c) 4 || bytes (Adr.DMC_AC1 c) 4 || bytes (Adr.DMC_AC2 c) 4 || bytes (Adr.DMC_AC3 c) 2
  || d.get (DMC_CFG.RANK_SIZE c) == 3 || decide (4 < (1 + d.get (DMC_CFG.RANKS c)) * 2 ^ d.get (DMC_CFG.RANK_SIZE c))
  || (List.range 8).any (fun k => k != c && d.dmcState k != dmcOff && setup k != setup c)

/-- INIT written: power-up starts, with or without KEEP (R481). -/
def dmcInit (d : Dev) (c : Nat) (keep : Bool) : Dev :=
  if d.dmcState c ≠ dmcOff ∨ (d.dmcAt c).power.isSome = true then d
  else if d.initBad c then d.dmcCfg (DMC_STATUS.CFG_BAD c)
  else d.setDmc c { d.dmcAt c with power := some keep }

/-- DMC_POWERUP_DONE (R480): the contents survive only where KEEP found the DRAM in self-refresh. -/
def dmcPowerup (d : Dev) (c : Nat) : Dev :=
  match (d.dmcAt c).power with
  | none => d
  | some keep =>
    let d := if keep && (d.dmcAt c).kept then d else d.dramLost c
    let d := d.setDmc c { DmcChan.resetWith false with patrol := (d.dmcAt c).patrol }
    ((d.toState c dmcInit0).rankShow c).tempShow

/-- FILL written in INIT (R482). -/
def dmcFill (d : Dev) (c : Nat) : Dev := if d.dmcState c = dmcInit0 then d.set (DMC_TRN_STATUS.FILL_BUSY c) 1 else d

/-- DMC_FILL_DONE: every line holds zero data, with no poison (R482). -/
def dmcFillDone (d : Dev) (c : Nat) : Dev :=
  if d.on (DMC_TRN_STATUS.FILL_BUSY c) then (d.dramLost c).set (DMC_TRN_STATUS.FILL_BUSY c) 0 else d

/-- SREF written 1 from ONLINE: queued requests are served, the debt is repaid, every rank enters self-refresh (R484). -/
def srefEnter (d : Dev) (c : Nat) : Dev :=
  if d.dmcState c ≠ dmcOnline then d
  else
    let d := serveAll ((d.dmcAt c).queue.length + (d.dmcAt c).wait.length) d c
    let d := (d.setRank c 0 { d.rankAt c 0 with debt := 0, down := false })
    let d := (d.setRank c 1 { d.rankAt c 1 with debt := 0, down := false })
    let d := d.setDmc c { d.dmcAt c with rows := [] }
    ((d.set (DMC_TRN_STATUS.SLOT_PENDING c) 0).rankShow c).toState c dmcSref

/-- A write of DMC_CTRL: `w` is the word written. -/
def dmcCtrl (d : Dev) (c : Nat) (w : Word) : Dev :=
  let b := fun i => bitOf w.toNat i
  let d := if b 0 then d.dmcInit c (b 1) else d
  let d := if b 2 then d.dmcFill c else d
  let d := if b 3 && d.dmcState c == dmcInit0 then d.toState c dmcOnline else d
  let d := if b 4 && d.dmcState c == dmcOnline then d.fence c
    else if !b 4 && d.dmcState c == dmcFenced && !d.on (DMC_STATUS.OOR c) then d.toState c dmcOnline else d
  let d := if b 5 then d.srefEnter c else if d.dmcState c = dmcSref then d.toState c dmcOnline else d
  d.toState c (d.dmcState c)

/-- POWER_DOWN_ENTRY of rank `r` (R484). -/
def powerDown (d : Dev) (c r : Nat) : Dev :=
  if d.get (DMC_PD.IDLE c) = 0 ∨ d.refreshes c = false ∨ (d.ranksOf c).contains r = false
    ∨ (d.dmcAt c).queue.any (fun q => (d.bankRow c q.key).1 / 16 == r) = true then d
  else d.setRank c r { d.rankAt c r with down := true }

/-! ### Training (R472 to R474) -/

/-- The states in which operations run and delays are written. -/
def trains (d : Dev) (c : Nat) : Bool := d.dmcState c == dmcInit0 || d.dmcState c == dmcSlot || d.dmcState c == dmcFenced

/-- A slot ends and the channel goes back to ONLINE. -/
def slotClose (d : Dev) (c : Nat) (keep : Bool) : Dev :=
  if d.dmcState c ≠ dmcSlot then d
  else
    let d := (d.slotOver c keep).toState c dmcOnline
    takeIn (d.dmcAt c).wait.length d c

/-- A write of DMC_TRN_CTRL: `w` is the word written. -/
def trnCtrl (d : Dev) (c : Nat) (w : Word) : Dev :=
  let b := fun i => bitOf w.toNat i
  let op := bitsOf w.toNat 0 3
  let d :=
    if !b 24 || op == 0 || decide (5 ≤ op) then d
    else if !d.trains c then d.set (DMC_TRN_STATUS.REFUSED c) 1
    else d.set (DMC_TRN_STATUS.BUSY c) 1
  let d := if b 25 && d.dmcState c == dmcOnline then d.set (DMC_TRN_STATUS.SLOT_PENDING c) 1 else d
  let d := if b 26 then d.slotClose c true else d
  if b 27 then d.slotClose c false else d

/-- TRAINING_OP_DONE: the operation ends with the outcome that the DRAM gave (R472). -/
def trainDone (d : Dev) (c : Nat) (fail : Nat) : Dev :=
  if !d.on (DMC_TRN_STATUS.BUSY c) then d
  else
    let w := match d.get (DMC_TRN_CTRL.OP c) with
      | 1 => 2
      | 4 => 8
      | _ => 18
    let d := (d.set (DMC_TRN_STATUS.BUSY c) 0).set (DMC_TRN_STATUS.DONE c) 1
    (d.set (DMC_TRN_RESULT.FAIL c) (fail % 2 ^ w)).raise 205

/-- TRAINING_SLOT_OPEN: the conditions of R473. -/
def slotReady (d : Dev) (c : Nat) : Bool :=
  d.on (DMC_TRN_STATUS.SLOT_PENDING c) && d.dmcState c == dmcOnline && (d.rankAt c 0).debt == 0 && (d.rankAt c 1).debt == 0
    && !(d.dmcAt c).queue.any (fun q => q.cls == 0) && (List.range 8).all (fun k => d.dmcState k != dmcSlot)
    && (match d.dmc.slotEnd with
      | none => true
      | some t => decide (800000 ≤ d.now - t))

/-- TRAINING_SLOT_OPEN (R473). -/
def slotOpen (d : Dev) (c : Nat) : Dev :=
  if !d.slotReady c then d
  else
    let d := serveAll ((d.dmcAt c).queue.length + (d.dmcAt c).wait.length) d c
    let saved := (delayRegs c).map (fun a => (a, d.reg a))
    let d := d.setDmc c { d.dmcAt c with slot := some ⟨d.now, saved⟩ }
    ((d.set (DMC_TRN_STATUS.SLOT_PENDING c) 0).pmc (16 * 23 + 2 * c + 1) 1).toState c dmcSlot

/-- SLOT_OVERRUN, 20 µs after the channel stopped taking requests (R474). -/
def slotOverrun (d : Dev) (c : Nat) : Dev :=
  if d.dmcState c ≠ dmcSlot then d
  else ((d.slotClose c false).set (DMC_TRN_STATUS.SLOT_OVERRUN c) 1).raise 205

/-! ### Patrol scrub (R483) -/

/-- PATROL_SCRUB: maintenance reads its next line, whose cells have changed as `l` says since they were read last. -/
def patrolScrub (d : Dev) (c : Nat) (l : List (Nat × Nat)) : Dev :=
  if !(d.on (DMC_SCRUB.EN c) && d.dmcState c == dmcOnline) then d
  else
    let o := (d.dmcAt c).patrol % d.dramUsable
    let w := 2 ^ 40 + 2 ^ 33 * c + o
    let d := d.upset w l
    let d := match unitState d.ecc w with
      | .clean => d
      | .poisoned => d
      | .ceData | .ceCheck =>
        let d := d.foundCe mDmc w (failBit d.ecc w)
        { d with ecc := d.ecc.store w 0 }
      | .ue => d.foundUe mDmc w
    d.setDmc c { d.dmcAt c with patrol := (o + 64) % d.dramUsable }

/-! ### Reset (R480, R513) -/

/-- Channel `c` goes to OFF; its contents stay only where they are in self-refresh. -/
def dmcReset (d : Dev) (c : Nat) : Dev :=
  let kept := d.dmcState c == dmcSref || (d.dmcState c == dmcOff && (d.dmcAt c).kept)
  let d := if kept then d else d.dramLost c
  let d := d.failQueue c
  let d := (d.setDmc c (.resetWith kept)).toState c dmcOff
  let d := (delayRegs c).foldl (fun d a => d.setReg a (resetValue a)) d
  let d := (d.setReg (Adr.DMC_CTRL c) 0).setReg (Adr.DMC_TRN_STATUS c) 0
  (d.rankShow c).tempShow

end Dev
end Sys2Proof.Machine
end

