-- ==== Sys2Proof/Machine/Conceal.lean ====
section
/-! DEFINITION. Sys2Proof/Machine/Conceal.lean: the concealment policy (R384, R385). -/
namespace Sys2Proof.Machine

/-- The user of a stream, in FE_CONC order: FLOW, SAP, OUT, GANG. -/
def concUser (id : Nat) : Nat := if id < 512 then 0 else if id < 528 then 1 else if id < 544 then 2 else 3

/-- The stream of one direction of a serial port: 0 receive, 1 transmit. -/
def sapStream (p dir : Nat) : Nat := 512 + 2 * p + dir
/-- The stream of slot `k`'s outputs. -/
def outStream (k : Nat) : Nat := 528 + k
/-- The stream of a peer's gap in output `y` of the owner's share. -/
def gangStream (y : Nat) : Nat := 544 + y

/-- A state's number in CSTATE; one less than it, HOLD to RESUME are the counters' order. -/
def ConcState.num : ConcState → Nat
  | .play => 0
  | .hold => 1
  | .ramp => 2
  | .mute => 3
  | .resume => 4

/-- The `i`-th sample of RAMP from `c`. -/
def rampOut (per : Nat) (c : Int) (i : Nat) : Int := if per ≤ i then 0 else roundDiv (c * ((per - 1 - i : Nat) : Int)) per

/-- What a state without data outputs at its `i`-th sample, for a channel that held `c`. -/
def gapOut (per : Nat) (st : ConcState) (i : Nat) (c : Int) : Int :=
  match st with
  | .hold => c
  | .ramp => rampOut per c i
  | _ => 0

namespace Dev

/-- The policy's state of stream `id`; one that has never been in the policy plays. -/
def concAt (d : Dev) (id : Nat) : Conceal := sget (fun _ => Conceal.playing) d.fe.conc id

/-- Replace it; STATUS.CSTATE shows a receive flow's. -/
def setConc (d : Dev) (id : Nat) (x : Conceal) : Dev :=
  let d : Dev := { d with fe := { d.fe with conc := sset (fun _ => Conceal.playing) d.fe.conc id x } }
  if id < 512 then d.set (FE_RXF_STATUS.CSTATE id) x.st.num else d

/-- Enter a state: PLAY is not counted; event 113 for a flow that enters HOLD (R385). -/
def concEnter (d : Dev) (id : Nat) (x : Conceal) : Dev :=
  let d := d.setConc id { x with n := 0 }
  match x.st with
  | .play => d
  | .hold =>
    let d := d.bump (Adr.FE_CONC (4 * concUser id))
    if concUser id = 0 then d.raise 113 else d
  | s => d.bump (Adr.FE_CONC (4 * concUser id + (s.num - 1)))

/-- HOLD_LIMIT × P. -/
def holdLen (d : Dev) : Nat := d.aget FE_CONCEAL.HOLD_LIMIT * d.perLen

/-- HOLD has lasted H × P samples: RAMP. -/
def concHoldEnd (d : Dev) (id : Nat) : Dev :=
  let x := d.concAt id
  if x.st = .hold ∧ d.holdLen ≤ x.n then d.concEnter id { x with st := .ramp } else d

/-- RAMP has lasted P samples: MUTE. -/
def concRampEnd (d : Dev) (id : Nat) : Dev :=
  let x := d.concAt id
  if x.st = .ramp ∧ d.perLen ≤ x.n then d.concEnter id { x with st := .mute } else d

/-- RESUME has lasted 16 samples: PLAY. -/
def concResumeEnd (d : Dev) (id : Nat) : Dev :=
  let x := d.concAt id
  if x.st = .resume ∧ 16 ≤ x.n then d.concEnter id { x with st := .play } else d

/-- The state ends that are due. -/
def concDue (d : Dev) (id : Nat) : Dev := ((d.concHoldEnd id).concRampEnd id).concResumeEnd id

/-- What the data of the next sample, or its want, changes: HOLD at a missing sample, RESUME when data is present again. -/
def concData (d : Dev) (id : Nat) (present : Bool) : Dev :=
  let x := d.concAt id
  match x.st, present with
  | .play, false => (d.concEnter id { x with st := .hold, c := x.last }).concHoldEnd id
  | .resume, false => (d.concEnter id { x with st := .hold, c := x.last }).concHoldEnd id
  | .hold, true => d.concEnter id { x with st := .resume, left := .hold, leftN := x.n }
  | .ramp, true => d.concEnter id { x with st := .resume, left := .ramp, leftN := x.n }
  | .mute, true => d.concEnter id { x with st := .resume, left := .mute, leftN := x.n }
  | _, _ => d

/-- The output of a channel that held `c`, at the stream's next sample. -/
def concOut (per : Nat) (x : Conceal) (c data : Int) : Int :=
  match x.st with
  | .play => data
  | .resume =>
    let z := gapOut per x.left (x.leftN + x.n) c
    roundDiv (((15 - x.n : Nat) : Int) * z + ((x.n + 1 : Nat) : Int) * data) 16
  | s => gapOut per s x.n c

/-- One render sample of a stream of `ch` channels. -/
def concSample (d : Dev) (id ch : Nat) (data : Option (List Int)) : Dev × List Int :=
  let d := (d.concDue id).concData id data.isSome
  let x := d.concAt id
  let l := data.getD []
  let out := (List.range ch).map (fun i => concOut d.perLen x (x.c.getD i 0) (l.getD i 0))
  let d := d.setConc id { x with n := if x.st = .play then 0 else x.n + 1, last := out }
  if x.st = .play || d.fe.mark.contains id then (d, out)
  else ({ d with fe := { d.fe with mark := d.fe.mark ++ [id] } }, out)

/-- A run of samples: the outputs, sample by sample. -/
def concRun (d : Dev) (id ch : Nat) : List (Option (List Int)) → Dev × List (List Int)
  | [] => (d, [])
  | x :: t =>
    let (d1, o) := d.concSample id ch x
    let (d2, os) := concRun d1 id ch t
    (d2, o :: os)

end Dev
end Sys2Proof.Machine
end

