-- ==== Sys2Proof/Machine/Frame.lean ====
section
/-! DEFINITION. Sys2Proof/Machine/Frame.lean: Ethernet frames: FCS, tags, IP and UDP headers, PTP messages, checksums (R316, R318, R322, R343, R359, R361, R371, R383). -/
namespace Sys2Proof.Machine

/-- The big-endian value of bytes `i` to `i + n − 1`. -/
def be (l : List Byte) (i n : Nat) : Nat := ofNet (slice l i n)

/-- `l` with `x` in place of its bytes from `i` on. -/
def patch (l : List Byte) (i : Nat) (x : List Byte) : List Byte := l.take i ++ x ++ l.drop (i + x.length)

/-! ### CRCs -/

/-- Eight steps of a reflected CRC with polynomial `poly`. -/
def crcBits (poly : Nat) : Nat → Nat → Nat
  | 0, c => c
  | n + 1, c => crcBits poly n (if c % 2 = 1 then c / 2 ^^^ poly else c / 2)

/-- A reflected 32-bit CRC, all ones at its start and inverted at its end. -/
def crc32By (poly : Nat) (l : List Byte) : Nat :=
  l.foldl (fun c b => crcBits poly 8 (c ^^^ b.toNat)) 0xFFFFFFFF ^^^ 0xFFFFFFFF

/-- The CRC-32 of IEEE 802.3. -/
def crc32 (l : List Byte) : Nat := crc32By 0xEDB88320 l
/-- The CRC-32C. -/
def crc32c (l : List Byte) : Nat := crc32By 0x82F63B78 l

/-- A frame padded to 60 B (R318). -/
def padded (l : List Byte) : List Byte := l ++ List.replicate (60 - l.length) 0

/-- The frame on the wire: padded, with its FCS, inverted for a stomped frame (R318, R342). -/
def withFcs (l : List Byte) (stomp : Bool) : List Byte :=
  padded l ++ bytesOf 4 (if stomp then crc32 (padded l) ^^^ 0xFFFFFFFF else crc32 (padded l))

/-! ### Headers (R316, R322) -/

/-- Whether a tag begins at byte `i`. -/
def tagAt (l : List Byte) (i : Nat) : Bool := be l i 2 == 0x8100 || be l i 2 == 0x88A8

/-- The tags after the source address, up to two. -/
def tagCount (l : List Byte) : Nat := if tagAt l 12 then (if tagAt l 16 then 2 else 1) else 0

/-- The EtherType after the last parsed tag. -/
def etherType (l : List Byte) : Nat := be l (12 + 4 * tagCount l) 2

/-- The first byte after the EtherType. -/
def l3 (l : List Byte) : Nat := 14 + 4 * tagCount l

/-- The destination and the source MAC address; the first byte on the wire is in [47:40]. -/
def dstMac (l : List Byte) : Nat := be l 0 6
def srcMac (l : List Byte) : Nat := be l 6 6

/-- 4 and 6 where the EtherType names IPv4 or IPv6, 0 elsewhere. -/
def ipVer (l : List Byte) : Nat := if etherType l = 0x0800 then 4 else if etherType l = 0x86DD then 6 else 0

/-- The IP destination address: 32 or 128 bits. -/
def ipDst (l : List Byte) : Nat := if ipVer l = 4 then be l (l3 l + 16) 4 else be l (l3 l + 24) 16

/-- The IHL field of an IPv4 header. -/
def ihl (l : List Byte) : Nat := be l (l3 l) 1 % 16

/-- Where the UDP header begins: protocol UDP; IPv4 unfragmented or first fragment; IPv6 with UDP directly after the fixed header (R322). -/
def udpAt (l : List Byte) : Option Nat :=
  let at_ := if ipVer l = 4 then
      (if be l (l3 l + 9) 1 = 17 ∧ be l (l3 l + 6) 2 % 8192 = 0 then some (l3 l + 4 * ihl l) else none)
    else if ipVer l = 6 then (if be l (l3 l + 6) 1 = 17 then some (l3 l + 40) else none)
    else none
  match at_ with
  | some u => if u + 8 ≤ l.length then some u else none
  | none => none

/-- The UDP destination port. -/
def udpPort (l : List Byte) : Option Nat :=
  match udpAt l with
  | some u => some (be l (u + 2) 2)
  | none => none

/-! ### Checksums -/

/-- The sum of the 16-bit words of `l` from `i` on; an odd last byte counts as the high half. -/
def sumWords : List Byte → Nat
  | [] => 0
  | [a] => 256 * a.toNat
  | a :: b :: t => 256 * a.toNat + b.toNat + sumWords t

/-- The Internet checksum of a sum. -/
def inetSum (n : Nat) : Nat := (65535 - (n % 65535)) % 65535

/-- The checksum of an IPv4 header without its checksum field. -/
def ipCsum (h : List Byte) : Nat := inetSum (sumWords (patch h 10 [0, 0]))

/-- Whether a sum over data and its checksum is right. -/
def sumRight (n : Nat) : Bool := n % 65535 == 0 && n != 0

/-- The sum of the UDP pseudo-header for IPv4: addresses, protocol, length. -/
def pseudo4 (l : List Byte) (len : Nat) : Nat := sumWords (slice l (l3 l + 12) 8) + 17 + len

/-- The word at byte `i` changed so that a ones'-complement sum, by words from `u` on, loses `new` and gains `old`. -/
def balance (l : List Byte) (u i old new : Nat) : List Byte :=
  let swap := (i - u) % 2 = 1
  let v := be l i 2
  let w := if swap then 256 * (v % 256) + v / 256 else v
  let x := (w + old + 65535 * 65536 - new) % 65535
  patch l i (netOf 2 (if swap then 256 * (x % 256) + x / 256 else x))

/-! ### PTP (R343, R344, R359, R361) -/

/-- Where a PTP event message begins: EtherType 0x88F7, or UDP port 319 over IPv4 with an IHL of 5 and no fragmentation or over
IPv6; messageType 0 to 3. -/
def ptpEvent (l : List Byte) : Option Nat :=
  let o := if etherType l = 0x88F7 then some (l3 l)
    else match udpAt l with
      | some u =>
        if be l (u + 2) 2 = 319 ∧ (ipVer l = 6 ∨ (ihl l = 5 ∧ be l (l3 l + 6) 2 % 16384 = 0)) then some (u + 8) else none
      | none => none
  match o with
  | some i => if i + 34 ≤ l.length ∧ be l i 1 % 16 < 4 then some i else none
  | none => none

/-- The largest correctionField. -/
abbrev maxCorr : Int := 0x7FFFFFFFFFFFFFFF

/-- Add `x`, in 2^-16 ns, to the correctionField of the message at `i`; true where it saturates (R344). -/
def addCorr (l : List Byte) (i : Nat) (x : Int) : List Byte × Bool :=
  let s := signedOf 64 (be l (i + 8) 8) + x
  if maxCorr < s then (patch l (i + 8) (netOf 8 0x7FFFFFFFFFFFFFFF), true)
  else (patch l (i + 8) (netOf 8 (unsignedOf 64 s)), false)

/-- Keep the UDP checksum of `new`, in which the PTP message at `i` of `old` was changed (R343): IPv4 sets it to 0; IPv6 adjusts the
two bytes after the message, or else the checksum itself. -/
def fixUdp (old new : List Byte) (i : Nat) : List Byte :=
  if etherType old = 0x88F7 then new
  else if ipVer old = 4 then patch new (i - 2) [0, 0]
  else
    let u := i - 8
    let n := be old (i + 2) 2
    let a := sumWords (old.drop u)
    let b := sumWords (new.drop u)
    if n + 10 ≤ be old (u + 4) 2 ∧ i + n + 2 ≤ old.length then balance new u (i + n) a b
    else if be old (u + 6) 2 = 0 then new
    else
      let l := balance new u (u + 6) a b
      if be l (u + 6) 2 = 0 then patch l (u + 6) [0xFF, 0xFF] else l

end Sys2Proof.Machine
end

