-- ==== Sys2Proof/Machine/HifRing.lean ====
section
/-! DEFINITION. Sys2Proof/Machine/HifRing.lean: the rings of HIF: geometry, states, records, interrupts, journal, doorbells (R265 to R275, R282 to R289, R298), and the hand-over of event records to ring 20 (R564, R565). -/
namespace Sys2Proof.Machine

/-- A command ring (R265). -/
def isCmdRing (r : Nat) : Bool := decide (r < 8)
/-- A bulk ring. -/
def isBulkRing (r : Nat) : Bool := decide (16 ≤ r) && decide (r < 20)
/-- A ring whose commands have ASNs. -/
def isAsnRing (r : Nat) : Bool := isCmdRing r || isBulkRing r
/-- A device-produced ring. -/
def isDevRing (r : Nat) : Bool := (decide (8 ≤ r) && decide (r < 16)) || r == 20
/-- Bytes per entry. -/
def entrySize (r : Nat) : Nat := if isDevRing r then 32 else 64
/-- The command and bulk rings in journal order (R285). -/
def asnRings : List Nat := [0, 1, 2, 3, 4, 5, 6, 7, 16, 17, 18, 19]
/-- The place of a command or bulk ring in journal order. -/
def jrnlIx (r : Nat) : Nat := if r < 8 then r else r - 8

namespace Dev

/-- Entries of ring `r` (R266). -/
def ringSize (d : Dev) (r : Nat) : Nat := 2 ^ (6 + min (d.get (HIF_RING_CFG.SIZE r)) 10)

/-- The host address, in the ring's context, of entry `i` (R266): the base is aligned to the ring's size in bytes. -/
def entryAddr (d : Dev) (r i : Nat) : Nat :=
  let bytes := d.ringSize r * entrySize r
  d.get64 (Adr.HIF_RING_BASE_LO r) / bytes * bytes + entrySize r * (i % d.ringSize r)

/-- The host index and the device index (R267). -/
def hostIdx (d : Dev) (r : Nat) : Nat := (d.reg (Adr.HIF_RING_HOST_IDX r)).toNat
def devIdx (d : Dev) (r : Nat) : Nat := (d.reg (Adr.HIF_RING_DEV_IDX r)).toNat

/-- Entries the host has given and HIF has not taken (R268). -/
def avail (d : Dev) (r : Nat) : Nat := (d.hostIdx r + 2 ^ 32 - d.devIdx r) % 2 ^ 32

/-- Advance the device index. -/
def advance (d : Dev) (r n : Nat) : Dev := d.setReg (Adr.HIF_RING_DEV_IDX r) (BitVec.ofNat 32 (d.devIdx r + n))

/-! ### Host memory -/

/-- One byte of host memory as HIF reads it; a line that answers with an error or a poisoned TLP gives a free value. -/
def hostByte (d : Dev) (a : Nat) : Dev × Byte :=
  if d.hostBad.contains (a / 64) then
    let (v, d) := d.takeFree
    (d, BitVec.ofNat 8 v)
  else (d, sget hostUnwritten d.host a)

/-- `n` bytes of host memory. -/
def hostRead : Dev → Nat → Nat → Dev × List Byte
  | d, _, 0 => (d, [])
  | d, a, n + 1 =>
    let (d, b) := d.hostByte a
    let (d, l) := hostRead d (a + 1) n
    (d, b :: l)

/-- The host's own changes to its memory. -/
def hostUpdate (d : Dev) (u : HostUpd) : Dev :=
  let d : Dev := { d with host := u.cells.foldl (fun m c => sset hostUnwritten m c.1 c.2) d.host }
  match u.bad with
  | none => d
  | some l => { d with hostBad := l }

/-- Read `n` bytes at an address of ring `r`'s context in pieces of at most 64 B; a failed translation suspends the ring. -/
def ringRead (d : Dev) (r : Nat) (kind : AccKind) : Nat → Nat → Nat → Dev × Option (List Byte)
  | 0, _, _ => (d, some [])
  | fuel + 1, a, n =>
    if n = 0 then (d, some [])
    else
      let k := min n (64 - a % 64)
      match d.ringXlt r kind a false with
      | (d, none) => (d, none)
      | (d, some p) =>
        let (d, l) := d.hostRead p k
        match ringRead d r kind fuel (a + k) (n - k) with
        | (d, none) => (d, none)
        | (d, some t) => (d, some (l ++ t))

/-- Write bytes at an address of ring `r`'s context in pieces of at most 64 B; a failed translation suspends the ring. -/
def ringWrite (d : Dev) (r : Nat) (kind : AccKind) : Nat → Nat → List Byte → Dev × Bool
  | 0, _, _ => (d, true)
  | fuel + 1, a, l =>
    if l.length = 0 then (d, true)
    else
      let k := min l.length (64 - a % 64)
      match d.ringXlt r kind a true with
      | (d, none) => (d, false)
      | (d, some p) => ringWrite (d.setHost p (l.take k)) r kind fuel (a + k) (l.drop k)

/-! ### Ring states and interrupts -/

/-- A ring enters ERROR (R272). -/
def ringError (d : Dev) (r code : Nat) : Dev :=
  let d := (d.set (HIF_RING_STATUS.STATE r) stError).set (HIF_RING_STATUS.ERR r) code
  (d.setRing r { d.ringAt r with susp := none, fetched := [] }).raise 64

/-- A ring stops in place: nothing half fetched is kept (R272, R307). -/
def ringStop (d : Dev) (r : Nat) : Dev :=
  if d.ringState r = stDisabled then d
  else
    let d := (d.set (HIF_RING_STATUS.STATE r) stStopped).set (HIF_RING_STATUS.DRAINING r) 0
    d.setRing r { d.ringAt r with susp := none, fetched := [] }

/-- Every ring stops in place (R272). -/
def stopRings (d : Dev) : Dev := (List.range 41).foldl ringStop d

/-- Ring `r` asks for its MSI-X vector, at most once every MOD µs (R271). -/
def ringIrq (d : Dev) (r : Nat) : Dev :=
  if d.get (HIF_RING_CFG.MOD r) = 0 then d.msixSend (d.get (HIF_RING_CFG.VEC r))
  else if (d.ringAt r).modRun then d.setRing r { d.ringAt r with irqDue := true }
  else (d.msixSend (d.get (HIF_RING_CFG.VEC r))).setRing r { d.ringAt r with modRun := true, irqDue := false }

/-- The MOD interval of ring `r` ends (R271). -/
def modExpiry (d : Dev) (r : Nat) : Dev :=
  let x := d.ringAt r
  if !x.modRun then d
  else if x.irqDue then (d.setRing r { x with irqDue := false }).msixSend (d.get (HIF_RING_CFG.VEC r))
  else d.setRing r { x with modRun := false }

/-! ### Records (R269, R270) -/

/-- HIF reaches host memory for ring `r`: the ring runs, or drains (R272, R275), and the link is up. -/
def hostOk (d : Dev) (r : Nat) : Bool :=
  d.on HIF_STATUS.LINK_UP && (d.ringState r == stRunning || (d.on (HIF_RING_STATUS.DRAINING r) && d.ringState r != stSuspended))

/-- Whether a device-produced ring can take a record. -/
def canPost (d : Dev) (q : Nat) : Bool :=
  d.on HIF_STATUS.LINK_UP && d.ringState q == stRunning && decide ((d.ringAt q).posted.length < d.ringSize q)

/-- Whether records wait to be written again in ring `q`. -/
def noRepost (d : Dev) (q : Nat) : Bool := (d.ringAt q).repost.isEmpty

/-- The record with its PHASE bit (R269). -/
def phased (d : Dev) (q : Nat) (l : List Byte) : List Byte :=
  let b := (l.getD 31 0).toNat % 128 + (if d.devIdx q / d.ringSize q % 2 = 0 then 128 else 0)
  l.take 31 ++ [BitVec.ofNat 8 b]

/-- Write one record into a ring that can take it; false where the translation failed. -/
def postNow (d : Dev) (q : Nat) (l : List Byte) (own : Option (Nat × Nat)) (irq : Bool) : Dev × Bool :=
  let idx := d.devIdx q
  match d.ringXlt q .record (d.entryAddr q idx) true with
  | (d, none) => (d, false)
  | (d, some p) =>
    let l := d.phased q l
    let d := (d.setHost p l).advance q 1
    let d := d.setRing q { d.ringAt q with posted := (d.ringAt q).posted ++ [(⟨idx, l, own⟩ : Posted)] }
    let d := d.pmc (16 * 19 + 4) 1
    let d : Dev := match own with
      | none => d
      | some (r, u) => d.setRing r { d.ringAt r with
          jrnl := (d.ringAt r).jrnl.map (fun e => if e.unit == u then { e with posted := some (q, idx) } else e) }
    (if irq then d.ringIrq q else d, true)

/-- The records that the host index passes: those whose index lies before it (R267). -/
def passed (d : Dev) (q h : Nat) : Nat :=
  let n := (d.ringAt q).posted.length
  let k := (h + 2 ^ 33 - (d.devIdx q + 2 ^ 32 - n)) % 2 ^ 32
  if k ≤ n then k else 0

/-- Retire the entry that a consumed record completes: its space and its completion slot are free (R289). -/
def retire (d : Dev) (own : Option (Nat × Nat)) : Dev :=
  match own with
  | none => d
  | some (r, u) => d.setRing r { d.ringAt r with jrnl := (d.ringAt r).jrnl.filter (fun e => e.unit != u) }

/-- The host index of a device-produced ring passes records (R267, R289). -/
def consume (d : Dev) (q h : Nat) : Dev :=
  let k := d.passed q h
  let gone := (d.ringAt q).posted.take k
  let d := d.setRing q { d.ringAt q with posted := (d.ringAt q).posted.drop k }
  gone.foldl (fun d p => d.retire p.own) d

/-! ### The journal (R285, R286) -/

/-- 64 B units of one ring's journal. -/
def jrnlUnits (d : Dev) : Nat :=
  let v := d.get HIF_JRNL_CFG.RING_KIB_LOG2
  2 ^ ((if 4 ≤ v ∧ v ≤ 10 then v else 7) + 4)

/-- The address of unit `u` of ring `r` in copy 0 (`c` false) or copy 1. -/
def jrnlAddr (d : Dev) (c : Bool) (r u : Nat) : Nat :=
  65536 * (if c then d.get HIF_JRNL_BASE1.BASE else d.get HIF_JRNL_BASE0.BASE)
    + 64 * (jrnlIx r * d.jrnlUnits + u % d.jrnlUnits)

/-- Write one unit in both copies. -/
def jrnlPut (d : Dev) (r u : Nat) (l : List Byte) : Dev :=
  (d.memPut reqHif (d.jrnlAddr false r u) l).memPut reqHif (d.jrnlAddr true r u) l

/-- Write units one after another. -/
def jrnlPuts : Dev → Nat → Nat → List (List Byte) → Dev
  | d, _, _, [] => d
  | d, r, u, l :: t => jrnlPuts (d.jrnlPut r u l) r (u + 1) t

/-- Read one unit: copy 0, and copy 1 when copy 0 is unreadable, with JRNL_UE; `none` when both are (R286). -/
def jrnlGet (d : Dev) (r u : Nat) : Dev × Option (List Byte) :=
  match d.memRead reqHif (d.jrnlAddr false r u) 64 with
  | (d, .ok l) => (d, some l)
  | (d, .error _) =>
    let d := (((d.bump Adr.HIF_JRNL_UE_CNT).set HIF_STATUS.JRNL_UE 1).raise 66).pmc (16 * 19 + 10) 1
    match d.memRead reqHif (d.jrnlAddr true r u) 64 with
    | (d, .ok l) => (d, some l)
    | (d, .error _) => ((d.set HIF_STATUS.JRNL_LOST 1).raise 67, none)

/-- Read `n` units one after another. -/
def jrnlGets : Dev → Nat → Nat → Nat → Dev × Option (List Byte)
  | d, _, _, 0 => (d, some [])
  | d, r, u, n + 1 =>
    match d.jrnlGet r u with
    | (d, none) => (d, none)
    | (d, some l) =>
      match jrnlGets d r (u + 1) n with
      | (d, none) => (d, none)
      | (d, some t) => (d, some (l ++ t))

/-- Units of ring `r` that its unretired commands take. -/
def jrnlUsed (d : Dev) (r : Nat) : Nat := (d.ringAt r).jrnl.foldl (fun s e => s + e.n + 1) 0

/-- Slots of completion ring `q` that are reserved: unretired commands whose record goes there (R284, R289). -/
def reserved (d : Dev) (q : Nat) : Nat :=
  asnRings.foldl (fun s r => s + ((d.ringAt r).jrnl.filter (fun e =>
    match e.posted with
    | some (p, _) => p == q
    | none => 8 + d.get (HIF_RING_CFG.CQ r) == q)).length) 0

/-- The completion record of a command, PHASE apart (R282). -/
def recordOf (r : Nat) (e : JEntry) (status result : Nat) : List Byte :=
  bytesOf 8 e.asn ++ bytesOf 8 e.tag ++ bytesOf 8 result ++ bytesOf 2 status ++ [BitVec.ofNat 8 r, 0, 0, 0, 0, 0]

/-- The state unit of a command: ASN, progress, completion record (R285). -/
def stateUnit (e : JEntry) (rec : List Byte) : List Byte :=
  bytesOf 8 e.asn ++ bytesOf 8 e.prog ++ rec ++ List.replicate (48 - rec.length) 0

/-- Replace an entry. -/
def setEntry (d : Dev) (r : Nat) (e : JEntry) : Dev :=
  d.setRing r { d.ringAt r with jrnl := (d.ringAt r).jrnl.map (fun x => if x.unit == e.unit then e else x) }

/-- The command in progress of ring `r`: the oldest accepted one that is not complete (R287). -/
def headOf (d : Dev) (r : Nat) : Option JEntry := (d.ringAt r).jrnl.find? (fun e => !e.done)

/-- Record progress in the journal before the step (R288). -/
def progress (d : Dev) (r : Nat) (e : JEntry) (n : Nat) : Dev :=
  let e : JEntry := { e with prog := n }
  (d.setEntry r e).jrnlPut r (e.unit + e.n) (stateUnit e [])

/-- LAST_ACCEPTED and LAST_COMPLETED, with the porch's copy (R288). -/
def setAccepted (d : Dev) (r a : Nat) : Dev :=
  let d := d.set64 (Adr.HIF_RING_LAST_ACCEPTED_LO r) a
  { d with asnCopy := vput d.asnCopy r (a, (vat d.asnCopy r).2) }
def setCompleted (d : Dev) (r a : Nat) : Dev :=
  let d := d.set64 (Adr.HIF_RING_LAST_COMPLETED_LO r) a
  { d with asnCopy := vput d.asnCopy r ((vat d.asnCopy r).1, a) }

/-- Complete the command in progress: record and watermark in one step (R288). -/
def complete (d : Dev) (r : Nat) (e : JEntry) (status result : Nat) : Dev :=
  let e : JEntry := { e with done := true }
  let d := (d.setEntry r e).jrnlPut r (e.unit + e.n) (stateUnit e (recordOf r e status result))
  (d.setCompleted r e.asn).pmc (16 * 19 + 1) 1

/-- The command in progress waits for a period that begins, or has begun: it completes with the period in progress (R278). -/
def waitDone (d : Dev) (r : Nat) : Dev :=
  match d.headOf r with
  | none => d
  | some e =>
    match e.till with
    | none => d
    | some p => if p ≤ d.period then d.complete r e 0 d.period else d

/-- Every WAIT_PERIOD whose period begins completes at the landing (R278). -/
def waitsDone (d : Dev) : Dev := (List.range 8).foldl waitDone d

/-- The completion record as the journal holds it; JRNL_LOST where both copies are unreadable (R286). -/
def journalRecord (d : Dev) (r : Nat) (e : JEntry) : Dev × List Byte :=
  match d.jrnlGet r (e.unit + e.n) with
  | (d, some l) => (d, slice l 16 32)
  | (d, none) => (d, recordOf r e 0x10A 0)

/-! ### Records written again (R274) -/

/-- The bytes to write again: of a completion record, those in the journal, with REPOST. -/
def repostBytes (d : Dev) (l : List Byte) (own : Option (Nat × Nat)) : Dev × List Byte × Bool :=
  match own with
  | none => (d, l, true)
  | some (r, u) =>
    match (d.ringAt r).jrnl.find? (fun e => e.unit == u) with
    | none => (d, l, false)
    | some e =>
      let (d, m) := d.journalRecord r e
      (d, m.take 27 ++ [m.getD 27 0 ||| 1] ++ m.drop 28, e.irq)

/-- Write the waiting records of a ring again, as long as it takes them. -/
def repostAll : Nat → Dev → Nat → Dev
  | 0, d, _ => d
  | fuel + 1, d, q =>
    match (d.ringAt q).repost with
    | [] => d
    | (l, own) :: t =>
      if d.canPost q then
        let (d, m, irq) := d.repostBytes l own
        match d.postNow q m own irq with
        | (d, false) => d
        | (d, true) => repostAll fuel (d.setRing q { d.ringAt q with repost := t }) q
      else d

/-- All of them. -/
def reposts (d : Dev) (q : Nat) : Dev := repostAll ((d.ringAt q).repost.length) d q

/-! ### Enable and stop (R272 to R275) -/

/-- The ASN counter restarts: the next accepted command has ASN 1 (R275). -/
def asnRestart (d : Dev) (r : Nat) : Dev :=
  let d := (d.setAccepted r 0).setCompleted r 0
  d.setRing r { d.ringAt r with restarts := (d.ringAt r).restarts + 1 }

/-- Both indexes restart and the ring runs. A frame transmit ring gives up the write-backs of descriptors of its earlier run. -/
def ringStart (d : Dev) (r : Nat) : Dev :=
  let d := (d.setReg (Adr.HIF_RING_HOST_IDX r) 0).setReg (Adr.HIF_RING_DEV_IDX r) 0
  let d := ((d.set (HIF_RING_STATUS.STATE r) stRunning).set (HIF_RING_STATUS.ERR r) 0).set (HIF_RING_STATUS.DRAINING r) 0
  let x := d.ringAt r
  let tx := decide (25 ≤ r) && decide (r < 33)
  d.setRing r { x with
    fetched := []
    susp := none
    repost := if tx then [] else x.repost
    restarts := if tx then x.restarts + 1 else x.restarts }

/-- EN written 1 with RESUME 0 (R275). -/
def ringEnable (d : Dev) (r : Nat) : Dev :=
  if isAsnRing r then
    if (d.headOf r).isSome then d.set (HIF_RING_STATUS.DRAINING r) 1
    else (d.asnRestart r).ringStart r
  else
    let gone := (d.ringAt r).posted
    let again := (d.ringAt r).repost
    let d := d.setRing r { d.ringAt r with posted := [], repost := [], seq := 0, gap := 0 }
    let d := gone.foldl (fun d p => d.retire p.own) d
    let d := if isDevRing r then again.foldl (fun d p => d.retire p.2) d else d
    d.ringStart r

/-- EN written 1 with RESUME 1 on a stopped ring (R274). -/
def ringResume (d : Dev) (r : Nat) : Dev :=
  if isDevRing r then
    let x := d.ringAt r
    let again := x.repost ++ x.posted.map (fun p => (p.bytes, p.own))
    if d.ringSize r < again.length then d.set (HIF_RING_STATUS.ERR r) 4
    else ((d.setRing r { x with posted := [], repost := again }).ringStart r).reposts r
  else d.ringStart r

/-- A drain ends: unposted records are discarded and counted, the ASN restarts and the ring starts (R275). -/
def drainEnd (d : Dev) (r : Nat) : Dev :=
  if d.on (HIF_RING_STATUS.DRAINING r) && (d.headOf r).isNone then
    let n := ((d.ringAt r).jrnl.filter (fun e => e.posted.isNone)).length
    let d := d.setRing r { d.ringAt r with jrnl := (d.ringAt r).jrnl.filter (fun e => e.posted.isSome) }
    let d := d.bumpBy (Adr.HIF_RING_DISCARD_CNT r) n
    (d.asnRestart r).ringStart r
  else d

/-- The action of a write of EN (R272): from DISABLED or STOPPED, EN = 1 starts the ring; EN = 0 stops it. -/
def ringEn (d : Dev) (r : Nat) (en resume : Bool) : Dev :=
  if !en then d.ringStop r
  else if (d.ringState r = stDisabled ∨ d.ringState r = stStopped) ∧ d.on (HIF_RING_STATUS.DRAINING r) = false then
    if resume && d.ringState r == stStopped then d.ringResume r else d.ringEnable r
  else d

/-! ### Event records (R298, R564, R565) -/

/-- The bytes of a record, PHASE apart (R298). -/
def evBytes (seq : Nat) (r : EvRec) : List Byte :=
  bytesOf 8 seq ++ bytesOf 2 r.src ++ bytesOf 1 r.typ ++ bytesOf 1 r.b11 ++ bytesOf 4 r.detail ++ bytesOf 8 r.period
    ++ bytesOf 4 r.n ++ [0, 0, 0, 0]

/-- Whether the event ring can take a record. -/
def evReady (d : Dev) : Bool := d.canPost 20 && d.noRepost 20

/-- Write an event record; one whose translation fails is written first once the ring runs again (R303). -/
def evPost (d : Dev) (r : EvRec) : Dev :=
  let s := (d.ringAt 20).seq + 1
  let d := d.setRing 20 { d.ringAt 20 with seq := s }
  match d.postNow 20 (evBytes s r) none true with
  | (d, true) => d
  | (d, false) => d.setRing 20 { d.ringAt 20 with repost := (d.ringAt 20).repost ++ [(evBytes s r, none)] }

/-- Replace the waiting records; EVC_STATUS.WAITING says whether there are any. -/
def setWaits (d : Dev) (l : List EvRec) : Dev :=
  let d : Dev := { d with evc := { d.evc with waits := l } }
  d.set EVC_STATUS.WAITING (b2n (!l.isEmpty))

/-- A record waits, or is merged into the one of its source that waits (R564). -/
def evWait (d : Dev) (r : EvRec) : Dev :=
  if r.typ == 0 && d.evc.waits.any (fun w => w.typ == 0 && w.src == r.src) then
    let d := d.setWaits (d.evc.waits.map (fun w =>
      if w.typ == 0 && w.src == r.src then
        { w with n := w.n + 1, b11 := if isLevelSource r.src then r.b11 else w.b11 }
      else w))
    let d : Dev := { d with evc := { d.evc with merged := d.evc.merged + 1 } }
    d.bump Adr.EVC_OVF_CNT
  else
    let d := d.setWaits (d.evc.waits ++ [r])
    if d.evc.full then d
    else
      let d : Dev := { d with evc := { d.evc with full := true } }
      d.raise 250

/-- Hand one record to the event ring. -/
def evHand (d : Dev) (r : EvRec) : Dev :=
  if d.ringState 20 = stDisabled then d
  else if d.evReady && d.evc.waits.isEmpty then d.evPost r
  else d.evWait r

/-- Hand over the records formed in this step, in order, and pulse source 251 for the counters that wrapped. -/
def settleBy : Nat → Dev → Dev
  | 0, d => d
  | fuel + 1, d =>
    match d.evc.queue with
    | r :: t =>
      let d : Dev := { d with evc := { d.evc with queue := t } }
      settleBy fuel (d.evHand r)
    | [] =>
      match d.evc.wraps with
      | 0 => d
      | n + 1 =>
        let d : Dev := { d with evc := { d.evc with wraps := n } }
        settleBy fuel (d.raise 251)

/-- The end of every command: EVC has acted on its occurrences, and the porch copy holds the newest (R554, R561). -/
def settle (d : Dev) : Dev := (settleBy (2 * d.evc.queue.length + 3 * d.evc.wraps + 16) d).porchTrim

/-- Write the waiting records in ascending source order while the ring takes them. -/
def flushWaits : Nat → Dev → Dev
  | 0, d => d
  | fuel + 1, d =>
    if d.evReady then
      match d.evc.waits with
      | [] => d
      | w :: t =>
        let low := t.foldl (fun m x => if x.src < m.src then x else m) w
        flushWaits fuel ((d.setWaits (d.evc.waits.erase low)).evPost low)
    else d

/-- EVC writes an OVERFLOW record and then the waiting records (R565). -/
def evFlush (d : Dev) : Dev :=
  let d := d.reposts 20
  if d.evReady && !d.evc.waits.isEmpty then
    let n := d.evc.merged
    let d : Dev := { d with evc := { d.evc with merged := 0, full := false } }
    let d := d.evPost ⟨0xFFFF, 1, 0, n, 0, 0⟩
    flushWaits d.evc.waits.length d
  else d

/-! ### Doorbells (R267, R268) -/

/-- A write of the host index of ring `r`. -/
def doorbell (d : Dev) (r h : Nat) : Dev :=
  let st := d.ringState r
  let d := d.setReg (Adr.HIF_RING_HOST_IDX r) (BitVec.ofNat 32 h)
  if st = stRunning ∨ st = stSuspended then
    if isDevRing r then d.consume r (h % 2 ^ 32)
    else if d.ringSize r < d.avail r then d.ringError r 1
    else d
  else d

end Dev
end Sys2Proof.Machine
end

