-- ==== Sys2Proof/Machine/Time.lean ====
section
/-! DEFINITION. Sys2Proof/Machine/Time.lean: time bases, TIME pins, timestamp queues (R25, R350 to R366). -/
namespace Sys2Proof.Machine

/-- Units of 2^-32 ns after which SEC wraps. -/
abbrev tbMod : Nat := 2 ^ 48 * 1000000000 * 2 ^ 32

namespace Dev

def tbAt (d : Dev) (i : Nat) : TimeBase := vat d.tbs.tb i
def setTb (d : Dev) (i : Nat) (x : TimeBase) : Dev := { d with tbs := { d.tbs with tb := vput d.tbs.tb i x } }

/-- INCR in units of 2^-32 ns (R350). -/
def tbIncr (d : Dev) (i : Nat) : Nat := 2 ^ 32 * ((d.reg ((Adr.TBN_INCR_LO i + 4))).toNat % 4) + (d.reg (Adr.TBN_INCR_LO i)).toNat

/-- Time in 1/16 ns, the resolution of timestamps. -/
def tb16 (d : Dev) (i : Nat) : Nat := (d.tbAt i).t / 2 ^ 28

/-- SEC, NS and FRAC of a time in 1/16 ns. -/
def sec16 (t : Nat) : Nat := t / 16000000000 % 2 ^ 48
def ns16 (t : Nat) : Nat := t / 16 % 1000000000
def frac16 (t : Nat) : Nat := 4096 * (t % 16)

/-- The value of LOAD (R352): NS of 10^9 or more acts as 999,999,999. -/
def tbSet (d : Dev) (i : Nat) : Nat :=
  2 ^ 32 * (1000000000 * (d.get64 (Adr.TBN_SET_SEC_LO i) % 2 ^ 48) + min (d.get (TBN_SET_NS.NS i)) 999999999)

/-- The render sample count at the time base's present time (R25): the bits below FRAC take no part. -/
def tbSample (d : Dev) (i : Nat) : Nat := (d.tbAt i).t / 2 ^ 16 * d.fs / (1000000000 * 2 ^ 16)

/-! ### TIME_OUT pins (R365) -/

/-- Time in 1/16 ns of active edge `k`: start, period numerator and denominator. -/
def edgeAt (s num den k : Nat) : Nat := s + (2 * k * num + den) / (2 * den)

/-- The first active edge after `t`. -/
def edgeAfter (s num den t : Nat) : Nat :=
  if t < s then s
  else
    let k := (t - s) * den / num
    if t < edgeAt s num den k then edgeAt s num den k
    else if t < edgeAt s num den (k + 1) then edgeAt s num den (k + 1)
    else edgeAt s num den (k + 2)

/-- START in 1/16 ns. -/
def toutStart (d : Dev) (n : Nat) : Nat :=
  (1000000000 * (d.get64 (Adr.TB_TOUT_START_SEC_LO n) % 2 ^ 48) + d.get (TB_TOUT_START_NS.NS n)) * 16

/-- WIDTH in 1/16 ns. -/
def toutWidth (d : Dev) (n : Nat) : Nat := 16 * (d.reg (Adr.TB_TOUT_WIDTH n)).toNat

/-- The next active edge of pin `n` after `t`; none with MODE 0 and with settings outside R365's ranges. -/
def nextActive (d : Dev) (n t : Nat) : Option Nat :=
  let p := (d.reg (Adr.TB_TOUT_PERIOD_NS n)).toNat
  let w := d.toutWidth n
  if w < 80 then none
  else
    match d.get (TB_TOUT_CFG.MODE n) with
    | 1 => if w < 16000000000 then some (edgeAfter 0 16000000000 1 t) else none
    | 2 =>
      let num := 2 ^ 16 * p + d.get (TB_TOUT_PERIOD_FRAC.FRAC n)
      if 20 * 2 ^ 16 ≤ num ∧ 2 ^ 16 * w < 16 * num then some (edgeAfter (d.toutStart n) (16 * num) (2 ^ 16) t) else none
    | 3 =>
      if 1 ≤ p ∧ p ≤ 50000000 ∧ w * p < 16000000000 then some (edgeAfter (d.toutStart n) 16000000000 p t) else none
    | _ => none

def toutAt (d : Dev) (n : Nat) : TimeOut := vat d.tbs.tout n
def setTout (d : Dev) (n : Nat) (x : TimeOut) : Dev := { d with tbs := { d.tbs with tout := vput d.tbs.tout n x } }

/-- The pin places its next scheduled edge, once its time base has reached it. -/
def toutEdge (d : Dev) (n : Nat) : Dev :=
  let x := d.toutAt n
  let now := d.tb16 (d.get (TB_TOUT_CFG.TB_SEL n))
  let act := d.nextActive n x.seek
  match x.off with
  | some o =>
    if o ≤ now then d.setTout n { x with on := false, off := none } else d
  | none =>
    match act with
    | some a => if a ≤ now then d.setTout n { on := true, seek := a, off := some (a + d.toutWidth n) } else d
    | none => d

/-- The edges that a step of time base `i` to its present time passes are not produced (R365). -/
def toutStep (d : Dev) (i before : Nat) (n : Nat) : Dev :=
  if d.get (TB_TOUT_CFG.TB_SEL n) ≠ i ∨ d.get (TB_TOUT_CFG.MODE n) = 0 then d
  else
    let x := d.toutAt n
    let now := d.tb16 i
    let skip := (match d.nextActive n (max x.seek before) with
      | some a => decide (a ≤ now)
      | none => false) || (match x.off with
      | some o => decide (o ≤ now) && decide (before < o)
      | none => false)
    let d := d.setTout n { x with seek := now, off := match x.off with
      | some o => if o ≤ now then none else some o
      | none => none }
    if skip then d.raise 132 else d

/-- A write of a pin's configuration: edges are sought from now on; MODE 0 rests at the inactive level. -/
def toutConfig (d : Dev) (n : Nat) : Dev :=
  let x := d.toutAt n
  let now := d.tb16 (d.get (TB_TOUT_CFG.TB_SEL n))
  if d.get (TB_TOUT_CFG.MODE n) = 0 then d.setTout n ⟨false, now, none⟩ else d.setTout n { x with seek := now }

/-- The level that a pin drives. -/
def toutLevel (d : Dev) (n : Nat) : Bool := (d.toutAt n).on != d.on (TB_TOUT_CFG.POL n)

/-! ### Ticks (R350 to R352) -/

/-- `n` FABRIC ticks of time base `i`: a LOAD or an offset add acts at the first. -/
def tbTicks (d : Dev) (i n : Nat) : Dev :=
  if n = 0 then d
  else
    let x := d.tbAt i
    let inc := if d.on (TBN_CTRL.EN i) then d.tbIncr i else 0
    let before := d.tb16 i
    if x.load then
      let d := d.setTb i ⟨d.tbSet i % tbMod, none, false⟩
      let d := d.toutStep i before 0 |>.toutStep i before 1
      d.setTb i { d.tbAt i with t := ((d.tbAt i).t + (n - 1) * inc) % tbMod }
    else
      match x.adj with
      | none => d.setTb i { x with t := (x.t + n * inc) % tbMod }
      | some a =>
        let z : Int := (x.t : Int) + (inc : Int) + 65536 * a
        let d := if z < 0 then (d.set TB_STATUS.ADJ_CLAMP 1).raise 136 else d
        let d := d.setTb i ⟨z.toNat % tbMod, none, false⟩
        let d := d.toutStep i before 0 |>.toutStep i before 1
        d.setTb i { d.tbAt i with t := ((d.tbAt i).t + (n - 1) * inc) % tbMod }

/-- `n` FABRIC ticks of every time base. -/
def tbsTicks (d : Dev) (n : Nat) : Dev := [0, 1, 2, 3].foldl (fun d i => d.tbTicks i n) d

/-- Commit an increment (R351): outside [1.125, 1.375) ns it is refused. -/
def tbIncrCommit (d : Dev) (i hi lo : Nat) : Dev :=
  if hi % 4 = 1 ∧ 0x20000000 ≤ lo ∧ lo ≤ 0x5FFFFFFF then
    (d.setReg (Adr.TBN_INCR_LO i) (BitVec.ofNat 32 lo)).setReg ((Adr.TBN_INCR_LO i + 4)) (BitVec.ofNat 32 (hi % 4))
  else (d.set TB_STATUS.INCR_BAD 1).raise 136

/-- Commit an offset add (R352): offsets due at one tick are summed. -/
def tbOffset (d : Dev) (i v : Nat) : Dev :=
  let x := d.tbAt i
  d.setTb i { x with adj := some (x.adj.getD 0 + signedOf 64 v) }

/-- LOAD (R352). -/
def tbLoad (d : Dev) (i : Nat) : Dev := d.setTb i { d.tbAt i with load := true }

/-- A read of TIME_FRAC latches the rest from the same tick (R353). -/
def tbTimeRead (d : Dev) (i : Nat) : Dev :=
  let t := (d.tbAt i).t
  let d := d.set (TBN_TIME_FRAC.FRAC i) (t / 2 ^ 16)
  let d := d.set (TBN_TIME_NS.NS i) (t / 2 ^ 32 % 1000000000)
  d.set64 (Adr.TBN_TIME_SEC_LO i) (t / 2 ^ 32 / 1000000000 % 2 ^ 48)

/-! ### Timestamp and capture queues (R356, R360 to R362, R366) -/

/-- A port's receive or transmit timestamp in 1/16 ns (R355). -/
def stamp (d : Dev) (p : Nat) (adj : Nat) : Nat :=
  ((d.tb16 (d.get (MAC_CFG.TS_TB p)) : Int) + signedOf 16 adj).toNat
def rxStamp (d : Dev) (p : Nat) : Nat := d.stamp p (d.get (TB_PORT_RX_ADJ.ADJ p))
def txStamp (d : Dev) (p : Nat) : Nat := d.stamp p (d.get (TB_PORT_TX_ADJ.ADJ p))

/-- A timestamp record (R356). -/
def tsRecord (t tb port seq : Nat) : List Byte :=
  bytesOf 6 (sec16 t) ++ bytesOf 4 (ns16 t) ++ bytesOf 2 (frac16 t) ++ bytesOf 1 (tb % 4 + 4) ++ bytesOf 1 port ++ bytesOf 2 seq

/-- Put a transmit timestamp into the port's queue; a full queue discards it (R362). True where it was lost. -/
def tsqPush (d : Dev) (p t seq : Nat) : Dev × Bool :=
  let q := vat d.tbs.tsq p
  if 64 ≤ q.length then (((d.bump (Adr.MAC_TX_TSQ_OVF p)).set (TB_TSQ_STATUS.OVF p) 1).raise 128, true)
  else
    let d : Dev := { d with tbs := { d.tbs with tsq := vput d.tbs.tsq p (q ++ [(t, seq)]) } }
    (d.set (TB_TSQ_STATUS.COUNT p) (q.length + 1), false)

/-- A read of TB_TSQp_POP. -/
def tsqPop (d : Dev) (p : Nat) : Dev :=
  match vat d.tbs.tsq p with
  | [] => d.setReg (Adr.TB_TSQ_POP p) 0
  | (t, seq) :: l =>
    let d : Dev := { d with tbs := { d.tbs with tsq := vput d.tbs.tsq p l } }
    let d := ((d.set (TB_TSQ_STATUS.COUNT p) l.length).set (TB_TSQ_POP.TS_SEQ p) seq).set (TB_TSQ_POP.VALID p) 1
    ((d.set (TB_TSQ_FRAC.FRAC p) (frac16 t)).set (TB_TSQ_NS.NS p) (ns16 t)).set64 (Adr.TB_TSQ_SEC_LO p) (sec16 t)

/-- An edge on TIME_IN pin `n` (R366). -/
def tinCapture (d : Dev) (n : Nat) (falling : Bool) : Dev :=
  if !d.on (TB_TIN_CFG.EN n) || !bitOf (d.get (TB_TIN_CFG.EDGE n)) (b2n falling) then d
  else
    let q := vat d.tbs.tin n
    if 4 ≤ q.length then (d.set (TB_TIN_STATUS.OVF n) 1).raise 131
    else
      let c : Capture := ⟨d.tb16 (d.get (TB_TIN_CFG.TB_SEL n)), falling⟩
      let d : Dev := { d with tbs := { d.tbs with tin := vput d.tbs.tin n (q ++ [c]) } }
      (d.set (TB_TIN_STATUS.COUNT n) (q.length + 1)).raise (129 + n)

/-- A read of TB_TINn_POP. -/
def tinPop (d : Dev) (n : Nat) : Dev :=
  match vat d.tbs.tin n with
  | [] => d.setReg (Adr.TB_TIN_POP n) 0
  | c :: l =>
    let d : Dev := { d with tbs := { d.tbs with tin := vput d.tbs.tin n l } }
    let d := ((d.set (TB_TIN_STATUS.COUNT n) l.length).set (TB_TIN_POP.VALID n) 1).set (TB_TIN_POP.FALLING n) (b2n c.falling)
    ((d.set (TB_TIN_FRAC.FRAC n) (frac16 c.t)).set (TB_TIN_NS.NS n) (ns16 c.t)).set64 (Adr.TB_TIN_SEC_LO n) (sec16 c.t)

end Dev
end Sys2Proof.Machine
end

