-- ==== Sys2Proof/Machine/MacTx.lean ====
section
/-! DEFINITION. Sys2Proof/Machine/MacTx.lean: the transmit side of a port: queues, completions, launch times, timestamps, pause frames, the wire (R313, R318, R319, R331 to R338, R343, R344, R358 to R364). -/
namespace Sys2Proof.Machine
namespace Dev

/-- The queue number of forwarded traffic. -/
abbrev fwdQ : Nat := 32

def macAt (d : Dev) (p : Nat) : MacState := vat d.mac p
def setMac (d : Dev) (p : Nat) (x : MacState) : Dev := { d with mac := vput d.mac p x }

/-- MAC_MAX_FRAME as it acts (R319). -/
def maxFrame (d : Dev) (p : Nat) : Nat := min 9600 (max 1518 (d.get (MAC_MAX_FRAME.MAX p)))

/-- The limit of a frame, FCS included (R316). -/
def frameLimit (d : Dev) (p : Nat) (l : List Byte) : Nat := d.maxFrame p + (if tagCount l = 2 then 4 else 0)

/-- The length on the wire of a frame to be sent (R318). -/
def wireLen (l : List Byte) : Nat := max 60 l.length + 4

/-- Whether port `p` can send: it runs and its link is up (R334). -/
def txLive (d : Dev) (p : Nat) : Bool := d.on (MAC_STATUS.RUNNING p) && d.on (MAC_STATUS.LINK p)

/-- STATUS codes of R296. -/
abbrev txSent : Nat := 0
abbrev txFrameLen : Nat := 1
abbrev txLateDropped : Nat := 2
abbrev txLinkDown : Nat := 3
abbrev txBadDesc : Nat := 4

/-! ### Completions -/

/-- The write-back half of a frame transmit descriptor (R296). -/
def txWriteBack (status : Nat) (late lost : Bool) (seq : Nat) : List Byte :=
  bytesOf 2 status ++ bytesOf 1 (b2n late + 2 * b2n lost + 128) ++ [0] ++ bytesOf 2 seq ++ List.replicate 26 0

/-- Write back the oldest waiting completions of a frame transmit ring (R296); `repost` holds them with their descriptor and whether
the interrupt is asked for. -/
def txBacks : Nat → Dev → Nat → Dev
  | 0, d, _ => d
  | fuel + 1, d, r =>
    if !d.hostOk r then d
    else
      match (d.ringAt r).repost with
      | [] => d
      | (l, own) :: t =>
        let o := own.getD (0, 0)
        match d.ringWrite r .record 2 (d.entryAddr r o.1 + 32) l with
        | (d, false) => d
        | (d, true) =>
          let d := d.setRing r { d.ringAt r with repost := t }
          txBacks fuel (if o.2 = 1 then d.ringIrq r else d) r

/-- A host frame is complete: `idx` holds the descriptor's index and, above 2^32, the ring's starts when it was fetched. -/
def hostTxDone (d : Dev) (r idx : Nat) (irq : Bool) (l : List Byte) : Dev :=
  if idx / 2 ^ 32 ≠ (d.ringAt r).restarts then d
  else
  let d := d.setRing r { d.ringAt r with repost := (d.ringAt r).repost ++ [(l, some (idx, b2n irq))] }
  d.txBacks (d.ringAt r).repost.length r

/-- The pantry address of PTP transmit slot `i` of port `p`; the ring holds 2^4 to 2^10 slots (R358). -/
def ptpTxAddr (d : Dev) (p i : Nat) : Nat :=
  512 * d.get (TB_PTP_TXBASE.BASE p) + 512 * (i % 2 ^ min 10 (max 4 (d.get (TB_PTP_TXCFG.SIZE_LOG2 p))))

/-- TB's requester number in the ECC log: FE's (R448 names none for TB). -/
abbrev reqFe : Nat := 21

/-- Write back PTP slot `i` and advance RD (R358). -/
def ptpTxDone (d : Dev) (p i status : Nat) (late lost : Bool) (seq : Nat) : Dev :=
  let a := d.ptpTxAddr p i
  let d := d.memPut reqFe (a + 20) (bytesOf 2 seq)
  let d := d.memPut reqFe (a + 16) (bytesOf 2 status ++ bytesOf 1 (b2n late + 2 * b2n lost + 128))
  let d := d.set (TB_PTP_TXCFG.RD p) (d.get (TB_PTP_TXCFG.RD p) + 1)
  (d.raise 135).pmc (16 * 20 + 14) 1

/-- The completion of a frame, by its source (R296, R358, R364, R382). -/
def txComplete (d : Dev) (p : Nat) (f : TxFrame) (status : Nat) (late lost : Bool) (seq : Nat) : Dev :=
  match f.src with
  | .host r idx irq => d.hostTxDone r idx irq (txWriteBack status late lost seq)
  | .ptp i => d.ptpTxDone p i status late lost seq
  | .fe flow _ =>
    if late || status == txLateDropped || status == txBadDesc then
      ((d.bump (Adr.FE_TXF_LATE_CNT flow)).raise 117).pmc (16 * 20 + 12) 1
    else d
  | _ => d

/-! ### Queues -/

/-- The frame at the head of queue `q`. -/
def txHead (d : Dev) (p q : Nat) : Option TxFrame := ((d.macAt p).txq.find? (fun x => x.1 == q)).map (fun x => x.2)

/-- Take the frame at the head of queue `q` away. -/
def txDrop (d : Dev) (p q : Nat) : Dev :=
  d.setMac p { d.macAt p with txq := (d.macAt p).txq.eraseP (fun x => x.1 == q) }

/-- The port's time base in 1/16 ns. -/
def macNow (d : Dev) (p : Nat) : Nat := d.tb16 (d.get (MAC_CFG.TS_TB p))

/-- A launch time in 1/16 ns. -/
def launch16 (l : Nat × Nat) : Nat := (1000000000 * l.1 + l.2) * 16

/-- A launch time that makes a frame bad: NS of 10^9 or more, or more than 1 s ahead (R364). -/
def launchBad (d : Dev) (p : Nat) (l : Nat × Nat) : Bool :=
  decide (1000000000 ≤ l.2) || decide (d.macNow p + 16000000000 < launch16 l)

/-- What happens to frames as they reach the head of queue `q`: a link that is down, or a bad launch time, completes them. -/
def headCheck : Nat → Dev → Nat → Nat → Dev
  | 0, d, _, _ => d
  | fuel + 1, d, p, q =>
    match d.txHead p q with
    | none => d
    | some f =>
      if !d.txLive p then
        headCheck fuel (((d.txDrop p q).bump (Adr.MAC_TX_LINK_DOWN p)).txComplete p f txLinkDown false false 0) p q
      else
        match f.launch with
        | none => d
        | some l =>
          if d.launchBad p l then headCheck fuel ((d.txDrop p q).txComplete p f txBadDesc false false 0) p q else d

/-- Check the head of a queue after it changed. -/
def headChecks (d : Dev) (p q : Nat) : Dev := headCheck ((d.macAt p).txq.length + 1) d p q

/-- Put a frame into queue `q`. -/
def txPush (d : Dev) (p q : Nat) (f : TxFrame) : Dev :=
  let empty := (d.txHead p q).isNone
  let d := d.setMac p { d.macAt p with txq := (d.macAt p).txq ++ [(q, f)] }
  if empty then d.headChecks p q else d

/-- A block hands a frame to transmit queue `q` of kind `kind` (R318, R331). -/
def txSubmit (d : Dev) (p q kind : Nat) (f : TxFrame) : Dev :=
  if !d.on (MAC_TXQ_CFG.EN p q) || d.get (MAC_TXQ_CFG.KIND p q) != kind || decide (f.bytes.length < 14) then
    d.txComplete p f txBadDesc false false 0
  else if d.frameLimit p f.bytes < f.bytes.length + 4 then
    (d.bump (Adr.MAC_TX_FRAME_LEN p)).txComplete p f txFrameLen false false 0
  else d.txPush p q f

/-- Whether a PTP frame of port `p` is queued or on the wire. -/
def ptpBusy (d : Dev) (p : Nat) : Bool :=
  let isPtp : TxFrame → Bool := fun f => match f.src with
    | .ptp _ => true
    | _ => false
  (d.macAt p).txq.any (fun x => isPtp x.2) || (match (d.macAt p).wire with
    | some w => isPtp w.f
    | none => false)

/-- The frame that PTP slot `i` describes (R358). -/
def ptpFrame (i : Nat) (l : List Byte) : TxFrame :=
  { bytes := slice l 32 (min 480 (ofBytes (slice l 0 2)))
    src := .ptp i
    tsReq := bitOf (ofBytes (slice l 3 1)) 0
    launch := if bitOf (ofBytes (slice l 3 1)) 1 then some (ofBytes (slice l 4 6), ofBytes (slice l 10 4)) else none
    stomp := false }

/-- TB sends the written slots one after another: the next goes out once the write-back of the one before is done (R358). A slot with
LEN above 480 completes with BAD_DESC. -/
def ptpPump : Nat → Dev → Nat → Dev
  | 0, d, _ => d
  | fuel + 1, d, p =>
    let rd := d.get (TB_PTP_TXCFG.RD p)
    if d.ptpBusy p || rd == d.get (TB_PTP_TXWR.WR p) then d
    else
      let (d, l) := d.memRead0 reqFe (d.ptpTxAddr p rd) 512
      if 480 < ofBytes (slice l 0 2) then ptpPump fuel (d.ptpTxDone p rd txBadDesc false false 0) p
      else ptpPump fuel (d.txSubmit p (ofBytes (slice l 2 1) % 32) 2 (ptpFrame rd l)) p

/-- Send what the PTP transmit ring holds. -/
def ptpSend (d : Dev) (p : Nat) : Dev :=
  ptpPump ((d.get (TB_PTP_TXWR.WR p) + 65536 - d.get (TB_PTP_TXCFG.RD p)) % 65536 + 1) d p

/-- Every queue of a port completes its frames with LINK_DOWN (R313, R334). -/
def txFlushAll (d : Dev) (p : Nat) : Dev :=
  let all := (d.macAt p).txq
  let d := d.setMac p { d.macAt p with txq := [], ctl := [] }
  let d := all.foldl (fun d x => (d.bump (Adr.MAC_TX_LINK_DOWN p)).txComplete p x.2 txLinkDown false false 0) d
  d.ptpSend p

/-! ### Flow control (R314, R335 to R338) -/

/-- Whether Clause 37 limits the port's pause directions. -/
def anLimits (d : Dev) (p : Nat) : Bool := d.get (MAC_PHY_CFG.MODE p) == 2 && d.on (MAC_AN_CFG.AN_EN p)

/-- Flow control is on in MODE 1 and 2. -/
def fcMode (d : Dev) (p : Nat) : Bool := d.get (MAC_FC_CFG.MODE p) == 1 || d.get (MAC_FC_CFG.MODE p) == 2

/-- The port may send pause frames. -/
def fcTx (d : Dev) (p : Nat) : Bool :=
  d.fcMode p && d.on (MAC_FC_CFG.TX_EN p) && (!d.anLimits p || d.on (MAC_AN_STATUS.PAUSE_TX p))

/-- The port obeys pause frames. -/
def fcRx (d : Dev) (p : Nat) : Bool :=
  d.fcMode p && d.on (MAC_FC_CFG.RX_EN p) && (!d.anLimits p || d.on (MAC_AN_STATUS.PAUSE_RX p))

/-- Octets in the host receive buffer (R330). -/
def rxOcc (d : Dev) (p : Nat) : Nat := (d.macAt p).rx.foldl (fun s f => s + f.bytes.length) 0

/-- MAC_ADDR. -/
def macAddr (d : Dev) (p : Nat) : Nat := d.get64 (Adr.MAC_ADDR_LO p) % 2 ^ 48

/-- A pause frame of the port's kind with the given quanta (R336). -/
def pauseFrame (d : Dev) (p quanta : Nat) : List Byte :=
  let head := netOf 6 0x0180C2000001 ++ netOf 6 (d.macAddr p) ++ netOf 2 0x8808
  let pri := d.get (MAC_FC_CFG.PFC_PRI p)
  padded (if d.get (MAC_FC_CFG.MODE p) = 2 then
      head ++ netOf 2 0x0101 ++ netOf 2 pri
        ++ ((List.range 8).map (fun i => netOf 2 (if bitOf pri i then quanta else 0))).flatten
    else head ++ netOf 2 1 ++ netOf 2 quanta)

/-- Queue an XOFF or an XON. -/
def sendXoff (d : Dev) (p : Nat) : Dev :=
  let d := d.setMac p { d.macAt p with ctl := (d.macAt p).ctl ++ [d.pauseFrame p 0xFFFF] }
  (d.bump (Adr.MAC_TX_XOFF p)).set (MAC_STATUS.XOFF p) 1
def sendXon (d : Dev) (p : Nat) : Dev :=
  let d := d.setMac p { d.macAt p with ctl := (d.macAt p).ctl ++ [d.pauseFrame p 0] }
  (d.bump (Adr.MAC_TX_XON p)).set (MAC_STATUS.XOFF p) 0

/-- The occupancy has changed: it may have risen to HIGH or fallen below LOW (R336). -/
def fcUpdate (d : Dev) (p : Nat) : Dev :=
  if !d.fcTx p then d
  else if !d.on (MAC_STATUS.XOFF p) && decide (1024 * d.get (MAC_FC_WM.HIGH p) ≤ d.rxOcc p) then d.sendXoff p
  else if d.on (MAC_STATUS.XOFF p) && decide (d.rxOcc p < 1024 * d.get (MAC_FC_WM.LOW p)) then d.sendXon p
  else d

/-- Whether a received pause holds queue `q` (R338). -/
def qHeld (d : Dev) (p q : Nat) : Bool :=
  decide (q < 32) && d.get (MAC_TXQ_CFG.KIND p q) == 0
    && ((d.macAt p).heldAll || (d.macAt p).heldCls.getLsbD (d.get (MAC_TXQ_CFG.PFC_CLASS p q)))

/-- RX_PAUSED: a transmit queue is held. -/
def setPaused (d : Dev) (p : Nat) : Dev := d.set (MAC_STATUS.RX_PAUSED p) (b2n ((List.range 32).any (fun q => d.qHeld p q)))

/-! ### The next frame (R333, R363, R364) -/

/-- PRIO of queue `q`. -/
def txPrio (d : Dev) (p q : Nat) : Nat := if q = fwdQ then d.get (MAC_PT_CFG.PT_PRIO 2) else d.get (MAC_TXQ_CFG.PRIO p q)

/-- A frame's launch time has been reached. -/
def launched (d : Dev) (p : Nat) (f : TxFrame) : Bool :=
  match f.launch with
  | none => true
  | some l => decide (launch16 l ≤ d.macNow p)

/-- A frame is late: the end of its late window has passed (R364). -/
def isLate (d : Dev) (p q : Nat) (f : TxFrame) : Bool :=
  match f.launch with
  | none => false
  | some l => decide (launch16 l + 256 * d.get (MAC_TXQ_CFG.LATE_WIN p q) < d.macNow p)

/-- Late frames at the head of queue `q` are discarded, unless LATE_SEND (R364). -/
def lateSweep : Nat → Dev → Nat → Nat → Dev
  | 0, d, _, _ => d
  | fuel + 1, d, p, q =>
    match d.txHead p q with
    | none => d
    | some f =>
      if d.isLate p q f && !d.on (MAC_TXQ_CFG.LATE_SEND p q) then
        let d := ((d.txDrop p q).bump (Adr.MAC_TX_LATE_DROP p)).txComplete p f txLateDropped false false 0
        lateSweep fuel (d.headChecks p q) p q
      else d

/-- All queues, the queue of forwarded traffic last. -/
def txQueues : List Nat := List.range 33

/-- Discard late frames, and go on with the PTP ring. -/
def lateSweeps (d : Dev) (p : Nat) : Dev :=
  let d := txQueues.foldl (fun d q => lateSweep ((d.macAt p).txq.length + 1) d p q) d
  d.ptpSend p

/-- Time on the wire in 1/16 ns of a frame with its preamble: 512 bits are one quantum, 20.48 ns, 51.2 ns and 512 ns (R339). -/
def wireTime (d : Dev) (p n : Nat) : Nat :=
  (n + 8) * (match d.get (MAC_PHY_CFG.MODE p) with
    | 0 => 512
    | 1 => 1280
    | _ => 12800) / 100

/-- Whether a frame of priority `prio` would still be on the wire when a waiting frame of lower PRIO value launches (R333). -/
def guarded (d : Dev) (p prio : Nat) (f : TxFrame) : Bool :=
  txQueues.any (fun q => match d.txHead p q with
    | none => false
    | some g => match g.launch with
      | none => false
      | some l => decide (d.txPrio p q < prio) && !d.launched p g
          && decide (launch16 l < d.macNow p + d.wireTime p (wireLen f.bytes)))

/-- The eligible queue with the lowest PRIO, and of those the lowest number (R333). -/
def txChoice (d : Dev) (p : Nat) : Option Nat :=
  txQueues.foldl (fun best q =>
    match d.txHead p q with
    | none => best
    | some f =>
      if !d.launched p f || d.qHeld p q then best
      else match best with
        | none => some q
        | some b => if d.txPrio p q < d.txPrio p b then some q else best) none

/-- The transmit timestamp of a starting frame: the changed frame, its TS_SEQ, whether it was lost (R360 to R362). -/
def txTimestamp (d : Dev) (p q : Nat) (f : TxFrame) : Dev × TxFrame × Nat × Bool :=
  let mode := if q = fwdQ then 0 else d.get (MAC_TXQ_CFG.TS_MODE p q)
  if mode ≠ 1 ∧ mode ≠ 2 then (d, f, 0, false)
  else
    let t := d.txStamp p
    let seq := if f.tsReq then d.get (TB_TSQ_STATUS.NEXT_SEQ p) else 0
    let d := if f.tsReq then d.set (TB_TSQ_STATUS.NEXT_SEQ p) (seq + 1) else d
    match ptpEvent f.bytes, decide (mode = 2) with
    | some i, true =>
      if be f.bytes i 1 % 16 = 0 ∧ bitOf (be f.bytes (i + 6) 1) 1 = false then
        let l := patch f.bytes (i + 34) (netOf 6 (sec16 t) ++ netOf 4 (ns16 t))
        let (l, _) := addCorr l i (frac16 t)
        (d, { f with bytes := fixUdp f.bytes l i }, seq, false)
      else if f.tsReq then
        let (d, lost) := d.tsqPush p t seq
        (d, f, seq, lost)
      else (d, f, seq, false)
    | _, _ =>
      if f.tsReq then
        let (d, lost) := d.tsqPush p t seq
        (d, f, seq, lost)
      else (d, f, seq, false)

/-- The transparent-clock correction of a forwarded event message as its egress begins (R343, R344). -/
def tcCorrect (d : Dev) (p ingress : Nat) (f : TxFrame) : Dev × TxFrame :=
  if !d.on (MAC_PT_CFG.TC_EN 2) then (d, f)
  else
    match ptpEvent f.bytes with
    | none => (d, f)
    | some i =>
      if be f.bytes i 1 / 16 = 1 then (d, f)
      else
        let (l, sat) := addCorr f.bytes i (4096 * ((d.txStamp p : Int) - (ingress : Int)))
        let d := d.bump (Adr.MAC_PT_CORR p)
        let d := if sat then (d.bump (Adr.MAC_PT_CORR_SAT p)).raise 112 else d
        (d, { f with bytes := fixUdp f.bytes l i })

/-- A frame begins on the wire. -/
def wireStart (d : Dev) (p q : Nat) (f : TxFrame) : Dev :=
  let late := d.isLate p q f
  let d := if late then d.bump (Adr.MAC_TX_LATE_SENT p) else d
  let (d, f, seq, lost) := d.txTimestamp p q f
  let (d, f) := match f.src with
    | .fwd ingress => d.tcCorrect p ingress f
    | _ => (d, f)
  d.setMac p { d.macAt p with wire := some ⟨q, f, seq, late, lost⟩ }

/-- The MAC starts the next frame: pause frames first, then the chosen queue's unless the guard band holds it. -/
def txStart (d : Dev) (p : Nat) : Dev :=
  if (d.macAt p).wire.isSome || !d.txLive p then d
  else
    match (d.macAt p).ctl with
    | l :: t =>
      let d := d.setMac p { d.macAt p with ctl := t }
      d.wireStart p fwdQ ⟨l, .pause, false, none, false⟩
    | [] =>
      let d := d.lateSweeps p
      match d.txChoice p with
      | none => d
      | some q =>
        match d.txHead p q with
        | none => d
        | some f =>
          if d.guarded p (d.txPrio p q) f then d.pmc (16 * 20 + 4 + p) 1
          else ((d.txDrop p q).wireStart p q f).headChecks p q

/-- The frame on the wire has left: counters and completion (R296, R318). -/
def txDone (d : Dev) (p : Nat) : Dev :=
  match (d.macAt p).wire with
  | none => d
  | some w =>
    let d := d.setMac p { d.macAt p with wire := none, sent := some (withFcs w.f.bytes w.f.stomp) }
    let d := d.set64 (Adr.MAC_TX_OCTETS_LO p) ((d.get64 (Adr.MAC_TX_OCTETS_LO p) + wireLen w.f.bytes) % 2 ^ 64)
    let d := d.set64 (Adr.MAC_TX_FRAMES_LO p) ((d.get64 (Adr.MAC_TX_FRAMES_LO p) + 1) % 2 ^ 64)
    let d := if w.f.bytes.length < 60 then d.bump (Adr.MAC_TX_PAD p) else d
    (d.txComplete p w.f txSent w.late w.lost w.seq).ptpSend p

/-- The link drops while a frame is on the wire: it completes LINK_DOWN (R348). -/
def wireLost (d : Dev) (p : Nat) : Dev :=
  match (d.macAt p).wire with
  | none => d
  | some w =>
    let d := d.setMac p { d.macAt p with wire := none }
    (d.bump (Adr.MAC_TX_LINK_DOWN p)).txComplete p w.f txLinkDown false false w.seq

end Dev
end Sys2Proof.Machine
end

