-- ==== Sys2Proof/Machine/Mac.lean ====
section
/-! DEFINITION. Sys2Proof/Machine/Mac.lean: the Ethernet ports: start and stop, link, receive checks, MAC control, filters, queues, pass-through, wake (R311 to R349, R297, R357). -/
namespace Sys2Proof.Machine
namespace Dev

/-- Port `p` has power and is not held in reset (R513). -/
def macOn (d : Dev) (p : Nat) : Bool := d.chipOn && !bitOf (d.get RST_MAC.MAC) p

/-- Port `p` counts as stopped (R313). -/
def macStopped (d : Dev) (p : Nat) : Bool := !d.on (MAC_CTRL.PORT_EN p) && !d.on (MAC_STATUS.RUNNING p)

/-- The configuration event of port `p`, with the sticky bit that raises it (R347). -/
def macCfgEvent (d : Dev) (p : Nat) (f : Fld) : Dev := (d.set f 1).raise (98 + 4 * p)

/-- The level of MAC_LINK_DOWN: PORT_EN is 1 and the link is down (R347). -/
def macLinkLevel (d : Dev) (p : Nat) : Dev := d.level (96 + 4 * p) (d.on (MAC_CTRL.PORT_EN p) && !d.on (MAC_STATUS.LINK p))

/-! ### Start and stop (R312, R313) -/

/-- The pair's transparent clock needs one time base: the second port that starts is refused (R344). -/
def tcClash (d : Dev) (p : Nat) : Bool :=
  decide (2 ≤ p) && d.on (MAC_PT_CFG.PASS_EN 2) && d.on (MAC_PT_CFG.TC_EN 2) && d.on (MAC_STATUS.RUNNING (5 - p))
    && d.get (MAC_CFG.TS_TB 2) != d.get (MAC_CFG.TS_TB 3)

/-- The setup fields that refuse a start (R312, R337, R344). -/
def portBad (d : Dev) (p : Nat) : Bool :=
  let mode := d.get (MAC_PHY_CFG.MODE p)
  let fec := d.get (MAC_PHY_CFG.FEC p)
  mode == 3 || fec == 3 || (mode != 0 && fec != 0)
    || decide (d.get (MAC_FC_WM.HIGH p) ≤ d.get (MAC_FC_WM.LOW p)) || decide (512 < d.get (MAC_FC_WM.HIGH p)) || d.tcClash p

/-- PORT_EN changes from 0 to 1: the port checks its setup and runs (R312). -/
def portStart (d : Dev) (p : Nat) : Dev :=
  let d := d.macLinkLevel p
  if d.portBad p then d.macCfgEvent p (MAC_STATUS.CFG_BAD p) else d.set (MAC_STATUS.RUNNING p) 1

/-- The frames on the wire have ended after PORT_EN was written 0: RUNNING clears and waiting frames complete LINK_DOWN (R313). -/
def portStopped (d : Dev) (p : Nat) : Dev :=
  if d.on (MAC_CTRL.PORT_EN p) || !d.on (MAC_STATUS.RUNNING p) || (d.macAt p).wire.isSome then d
  else
    let d := d.set (MAC_STATUS.RUNNING p) 0
    let d := d.setMac p { d.macAt p with heldAll := false, heldCls := 0 }
    (d.txFlushAll p).set (MAC_STATUS.RX_PAUSED p) 0

/-- CNT_CLR clears every counter of the port (R349). -/
def cntClr (d : Dev) (p : Nat) : Dev := (List.range 46).foldl (fun d i => d.setReg (0x0100200 + 0x10000 * p + 4 * i) 0) d

/-! ### Link (R311, R314, R334) -/

/-- The port's link comes up. -/
def linkUp (d : Dev) (p : Nat) : Dev :=
  (((d.set (MAC_STATUS.LINK p) 1).set (MAC_STATUS.BLOCK_LOCK p) 1).set (MAC_STATUS.HI_BER p) 0).macLinkLevel p

/-- The port's link goes down: queued frames complete LINK_DOWN, and so does the frame on the wire (R334, R348). `hiBer`: the PCS has
entered the high bit error ratio state. -/
def linkDown (d : Dev) (p : Nat) (hiBer : Bool) : Dev :=
  let d := if hiBer && !d.on (MAC_STATUS.HI_BER p) then (d.set (MAC_STATUS.HI_BER p) 1).bump (Adr.MAC_HI_BER p) else d
  if !d.on (MAC_STATUS.LINK p) then d
  else
    let d := ((d.set (MAC_STATUS.LINK p) 0).set (MAC_STATUS.BLOCK_LOCK p) (b2n hiBer)).set (MAC_AN_STATUS.DONE p) 0
    let d := (d.bump (Adr.MAC_LINK_DOWN p)).macLinkLevel p
    ((d.wireLost p).txFlushAll p).setPaused p

/-- The pause directions that Annex 28B of IEEE 802.3 gives for the local and the partner's symmetric and asymmetric bits: transmit and
receive (R314). -/
def anPause (ls la ps pa : Bool) : Bool × Bool :=
  if ls && ps then (true, true)
  else if !ls && la && ps && pa then (true, false)
  else if ls && la && !ps && pa then (false, true)
  else (false, false)

/-- Clause 37 negotiation completes with the partner's ability (R314). -/
def anComplete (d : Dev) (p : Nat) (fd sym asm : Bool) (rf : Nat) : Dev :=
  if !d.anLimits p then d
  else
    let r := anPause (d.on (MAC_AN_CFG.ADV_SYM p)) (d.on (MAC_AN_CFG.ADV_ASM p)) sym asm
    let d := ((d.set (MAC_AN_STATUS.DONE p) 1).set (MAC_AN_STATUS.LP_FD p) (b2n fd)).set (MAC_AN_STATUS.LP_SYM p) (b2n sym)
    let d := (d.set (MAC_AN_STATUS.LP_ASM p) (b2n asm)).set (MAC_AN_STATUS.LP_RF p) rf
    (d.set (MAC_AN_STATUS.PAUSE_TX p) (b2n r.1)).set (MAC_AN_STATUS.PAUSE_RX p) (b2n r.2)

/-! ### MAC control (R321, R338) -/

/-- PFC classes after a frame with the class-enable vector `en`: a class with quanta 0 is released. -/
def pfcHold (held : BitVec 8) (en : Nat) (quanta : Nat → Nat) : BitVec 8 :=
  BitVec.ofNat 8 ((List.range 8).foldl (fun m i =>
    if (if bitOf en i then quanta i != 0 else held.getLsbD i) then m + 2 ^ i else m) 0)

/-- A MAC control frame. -/
def macControl (d : Dev) (p : Nat) (l : List Byte) : Dev :=
  let o := l3 l
  let op := be l o 2
  if (op = 1 ∨ op = 0x0101) ∧ d.fcRx p = true then
    let d := d.bump (Adr.MAC_RX_PAUSE p)
    let d := if op = 1 then d.setMac p { d.macAt p with heldAll := be l (o + 2) 2 != 0 }
      else d.setMac p { d.macAt p with
        heldCls := pfcHold (d.macAt p).heldCls (be l (o + 2) 2) (fun i => be l (o + 4 + 2 * i) 2) }
    d.setPaused p
  else d.bump (Adr.MAC_RX_MACCTL_BAD p)

/-- A pause's quanta run out: of a PAUSE, or of one class of a PFC frame. -/
def pauseExpiry (d : Dev) (p : Nat) (cls : Option (Fin 8)) : Dev :=
  let d := match cls with
    | none => d.setMac p { d.macAt p with heldAll := false }
    | some c => d.setMac p { d.macAt p with heldCls := (d.macAt p).heldCls &&& ~~~(BitVec.ofNat 8 (2 ^ c.val)) }
  d.setPaused p

/-- XOFF is repeated while occupancy stays at or above LOW (R336). -/
def xoffRefresh (d : Dev) (p : Nat) : Dev :=
  if d.on (MAC_STATUS.XOFF p) && d.fcTx p && decide (1024 * d.get (MAC_FC_WM.LOW p) ≤ d.rxOcc p) then d.sendXoff p else d

/-! ### Filters (R322 to R327) -/

/-- The compared fields of a frame. -/
structure FrameKey where
  dmac : Nat
  tags : Nat
  vid : Nat
  pcp : Nat
  etype : Nat
  ip : Nat
  dst : Nat
  dport : Option Nat
  deriving DecidableEq, Repr

/-- The fields of a frame (R322). -/
def frameKey (l : List Byte) : FrameKey :=
  { dmac := dstMac l, tags := tagCount l, vid := be l 14 2 % 4096, pcp := be l 14 2 / 8192, etype := etherType l, ip := ipVer l,
    dst := ipDst l, dport := udpPort l }

/-- IPDST: 128 bits, or the leading 32 for IPv4. -/
def fltDst (d : Dev) (p n : Nat) : Nat :=
  (2 ^ 96 * (d.reg (Adr.MAC_FLT_IPDST0 p n)).toNat + 2 ^ 64 * (d.reg (Adr.MAC_FLT_IPDST1 p n)).toNat
    + 2 ^ 32 * (d.reg (Adr.MAC_FLT_IPDST2 p n)).toNat + (d.reg (Adr.MAC_FLT_IPDST3 p n)).toNat)

/-- Whether every enabled field of entry `n` matches (R323). -/
def fltMatch (d : Dev) (p n : Nat) (k : FrameKey) : Bool :=
  let mask := d.get64 (Adr.MAC_FLT_DMASK_LO p n) % 2 ^ 48
  let ver := d.get (MAC_FLT_IP.IPVER p n)
  let pre := d.get (MAC_FLT_IP.PREFIX p n)
  (!d.on (MAC_FLT_MATCH.DMAC_EN p n) || (k.dmac &&& mask) == (d.get64 (Adr.MAC_FLT_DMAC_LO p n) &&& mask))
    && (!d.on (MAC_FLT_MATCH.VID_EN p n) || (decide (0 < k.tags) && k.vid == d.get (MAC_FLT_VLAN.VID p n)))
    && (!d.on (MAC_FLT_MATCH.PCP_EN p n) || (decide (0 < k.tags) && k.pcp == d.get (MAC_FLT_VLAN.PCP p n)))
    && (!d.on (MAC_FLT_MATCH.ETYPE_EN p n) || k.etype == d.get (MAC_FLT_ETYPE.ETYPE p n))
    && (!d.on (MAC_FLT_MATCH.IP_EN p n)
        || (if ver = 1 then k.ip == 4 && k.dst / 2 ^ (32 - pre) == (d.fltDst p n / 2 ^ 96) / 2 ^ (32 - pre)
            else ver == 2 && k.ip == 6 && k.dst / 2 ^ (128 - pre) == d.fltDst p n / 2 ^ (128 - pre)))
    && (!d.on (MAC_FLT_MATCH.UDP_EN p n) || k.dport == some (d.get (MAC_FLT_UDP.DPORT p n)))
    && (!d.on (MAC_FLT_MATCH.UNTAGGED p n) || k.tags == 0)
    && (!d.on (MAC_FLT_MATCH.TAGGED p n) || k.tags != 0)

/-- The entry that decides: the first valid one that matches. -/
def fltFind (d : Dev) (p : Nat) (k : FrameKey) : Option Nat :=
  (List.range 128).find? (fun n => d.on (MAC_FLT_ACTION.VALID p n) && d.fltMatch p n k)

/-- The code of the first check that an entry fails, 0 for none (R326). The reserved bits of an entry are kept until it is checked. -/
def fltCheck (d : Dev) (p n : Nat) : Nat :=
  let act := d.get (MAC_FLT_ACTION.ACTION p n)
  let q := d.get (MAC_FLT_ACTION.QUEUE p n)
  let mq := d.get (MAC_CFG.MIRROR_Q p)
  let ver := d.get (MAC_FLT_IP.IPVER p n)
  let ip := d.on (MAC_FLT_MATCH.IP_EN p n)
  let udp := d.on (MAC_FLT_MATCH.UDP_EN p n)
  let rsv := [(Adr.MAC_FLT_DMAC_LO p n + 4, 16, 16), (Adr.MAC_FLT_DMASK_LO p n + 4, 16, 16), (Adr.MAC_FLT_VLAN p n, 15, 17),
    (Adr.MAC_FLT_ETYPE p n, 16, 16), (Adr.MAC_FLT_IP p n, 2, 6), (Adr.MAC_FLT_IP p n, 16, 16), (Adr.MAC_FLT_UDP p n, 16, 16),
    (Adr.MAC_FLT_MATCH p n, 8, 24), (Adr.MAC_FLT_RSVD p n, 0, 32), (Adr.MAC_FLT_ACTION p n, 2, 6),
    (Adr.MAC_FLT_ACTION p n, 13, 3), (Adr.MAC_FLT_ACTION p n, 17, 14)]
  if act = 3 then 1
  else if (act ≠ 1 ∧ d.on (MAC_RXQ_CFG.EN p q) = false)
      ∨ (act = 2 ∧ (d.on (MAC_RXQ_CFG.EN p mq) = false ∨ d.get (MAC_RXQ_CFG.KIND p mq) ≠ 0)) then 2
  else if ip = true ∧ (ver = 0 ∨ ver = 3 ∨ (if ver = 1 then 32 else 128) < d.get (MAC_FLT_IP.PREFIX p n)) then 3
  else if udp = true ∧ ip = false then 4
  else if (d.get64 (Adr.MAC_FLT_DMAC_LO p n) % 2 ^ 48 &&& (2 ^ 48 - 1 - d.get64 (Adr.MAC_FLT_DMASK_LO p n) % 2 ^ 48)) ≠ 0
      ∨ (d.on (MAC_FLT_MATCH.ETYPE_EN p n) = true ∧ ip = true
          ∧ d.get (MAC_FLT_ETYPE.ETYPE p n) ≠ (if ver = 1 then 0x0800 else 0x86DD))
      ∨ (d.on (MAC_FLT_MATCH.UNTAGGED p n) = true ∧ d.on (MAC_FLT_MATCH.TAGGED p n) = true) then 5
  else if act ≠ 1 ∧ d.get (MAC_RXQ_CFG.KIND p q) = 1 ∧ (ip = false ∨ ver ≠ 1 ∨ udp = false) then 6
  else if d.on (MAC_FLT_ACTION.PASS p n) = true ∧ p < 2 then 7
  else if rsv.any (fun x => bitsOf (d.reg x.1).toNat x.2.1 x.2.2 != 0) then 8
  else 0

/-- VALID of entry `n` was written 1 from 0: the port checks the entry (R326). -/
def fltValid (d : Dev) (p n : Nat) : Dev :=
  match d.fltCheck p n with
  | 0 => d
  | c =>
    let d := (d.set (MAC_FLT_ACTION.VALID p n) 0).set (MAC_FLT_VERR.INDEX p) n
    (d.set (MAC_FLT_VERR.CODE p) c).macCfgEvent p (MAC_STATUS.VERR p)

/-! ### Receive queues (R328 to R330, R357) -/

/-- Event 133 stays raised while any PTP receive ring holds an unread slot. -/
def ptpLevel (d : Dev) : Dev :=
  d.level 133 ([0, 1, 2, 3].any (fun p => d.get (TB_PTP_RXCFG.WR p) != d.get (TB_PTP_RXRD.RD p)))

/-- A frame goes into the PTP receive ring (R357). -/
def ptpReceive (d : Dev) (p q t : Nat) (l : List Byte) : Dev :=
  let d := d.pmc (16 * 20 + 13) 1
  let n := 2 ^ min 10 (max 4 (d.get (TB_PTP_RXCFG.SIZE_LOG2 p)))
  let wr := d.get (TB_PTP_RXCFG.WR p)
  if 480 < l.length ∨ (wr + 65536 - d.get (TB_PTP_RXRD.RD p)) % 65536 = n then (d.bump (Adr.TB_PTP_RXDROP_CNT p)).raise 134
  else
    let slot := tsRecord t (d.get (MAC_CFG.TS_TB p)) p 0 ++ bytesOf 2 l.length ++ bytesOf 1 q
      ++ bytesOf 1 (b2n (tagCount l != 0)) ++ List.replicate 12 0 ++ l
    let d := d.memPut reqFe (512 * d.get (TB_PTP_RXBASE.BASE p) + 512 * (wr % n)) slot
    (d.set (TB_PTP_RXCFG.WR p) (wr + 1)).ptpLevel

/-- The frame receive rings, and whether one that is enabled serves queue `q` of port `p` (R297, R329). -/
def frameRxRings : List Nat := [33, 34, 35, 36, 37, 38, 39, 40]
def rxServed (d : Dev) (p q : Nat) : Bool :=
  frameRxRings.any (fun r => (d.ringState r == stRunning || d.ringState r == stSuspended)
    && d.get (HIF_RING_CFG.PORT r) == p && d.get (HIF_RING_CFG.QUEUE r) == q)

/-- A frame goes to a host queue (R329, R330). -/
def hostReceive (d : Dev) (p : Nat) (f : RxFrame) : Dev :=
  if !d.rxServed p f.q then d.bump (Adr.MAC_RX_QFULL p)
  else if 524288 < d.rxOcc p + f.bytes.length then
    ((d.bump (Adr.MAC_RX_HOST_OVF p)).set (MAC_STATUS.HOST_OVF p) 1).raise (99 + 4 * p)
  else
    let d := d.setMac p { d.macAt p with rx := (d.macAt p).rx ++ [f] }
    d.fcUpdate p

/-- A frame goes to receive queue `q` (R328, R329). -/
def rxDeliver (d : Dev) (p q t filter : Nat) (l : List Byte) : Dev :=
  if !d.on (MAC_RXQ_CFG.EN p q) then d.bump (Adr.MAC_RX_QFULL p)
  else
    match d.get (MAC_RXQ_CFG.KIND p q) with
    | 0 => d.hostReceive p ⟨q, l, filter, t, false, tagCount l != 0⟩
    | 1 =>
      if d.feRunning then
        let d := d.pmc (16 * 20 + p) 1
        { d with fe := { d.fe with inbox := d.fe.inbox ++ [(⟨p, l⟩ : InFrame)] } }
      else d.bump (Adr.MAC_RX_QFULL p)
    | 2 => d.ptpReceive p q t l
    | _ =>
      if d.aget GANG_CTRL.EN != 0 then { d with lortis := d.lortis ++ [(⟨p, l⟩ : InFrame)] }
      else d.bump (Adr.MAC_RX_QFULL p)

/-- A copy, or a missed frame, goes to a host queue; a queue that is not a host queue takes none. -/
def rxHostOnly (d : Dev) (p q t filter : Nat) (mirror : Bool) (l : List Byte) : Dev :=
  if !d.on (MAC_RXQ_CFG.EN p q) || d.get (MAC_RXQ_CFG.KIND p q) != 0 then d.bump (Adr.MAC_RX_QFULL p)
  else d.hostReceive p ⟨q, l, filter, t, mirror, tagCount l != 0⟩

/-! ### Pass-through (R340 to R342) -/

/-- Octets of forwarded frames that wait in port `p`. -/
def fwdOcc (d : Dev) (p : Nat) : Nat := ((d.macAt p).txq.filter (fun x => x.1 == fwdQ)).foldl (fun s x => s + x.2.bytes.length + 4) 0

/-- Whether the pair forwards a frame from `p` in cut-through: both ports run the same MODE and FEC and the egress is idle (R341). -/
def cutThrough (d : Dev) (p : Nat) : Bool :=
  let e := 5 - p
  d.txLive e && d.get (MAC_PHY_CFG.MODE p) == d.get (MAC_PHY_CFG.MODE e) && d.get (MAC_PHY_CFG.FEC p) == d.get (MAC_PHY_CFG.FEC e)
    && (d.macAt e).wire.isNone && (d.macAt e).ctl.isEmpty && (d.txChoice e).isNone

/-- Forward a frame to the other port of the pair; `stomp`: it failed a check after its forwarding began. -/
def forward (d : Dev) (p t : Nat) (l : List Byte) (cut stomp : Bool) : Dev :=
  let e := 5 - p
  let f : TxFrame := ⟨l, .fwd t, false, none, stomp⟩
  let d := if stomp then (d.bump (Adr.MAC_PT_STOMP p)).raise 112 else d
  let count := fun (d : Dev) => d.set64 (Adr.MAC_PT_FWD_LO p) ((d.get64 (Adr.MAC_PT_FWD_LO p) + 1) % 2 ^ 64)
  if cut then (((count d).pmc (16 * 20 + 15) 1)).wireStart e fwdQ f
  else if 262144 < d.fwdOcc e + l.length + 4 then (d.bump (Adr.MAC_PT_BUF_DROP p)).raise 112
  else (count d).txPush e fwdQ f

/-- Whether the pair forwards frames from port `p`. -/
def passOn (d : Dev) (p : Nat) : Bool := decide (2 ≤ p) && d.on (MAC_PT_CFG.PASS_EN 2)

/-- Whether a frame from port `p` is forwarded, given the entry that decides (R325, R340). -/
def forwards (d : Dev) (p : Nat) (l : List Byte) (entry : Option Nat) : Bool :=
  d.passOn p && (match entry with
    | some n => d.on (MAC_FLT_ACTION.PASS p n)
    | none => dstMac l != d.macAddr p)

/-! ### Reception (R320 to R325) -/

/-- The counter of the first check that a frame fails (R320). `l` is the frame with its FCS; `symbol` and `align` give the octet at
which a symbol or an alignment error shows. The answer also says whether forwarding in cut-through had begun by then (R341, R342). -/
def rxCheck (d : Dev) (p : Nat) (l : List Byte) (symbol align : Option Nat) : Option (Nat × Bool) :=
  match symbol, align with
  | some i, _ => some (Adr.MAC_RX_SYMBOL p, decide (64 ≤ i) && decide (64 ≤ l.length))
  | none, some i => some (Adr.MAC_RX_ALIGN p, decide (64 ≤ i) && decide (64 ≤ l.length))
  | none, none =>
    let body := l.take (l.length - 4)
    if l.length < 64 then some (Adr.MAC_RX_RUNT p, false)
    else if d.frameLimit p body < l.length then some (Adr.MAC_RX_OVERSIZE p, true)
    else if l.drop (l.length - 4) ≠ bytesOf 4 (crc32 body) then some (Adr.MAC_RX_FCS p, true)
    else none

/-- A frame that passed every check goes through the filters (R323 to R325, R340). -/
def rxFilter (d : Dev) (p t : Nat) (l : List Byte) (cut : Bool) : Dev :=
  let e := d.fltFind p (frameKey l)
  let fwd := d.forwards p l e
  let d := if fwd then d.forward p t l cut false else d
  match e with
  | some n =>
    let d := d.bump (Adr.MAC_FLT_HITS p n)
    let q := d.get (MAC_FLT_ACTION.QUEUE p n)
    match d.get (MAC_FLT_ACTION.ACTION p n) with
    | 0 => d.rxDeliver p q t n l
    | 1 => d.bump (Adr.MAC_RX_FILTER_DROP p)
    | _ =>
      let d := (d.rxDeliver p q t n l).bump (Adr.MAC_RX_MIRROR p)
      d.rxHostOnly p (d.get (MAC_CFG.MIRROR_Q p)) t n true l
  | none =>
    if fwd then d
    else if d.on (MAC_CFG.DEFAULT p) then d.rxHostOnly p (d.get (MAC_CFG.DEFAULT_Q p)) t 0xFFFF false l
    else d.bump (Adr.MAC_RX_FILTER_MISS p)

/-! ### Wake (R346) -/

/-- Whether pattern `i` matches. -/
def wakePattern (d : Dev) (i : Nat) (l : List Byte) : Bool :=
  let n := min 128 ((d.reg (Adr.MAC0_WAKE_LEN i)).toNat % 256)
  n != 0 && decide (n ≤ l.length) && (List.range n).all (fun j =>
    !bitOf (d.reg (Adr.MAC0_WAKE_MASK i (j / 32))).toNat (j % 32)
      || be l j 1 == bitsOf (d.reg (Adr.MAC0_WAKE_DATA i (j / 4))).toNat (8 * (j % 4)) 8)

/-- Whether the frame holds six bytes of 0xFF and sixteen copies of P0's address after its source address. -/
def magicPacket (d : Dev) (l : List Byte) : Bool :=
  let m := List.replicate 6 (0xFF : Byte) ++ (List.replicate 16 (netOf 6 (d.macAddr 0))).flatten
  (List.range (l.length - 101)).any (fun i => decide (12 ≤ i) && slice l i 102 == m)

/-- The wake detector examines a frame on P0 that passed R320; matches show in MAC0_WAKE_STATUS. -/
def wakeDetect (d : Dev) (l : List Byte) : Dev :=
  let hits := (List.range 8).filter (fun i => bitOf (d.get (MAC0_WAKE_CTRL.PAT_EN 0)) i && d.wakePattern i l)
  let d := hits.foldl (fun d i => d.setReg (Adr.MAC0_WAKE_STATUS 0) (d.reg (Adr.MAC0_WAKE_STATUS 0) ||| BitVec.ofNat 32 (2 ^ i))) d
  if d.on (MAC0_WAKE_CTRL.MAGIC_EN 0) && d.magicPacket l then d.set (MAC0_WAKE_STATUS.MAGIC_HIT 0) 1 else d

/-- A frame arrives on port `p`: `l` with its FCS. In standby only P0's checks and its wake detector work (R345). -/
def macReceive (d : Dev) (p : Nat) (l : List Byte) (symbol align : Option Nat) : Dev :=
  let body := l.take (l.length - 4)
  if d.inStandby then
    (if p = 0 ∧ (d.rxCheck p l symbol align).isNone then d.wakeDetect body else d)
  else if !d.macOn p || !d.on (MAC_STATUS.RUNNING p) || !d.on (MAC_STATUS.LINK p) then d
  else
    let t := d.rxStamp p
    let cut := d.cutThrough p
    match d.rxCheck p l symbol align with
    | some (c, begun) =>
      let d := d.bump c
      let d := if c = Adr.MAC_RX_SYMBOL p ∨ c = Adr.MAC_RX_ALIGN p ∨ c = Adr.MAC_RX_FCS p then d.raise (97 + 4 * p) else d
      if begun && cut && etherType l != 0x8808 && d.forwards p body (d.fltFind p (frameKey body)) then d.forward p t body true true else d
    | none =>
      let d := d.set64 (Adr.MAC_RX_OCTETS_LO p) ((d.get64 (Adr.MAC_RX_OCTETS_LO p) + l.length) % 2 ^ 64)
      let d := d.set64 (Adr.MAC_RX_FRAMES_LO p) ((d.get64 (Adr.MAC_RX_FRAMES_LO p) + 1) % 2 ^ 64)
      let d := if dstMac body = 2 ^ 48 - 1 then d.bump (Adr.MAC_RX_BROADCAST p)
        else if bitOf (be body 0 1) 0 then d.bump (Adr.MAC_RX_MULTICAST p) else d
      let d := if p = 0 then d.wakeDetect body else d
      if etherType body = 0x8808 then d.macControl p body else d.rxFilter p t body cut

/-! ### Commands -/

/-- A transmitted frame's write-back; in near-end loopback the frame comes back (R296, MAC_PHY_CFG.LOOPBACK). -/
def txFrameDone (d : Dev) (p : Nat) : Dev :=
  if (d.macAt p).wire.isNone || !d.macOn p then d
  else
    let d := d.txDone p
    if d.on (MAC_PHY_CFG.LOOPBACK p) then
      let l := (d.macAt p).sent.getD []
      (d.setMac p { d.macAt p with sent := none }).macReceive p l none none
    else d

/-- The time base reaches a launch time, or a late window ends: late frames are dropped or sent, and the wire takes the next frame
(R363, R364). -/
def launchReached (d : Dev) (p q : Nat) : Dev :=
  if !d.macOn p then d
  else
    let d := (lateSweep ((d.macAt p).txq.length + 1) d p q).ptpSend p
    match d.txHead p q with
    | some f => if f.launch.isSome && d.launched p f then d.txStart p else d
    | none => d

/-- The block reset of port `p`: it stops at once, without ending the frame on the wire; queued frames complete LINK_DOWN; counters
clear; every entry returns to VALID = 0; the other registers stay (R513). -/
def macReset (d : Dev) (p : Nat) : Dev :=
  let d := d.setMac p { d.macAt p with wire := none }
  let d := d.txFlushAll p
  let d := ((d.set (MAC_CTRL.PORT_EN p) 0).set (MAC_STATUS.RUNNING p) 0).set (MAC_STATUS.XOFF p) 0
  let d := (d.set (MAC_STATUS.RX_PAUSED p) 0).cntClr p
  let d := (List.range 128).foldl (fun d n => d.set (MAC_FLT_ACTION.VALID p n) 0) d
  (d.setMac p MacState.reset).macLinkLevel p

end Dev
end Sys2Proof.Machine
end

