-- ==== Sys2Proof/Machine/Fe.lean ====
section
/-! DEFINITION. Sys2Proof/Machine/Fe.lean: media flows: bank checks, reception, presence, release, transmission (R54 to R56, R368 to R383, R386). -/
namespace Sys2Proof.Machine

/-- Samples per packet of a PTIME at a RATE (R368): RATE 0 is 96 kHz. -/
def ptimeSamples (rate ptime : Nat) : Nat :=
  (match ptime with
    | 0 => 6
    | 1 => 12
    | 2 => 16
    | _ => 48) * (if rate = 0 then 2 else 1)

/-- The flow rate in Hz. -/
def flowHz (rate : Nat) : Nat := if rate = 0 then 96000 else 48000

/-- Whether two channel ranges overlap. -/
def rangesMeet (a m b n : Nat) : Bool := decide (a ≤ b + n) && decide (b ≤ a + m)

namespace Dev

/-! ### Bank checks (R370) -/

/-- Highest link offset in render samples (R368). -/
def linkMax (d : Dev) : Nat := if d.fs = 96000 then 768 else 384

/-- `x` render samples in samples of a flow at `hz`, rounded up. -/
def toFlow (d : Dev) (hz x : Nat) : Nat := (x * hz + d.fs - 1) / d.fs

/-- The active link offset of flow `i`, in render samples (R372). -/
def linkOf (d : Dev) (i : Nat) : Nat :=
  if d.aget (FE_RXF_GRP.G_EN i) != 0 then d.aget (FE_GRP.LINK (d.aget (FE_RXF_GRP.GROUP i))) else d.aget (FE_RXF_LINK.LINK i)

/-- The link offset that flow `i` would have once B37 lands. -/
def linkNext (d : Dev) (i : Nat) : Nat :=
  if d.aget (FE_RXF_GRP.G_EN i) != 0 then d.aget (FE_GRP.LINK (d.aget (FE_RXF_GRP.GROUP i))) else d.get (FE_RXF_LINK.LINK i)

/-- The legs of receive flow `i` in the shadow: port, address, UDP port. -/
def rxLegs (d : Dev) (i : Nat) : List (Nat × Nat × Nat) :=
  (if d.on (FE_RXF_CFG.LEGA_EN i) then
    [(d.get (FE_RXF_CFG.LEGA_PORT i), (d.reg (Adr.FE_RXF_DST_A i)).toNat, d.get (FE_RXF_PORTS.UDP_A i))] else [])
  ++ (if d.on (FE_RXF_CFG.LEGB_EN i) then
    [(d.get (FE_RXF_CFG.LEGB_PORT i), (d.reg (Adr.FE_RXF_DST_B i)).toNat, d.get (FE_RXF_PORTS.UDP_B i))] else [])

/-- The ports of transmit flow `i`'s legs in the shadow. -/
def txLegs (d : Dev) (i : Nat) : List Nat :=
  (if d.on (FE_TXF_CFG.LEGA_EN i) then [d.get (FE_TXF_CFG.LEGA_PORT i)] else [])
  ++ (if d.on (FE_TXF_CFG.LEGB_EN i) then [d.get (FE_TXF_CFG.LEGB_PORT i)] else [])

/-- Payload bytes of a packet. -/
def payload (rate fmt ptime ch : Nat) : Nat := ch * ptimeSamples rate ptime * (if fmt = 0 then 2 else 3)

/-- Whether receive flow `i` of the flows `on` fails check `code` of R370 for B37. -/
def rxFails (d : Dev) (on : List Nat) (i code : Nat) : Bool :=
  let rate := d.get (FE_RXF_CFG.RATE i)
  let n := ptimeSamples rate (d.get (FE_RXF_CFG.PTIME i))
  let base := d.get (FE_RXF_LINK.CH_BASE i)
  let m := d.get (FE_RXF_CFG.CH_M1 i)
  let legs := d.rxLegs i
  match code with
  | 1 => decide (2047 < base + m) || on.any (fun j => j != i
      && rangesMeet base m (d.get (FE_RXF_LINK.CH_BASE j)) (d.get (FE_RXF_CFG.CH_M1 j)))
  | 2 => legs.isEmpty || (legs.length == 2 && (legs.map (fun x => x.1)).eraseDups.length == 1)
      || on.any (fun j => j != i && legs.any (fun x => (d.rxLegs j).contains x))
  | 3 =>
    let z := d.get (FE_RXF_CFG.DEPTH_LOG2 i)
    let hz := flowHz rate
    decide (z < 6) || decide (10 < z) || decide (2 ^ z < d.toFlow hz (d.linkNext i) + n + d.toFlow hz (2 * d.perLen) + 16)
  | 4 => legs.any (fun x => decide (d.maxFrame x.1 < 62 + payload rate (d.get (FE_RXF_CFG.FMT i)) (d.get (FE_RXF_CFG.PTIME i)) (m + 1)))
  | 5 => legs.any (fun x => d.get (MAC_CFG.TS_TB x.1) != d.get LND_CTRL.TB_SEL)
  | 6 => decide (d.linkMax < d.get (FE_RXF_LINK.LINK i))
  | _ => false

/-- Whether transmit flow `i` of the flows `on` fails check `code` of R370 for B38. -/
def txFails (d : Dev) (on : List Nat) (i code : Nat) : Bool :=
  let base := d.get (FE_TXF_SEQ.CH_BASE i)
  let m := d.get (FE_TXF_CFG.CH_M1 i)
  let legs := d.txLegs i
  match code with
  | 1 => decide (2047 < base + m) || on.any (fun j => j != i
      && rangesMeet base m (d.get (FE_TXF_SEQ.CH_BASE j)) (d.get (FE_TXF_CFG.CH_M1 j)))
  | 2 => legs.isEmpty || (legs.length == 2 && legs.eraseDups.length == 1)
  | 4 => legs.any (fun p => decide (d.maxFrame p <
      62 + payload (d.get (FE_TXF_CFG.RATE i)) (d.get (FE_TXF_CFG.FMT i)) (d.get (FE_TXF_CFG.PTIME i)) (m + 1)))
  | 5 => legs.any (fun p => d.get (MAC_CFG.TS_TB p) != d.get LND_CTRL.TB_SEL)
  | 7 =>
    let q := d.get (FE_TXF_CFG.QUEUE i)
    legs.any (fun p => !d.on (MAC_TXQ_CFG.EN p q) || d.get (MAC_TXQ_CFG.KIND p q) != 1)
  | _ => false

/-- The first check of R370 that a bank's shadow fails: the code and the flow or group. -/
def feCheck (d : Dev) (bank : Nat) : Option (Nat × Nat) :=
  let first := fun (l : List Nat) (f : Nat → Nat → Bool) =>
    (List.range' 1 9).findSome? (fun code => (l.find? (fun i => f i code)).map (fun i => (code, i)))
  match bank with
  | 37 =>
    let on := (List.range 512).filter (fun i => d.on (FE_RXF_CFG.EN i))
    first on (d.rxFails on)
  | 38 =>
    let on := (List.range 512).filter (fun i => d.on (FE_TXF_CFG.EN i))
    first on (d.txFails on)
  | 39 =>
    let grps := (List.range 64).filter (fun g => d.on (FE_GRP.EN g))
    let on := (List.range 512).filter (fun i => d.aget (FE_RXF_CFG.EN i) != 0)
    match grps.find? (fun g => decide (d.linkMax < d.get (FE_GRP.LINK g))) with
    | some g => some (6, g)
    | none => (on.find? (fun i => d.on (FE_RXF_GRP.G_EN i) && !d.on (FE_GRP.EN (d.get (FE_RXF_GRP.GROUP i))))).map (fun i => (8, i))
  | _ => none

/-- FE refuses a bank whose shadow fails a check (R370): true where it may land. -/
def feAccepts (d : Dev) (bank : Nat) : Dev × Bool :=
  match d.feCheck bank with
  | none => (d, true)
  | some (code, i) =>
    let d := ((d.set FE_VERR.BANK (bank - 37)).set FE_VERR.FLOW i).set FE_VERR.CODE code
    ((d.set FE_STATUS.CFG_BAD 1).raise 118, false)

/-! ### Reception (R371 to R378) -/

/-- An entry of a sparse list of receive flows. -/
def rxFlow (d : Dev) (i : Nat) : RxFlow := sget (fun _ => (⟨[], [], none⟩ : RxFlow)) d.fe.rxf i
def setRxFlow (d : Dev) (i : Nat) (x : RxFlow) : Dev :=
  { d with fe := { d.fe with rxf := sset (fun _ => (⟨[], [], none⟩ : RxFlow)) d.fe.rxf i x } }

/-- The time base of LND in samples at `hz`: floor(t × hz). -/
def mediaCount (d : Dev) (hz : Nat) : Nat := (d.tbAt (d.get LND_CTRL.TB_SEL)).t / 2 ^ 16 * hz / (1000000000 * 2 ^ 16)

/-- The leg, 0 or 1, of enabled receive flow `i` that names a port, an address and a UDP port. -/
def legMatch (d : Dev) (i port dst udp : Nat) : Option Nat :=
  if d.aget (FE_RXF_CFG.EN i) = 0 then none
  else if d.aget (FE_RXF_CFG.LEGA_EN i) ≠ 0 ∧ d.aget (FE_RXF_CFG.LEGA_PORT i) = port
      ∧ (sget resetValue d.act (Adr.FE_RXF_DST_A i)).toNat = dst ∧ d.aget (FE_RXF_PORTS.UDP_A i) = udp then some 0
  else if d.aget (FE_RXF_CFG.LEGB_EN i) ≠ 0 ∧ d.aget (FE_RXF_CFG.LEGB_PORT i) = port
      ∧ (sget resetValue d.act (Adr.FE_RXF_DST_B i)).toNat = dst ∧ d.aget (FE_RXF_PORTS.UDP_B i) = udp then some 1
  else none

/-- The enabled receive flow and leg of a frame (R371). -/
def flowOf (d : Dev) (port : Nat) (l : List Byte) : Option (Nat × Nat) :=
  match udpPort l with
  | none => none
  | some u =>
    if ipVer l ≠ 4 then none
    else (List.range 512).findSome? (fun i => (d.legMatch i port (ipDst l) u).map (fun g => (i, g)))

/-- The offset of the RTP payload: after the CSRC list and the header extension. -/
def rtpPayload (l : List Byte) (r : Nat) : Nat :=
  let o := r + 12 + 4 * (be l r 1 % 16)
  if bitOf (be l r 1) 4 then o + 4 + 4 * be l (o + 2) 2 else o

/-- Octets per sample of a flow's encoding. -/
def sampleBytes (d : Dev) (i : Nat) : Nat := if d.aget (FE_RXF_CFG.FMT i) = 0 then 2 else 3
/-- Channels and samples per packet of receive flow `i`. -/
def rxCh (d : Dev) (i : Nat) : Nat := d.aget (FE_RXF_CFG.CH_M1 i) + 1
def rxLen (d : Dev) (i : Nat) : Nat := ptimeSamples (d.aget (FE_RXF_CFG.RATE i)) (d.aget (FE_RXF_CFG.PTIME i))
def rxHz (d : Dev) (i : Nat) : Nat := flowHz (d.aget (FE_RXF_CFG.RATE i))

/-- Whether a matched packet is bad (R371); `u` is its UDP header. -/
def packetBad (d : Dev) (i : Nat) (l : List Byte) (u : Nat) : Bool :=
  let o := l3 l
  let n := be l (u + 4) 2
  let r := u + 8
  !sumRight (sumWords (slice l o 20)) || ihl l != 5 || be l (o + 6) 2 % 16384 != 0
    || decide (n < 20) || decide (l.length < u + n)
    || (be l (u + 6) 2 != 0 && !sumRight (pseudo4 l n + sumWords (slice l u n)))
    || be l r 1 / 64 != 2 || be l (r + 1) 1 % 128 != d.aget (FE_RXF_CFG.PT i)
    || (d.aget (FE_RXF_CFG.SSRC_CHK i) != 0 && be l (r + 8) 4 != (sget resetValue d.act (Adr.FE_RXF_SSRC i)).toNat)
    || rtpPayload l r + d.rxCh i * d.rxLen i * d.sampleBytes i != u + n

/-- The media sample count of a packet's first sample (R372): the number within ±2^31 of the present count with the right low bits. -/
def packetCount (d : Dev) (i ts : Nat) : Int :=
  let c := d.mediaCount (d.rxHz i)
  let x := (ts + 2 ^ 32 - (sget resetValue d.act (Adr.FE_RXF_RTPOFS i)).toNat) % 2 ^ 32
  (c : Int) + signedOf 32 ((x + 2 ^ 32 - c % 2 ^ 32) % 2 ^ 32)

/-- The oldest block that has not been released: the one in progress, or the next after its freeze point (R374, R375). -/
def openBlock (d : Dev) : Nat := d.period + b2n d.lnd.frozen.isSome

/-- The first flow sample whose presentation time is not before render sample `x` (R372). -/
def firstFlow (d : Dev) (i x : Nat) : Int :=
  let hz := d.rxHz i
  (((x : Int) - (d.linkOf i : Int)) * (hz : Int) + ((d.fs : Int) - 1)) / (d.fs : Int)

/-- Whether flow sample `s` is present: a packet that covers it was placed. -/
def present (x : RxFlow) (s : Int) : Bool := x.placed.any (fun e => decide ((e.1 : Int) ≤ s) && decide (s < ((e.1 + e.2 : Nat) : Int)))

/-- The pantry address of sample frame `s` of flow `i` (R373). -/
def jitterAddr (d : Dev) (i : Nat) (s : Int) : Nat :=
  64 * d.aget (FE_RXF_BUF.BUF i) + (s % ((2 ^ d.aget (FE_RXF_CFG.DEPTH_LOG2 i) : Nat) : Int)).toNat * (d.rxCh i * 4)

/-- One sample frame as A32 words (R10, R373). -/
def frameWords (l : List Byte) (w : Nat) (o : Nat) : List Byte :=
  (List.range ((l.length - o) / w)).flatMap (fun c => bytesOf 4 (be l (o + c * w) w * 2 ^ (32 - 8 * w)))

/-- Place the samples of a packet from `s0` on; `o` is the payload, `w` bytes per sample. -/
def placeSamples (d : Dev) (i : Nat) (l : List Byte) (o w : Nat) (n : Int) : List Int → Dev
  | [] => d
  | s :: t =>
    let k := d.rxCh i * w
    let d := d.memPut reqFe (d.jitterAddr i s) (frameWords (slice l (o + (s - n).toNat * k) k) w 0)
    placeSamples d i l o w n t

/-- Event 114 stays raised while an enabled leg of an enabled flow is down (R378). -/
def legLevel (d : Dev) : Dev :=
  d.level 114 (d.feRunning && (List.range 512).any (fun i => d.aget (FE_RXF_CFG.EN i) != 0
    && ((d.aget (FE_RXF_CFG.LEGA_EN i) != 0 && !d.on (FE_RXF_STATUS.LEGA_UP i))
      || (d.aget (FE_RXF_CFG.LEGB_EN i) != 0 && !d.on (FE_RXF_STATUS.LEGB_UP i)))))

/-- A leg is up at a packet, accepted or duplicate (R378). -/
def legUp (d : Dev) (i g : Nat) : Dev :=
  (d.set (if g = 0 then FE_RXF_STATUS.LEGA_UP i else FE_RXF_STATUS.LEGB_UP i) 1).legLevel

/-- A leg has had no packet for LEG_TIMEOUT ms (R378). -/
def legTimeout (d : Dev) (i g : Nat) : Dev :=
  if !d.feRunning then d
  else (d.set (if g = 0 then FE_RXF_STATUS.LEGA_UP i else FE_RXF_STATUS.LEGB_UP i) 0).legLevel

/-- A duplicate (R377). -/
def rxDup (d : Dev) (i g : Nat) : Dev := ((d.bump (Adr.FE_RXF_DUP_CNT i)).pmc (16 * 20 + 9) 1).legUp i g

/-- A packet that is accepted: SSRC, sequence numbers, presence, counters (R376, R377, R386). -/
def rxAccept (d : Dev) (i g ssrc seq n : Nat) : Dev :=
  let x := d.rxFlow i
  let d := if d.aget (FE_RXF_CFG.SSRC_CHK i) = 0 ∧ x.ssrc.getD ssrc ≠ ssrc then
      (d.set (FE_RXF_STATUS.SSRC_CHANGED i) 1).raise 119 else d
  let d := d.setRxFlow i ⟨x.placed ++ [(n, d.rxLen i)], (seq :: x.seqs).take 1024, some ssrc⟩
  ((d.bump (Adr.FE_RXF_PKT_CNT i)).pmc (16 * 20 + 8) 1).legUp i g

/-- A good packet of flow `i` on leg `g`: duplicate, early, late or placed (R374, R377). -/
def rxPlace (d : Dev) (i g : Nat) (l : List Byte) (u : Nat) : Dev :=
  let r := u + 8
  let seq := be l (r + 2) 2
  let n := d.packetCount i (be l (r + 4) 4)
  let len := d.rxLen i
  let x := d.rxFlow i
  let samples := (List.range len).map (fun (j : Nat) => n + (j : Int))
  let lo := d.firstFlow i (d.openBlock * d.perLen)
  let hi := lo + ((2 ^ d.aget (FE_RXF_CFG.DEPTH_LOG2 i) : Nat) : Int)
  if x.seqs.contains seq then d.rxDup i g
  else if hi ≤ n + (len : Int) - 1 then (d.bump (Adr.FE_RXF_EARLY_CNT i)).raise 116
  else if samples.any (present x) then d.rxDup i g
  else
    let fit := samples.filter (fun s => decide (lo ≤ s))
    let d := if fit.length < len then (d.bump (Adr.FE_RXF_LATE_CNT i)).raise 116 else d
    if fit.isEmpty then d
    else (d.placeSamples i l (rtpPayload l r) (d.sampleBytes i) n fit).rxAccept i g (be l (r + 8) 4) seq n.toNat

/-- FE takes the oldest frame of the media queues (R371). -/
def mediaReceive (d : Dev) : Dev :=
  if !d.feRunning then d
  else
    match d.fe.inbox with
    | [] => d
    | f :: t =>
      let d : Dev := { d with fe := { d.fe with inbox := t } }
      match d.flowOf f.port f.bytes with
      | none => (d.bump Adr.FE_NOFLOW_CNT).raise 115
      | some (i, g) =>
        let u := (udpAt f.bytes).getD 0
        if d.packetBad i f.bytes u then (d.bump (Adr.FE_RXF_BAD_CNT i)).raise 115
        else d.rxPlace i g f.bytes u

/-! ### Release (R54, R55, R373, R375, R379) -/

/-- Read-ahead of the bridge in flow samples: 166.67 µs (R54, R55). -/
def bridgeAhead (d : Dev) (i : Nat) : Nat := if d.rxHz i = d.fs then 0 else d.rxHz i / 6000

/-- The flow sample that presents at render sample `x`, rounded down. -/
def flowAt (d : Dev) (i x : Nat) : Int := (((x : Int) - (d.linkOf i : Int)) * (d.rxHz i : Int)) / (d.fs : Int)

/-- Whether render sample `x` of flow `i` has all that it needs: the flow sample, and for a bridged flow the read-ahead. -/
def ready (d : Dev) (i x : Nat) : Bool :=
  (List.range (d.bridgeAhead i + 1)).all (fun (j : Nat) => present (d.rxFlow i) (d.flowAt i x + (j : Int)))

/-- The packet intervals of flow `i` that begin in block `b` and have an absent sample; the grid is that of the last packet placed. -/
def missing (d : Dev) (i b : Nat) : Nat :=
  let n : Int := (d.rxLen i : Nat)
  let lo := d.firstFlow i (b * d.perLen)
  let hi := d.firstFlow i ((b + 1) * d.perLen)
  let ph : Int := (((d.rxFlow i).placed.getLast?).map (fun e => ((e.1 : Nat) : Int))).getD 0 % n
  ((List.range (hi - lo).toNat).filter (fun (j : Nat) => decide ((lo + (j : Int)) % n = ph)
    && (List.range (d.rxLen i)).any (fun (k : Nat) => decide (lo + ((j + k : Nat) : Int) < hi)
      && !present (d.rxFlow i) (lo + ((j + k : Nat) : Int))))).length

/-- At the freeze point FE freezes the presence of the block to be released and counts what is missing (R375, R379). -/
def feFreeze (d : Dev) : Dev :=
  if !d.feRunning then d
  else
    let b := d.period
    let on := (List.range 512).filter (fun i => d.aget (FE_RXF_CFG.EN i) != 0)
    let miss := on.map (fun i => (i, d.missing i b))
    let d := miss.foldl (fun d x => (d.bumpBy (Adr.FE_RXF_MISS_CNT x.1) x.2).pmc (16 * 20 + 10) x.2) d
    let grps := (List.range 64).filter (fun g => miss.any (fun x => x.2 != 0
      && d.aget (FE_RXF_GRP.G_EN x.1) != 0 && d.aget (FE_RXF_GRP.GROUP x.1) == g))
    let d := grps.foldl (fun d g => (d.bump (Adr.FE_GRP_MISS g)).raise 120) d
    { d with fe := { d.fe with frozen := on.map (fun i => (i, (List.range d.perLen).map (fun s => d.ready i (b * d.perLen + s)))) } }

/-- One sample frame of flow `i` from the jitter buffer; a bridged flow's values are free (R54). -/
def feWords (d : Dev) (i x : Nat) : Dev × List Int :=
  if d.rxHz i = d.fs then
    let (d, l) := d.memRead0 reqFe (d.jitterAddr i (d.flowAt i x)) (4 * d.rxCh i)
    (d, (List.range (d.rxCh i)).map (fun c => signedOf 32 (ofBytes (slice l (4 * c) 4))))
  else
    let f := d.fresh
    ({ d with fresh := f + d.rxCh i }, (List.range (d.rxCh i)).map (fun c => signedOf 32 (Config.free (f + c))))

/-- The data of a block, sample by sample, where it is present. -/
def feBlock (d : Dev) (i b : Nat) : List (Nat × Bool) → Dev × List (Option (List Int))
  | [] => (d, [])
  | (s, ok) :: t =>
    if ok then
      let (d1, w) := d.feWords i (b * d.perLen + s)
      let (d2, ws) := feBlock d1 i b t
      (d2, some w :: ws)
    else
      let (d2, ws) := feBlock d i b t
      (d2, none :: ws)

/-- Release one flow: its channels' samples of block `b`, concealed where they are missing. -/
def feFlow (d : Dev) (b : Nat) (x : Nat × List Bool) : Dev × List (Nat × List Int) :=
  let i := x.1
  let (d, data) := d.feBlock i b ((List.range x.2.length).zip x.2)
  let (d, out) := d.concRun i (d.rxCh i) data
  (d, (List.range (d.rxCh i)).map (fun c => (d.aget (FE_RXF_LINK.CH_BASE i) + c, out.map (fun w => w.getD c 0))))

/-- Release block `b`: the samples of the receive channels that flows fill (R373, R375). -/
def feRelease (d : Dev) (b : Nat) : Dev × List (Nat × List Int) :=
  let r := d.fe.frozen.foldl (fun (acc : Dev × List (Nat × List Int)) x =>
    let (d, l) := acc.1.feFlow b x
    (d, acc.2 ++ l)) (d, [])
  let d := r.1
  let lo := fun i => d.firstFlow i ((b + 1) * d.perLen)
  let d : Dev := { d with fe := { d.fe with
    frozen := []
    rxf := d.fe.rxf.map (fun e => (e.1, { e.2 with
      placed := (e.2.placed.dropLast.filter (fun p => decide (lo e.1 < ((p.1 + p.2 : Nat) : Int)))) ++ e.2.placed.getLast?.toList })) } }
  (d, r.2)

/-- What the landing of B37 does to each flow: one that is newly enabled has nothing present and is in MUTE (R373). -/
def feRxLand (d : Dev) : Dev :=
  let fresh := (List.range 512).filter (fun i => d.aget (FE_RXF_CFG.EN i) != 0 && d.aget1 (FE_RXF_CFG.EN i) == 0)
  (fresh.foldl (fun d i => (d.setRxFlow i ⟨[], [], none⟩).setConc i Conceal.muted) d).legLevel

/-! ### Transmission (R380 to R383) -/

def txHz (d : Dev) (i : Nat) : Nat := flowHz (d.aget (FE_TXF_CFG.RATE i))
def txLen (d : Dev) (i : Nat) : Nat := ptimeSamples (d.aget (FE_TXF_CFG.RATE i)) (d.aget (FE_TXF_CFG.PTIME i))
def txCh (d : Dev) (i : Nat) : Nat := d.aget (FE_TXF_CFG.CH_M1 i) + 1

/-- The first packet whose first sample has media time at or after render sample `x`. -/
def firstPacket (d : Dev) (i x : Nat) : Nat :=
  let s := d.toFlow (d.txHz i) x
  (s + d.txLen i - 1) / d.txLen i

def txFlow (d : Dev) (i : Nat) : Option TxFlow := (d.fe.txf.find? (fun e => e.1 == i)).map (fun e => e.2)
def setTxFlow (d : Dev) (i : Nat) (x : Option TxFlow) : Dev :=
  { d with fe := { d.fe with txf := match x with
    | some y => sput d.fe.txf i y
    | none => serase d.fe.txf i } }

/-- What the landing of period `m` does to each transmit flow (R381); `resync`: the grid moves with the time base. -/
def feTxLand (d : Dev) (m : Nat) (resync : Bool) : Dev :=
  let x := m * d.perLen + 24
  let d := if resync then
      d.fe.txf.foldl (fun d e => d.setTxFlow e.1 (some { e.2 with next := d.firstPacket e.1 x })) d else d
  (List.range 512).foldl (fun d i =>
    let now := d.aget (FE_TXF_CFG.EN i) != 0
    if now && d.aget1 (FE_TXF_CFG.EN i) == 0 then
      (d.setTxFlow i (some ⟨d.firstPacket i x, d.aget (FE_TXF_SEQ.SEQ0 i), none⟩)).set (FE_TXF_STATUS.ACTIVE i) 1
    else if !now && d.aget1 (FE_TXF_CFG.EN i) != 0 then
      (match d.txFlow i with
        | some f => d.setTxFlow i (some { f with stop := some x })
        | none => d).set (FE_TXF_STATUS.ACTIVE i) 0
    else d) d

/-- The render sample of flow sample `s` of transmit flow `i`. -/
def txRender (d : Dev) (i s : Nat) : Nat := s * d.fs / d.txHz i

/-- The launch time of a packet (R382) in units of 1/96,000 s: the later of its first sample's media time and its last sample's less
20 render samples, and 166.67 µs more for a bridged flow. -/
def launch96 (d : Dev) (i first last : Nat) : Nat :=
  let u := 96000 / d.txHz i
  max (first * u) (last * u - 20 * (96000 / d.fs)) + (if d.txHz i = d.fs then 0 else 16)

/-- A transmit channel's sample, if MIX has it. -/
def txSample (d : Dev) (ch x : Nat) : Option Int :=
  if x < 24 then none
  else
    let m := (x - 24) / d.perLen
    (d.mix.tx.find? (fun e => e.1 == m && e.2.1 == ch)).map (fun e => e.2.2.getD ((x - 24) % d.perLen) 0)

/-- A sample in the flow's encoding (R380). -/
def encodeSample (fmt : Nat) (a : Int) : List Byte :=
  if fmt = 0 then netOf 2 (unsignedOf 16 (satTo 16 (roundShift a 16))) else netOf 3 (unsignedOf 24 (satTo 24 (roundShift a 8)))

/-- The payload of packet `k`, when MIX has all of it; a bridged flow's values are free (R54). -/
def txPayload (d : Dev) (i k : Nat) : Dev × Option (List Byte) :=
  let n := d.txLen i
  let ch := d.txCh i
  let base := d.aget (FE_TXF_SEQ.CH_BASE i)
  let fmt := d.aget (FE_TXF_CFG.FMT i)
  let vals := (List.range (n * ch)).map (fun j => d.txSample (base + j % ch) (d.txRender i (k * n + j / ch)))
  if vals.any (fun v => v.isNone) then (d, none)
  else if d.txHz i = d.fs then (d, some (vals.flatMap (fun v => encodeSample fmt (v.getD 0))))
  else
    let f := d.fresh
    ({ d with fresh := f + n * ch },
      some ((List.range (n * ch)).flatMap (fun j => encodeSample fmt (signedOf 32 (Config.free (f + j))))))

/-- Whether a header template passes the checks of R383. -/
def templateOk (l : List Byte) : Bool :=
  let len := be l 62 1
  let t := (len - 54) / 4
  let o := 14 + 4 * t
  (len == 54 || len == 58 || len == 62)
    && (List.range t).all (fun j => tagAt l (12 + 4 * j))
    && be l (12 + 4 * t) 2 == 0x0800 && be l o 1 == 0x45 && be l (o + 9) 1 == 17
    && be l (o + 28) 1 / 64 == 2 && be l (o + 28) 1 % 32 == 0

/-- The frame of a packet: the template's headers with the fields that FE fills in (R383). -/
def packetFrame (t : List Byte) (seq ts : Nat) (pay : List Byte) : List Byte :=
  let len := be t 62 1
  let o := len - 40
  let h := t.take len
  let h := patch h (o + 2) (netOf 2 (40 + pay.length))
  let h := patch h (o + 10) (netOf 2 (ipCsum (slice h o 20)))
  let h := patch h (o + 24) (netOf 2 (20 + pay.length) ++ [0, 0])
  let h := patch h (o + 30) (netOf 2 seq ++ netOf 4 ts)
  let l := h ++ pay
  if bitOf (be t 63 1) 0 then
    let c := inetSum (pseudo4 l (20 + pay.length) + sumWords (l.drop (o + 20)))
    patch l (o + 26) (netOf 2 (if c = 0 then 0xFFFF else c))
  else l

/-- Send one packet on one leg. -/
def sendLeg (d : Dev) (i leg : Nat) (f : TxFlow) (pay : List Byte) : Dev :=
  let en := if leg = 0 then FE_TXF_CFG.LEGA_EN i else FE_TXF_CFG.LEGB_EN i
  if d.aget en = 0 then d
  else
    let port := d.aget (if leg = 0 then FE_TXF_CFG.LEGA_PORT i else FE_TXF_CFG.LEGB_PORT i)
    let tm := d.aget (if leg = 0 then FE_TXF_TMPL.TMPL_A i else FE_TXF_TMPL.TMPL_B i)
    let (d, t) := d.memRead0 reqFe (4096 * d.get FE_TMPL_BASE.BASE + 64 * tm) 64
    if !templateOk t then ((d.bump Adr.FE_BAD_TMPL_CNT).set (FE_TXF_STATUS.TMPL_BAD i) 1).raise 118
    else
      let n := d.txLen i
      let ts := (f.next * n + (sget resetValue d.act (Adr.FE_TXF_RTPOFS i)).toNat) % 2 ^ 32
      let at96 := d.launch96 i (f.next * n) (f.next * n + n - 1)
      let fr : TxFrame :=
        { bytes := packetFrame t f.seq ts pay
          src := .fe i leg
          tsReq := false
          launch := some (at96 / 96000, 1000000000 * (at96 % 96000) / 96000)
          stomp := false }
      let d := (d.bump (Adr.FE_TXF_PKT_CNT i)).pmc (16 * 20 + 11) 1
      d.txSubmit port (d.aget (FE_TXF_CFG.QUEUE i)) 1 fr

/-- FE sends the next packet of transmit flow `i`, once MIX has its samples (R380 to R383). -/
def mediaSend (d : Dev) (i : Nat) : Dev :=
  if !d.feRunning then d
  else
    match d.txFlow i with
    | none => d
    | some f =>
      if (match f.stop with
        | some x => decide (x ≤ d.txRender i (f.next * d.txLen i))
        | none => false) then d.setTxFlow i none
      else
        match d.txPayload i f.next with
        | (d, none) => d
        | (d, some pay) =>
          let d := (d.sendLeg i 0 f pay).sendLeg i 1 f pay
          d.setTxFlow i (some { f with next := f.next + 1, seq := (f.seq + 1) % 65536 })

/-- The block reset of FE: every flow stops and its counters clear (R513); its banks return to reset values (R45). -/
def feReset (d : Dev) : Dev :=
  let mine := fun (a : Nat) => decide (Adr.FE_CTRL ≤ a) && decide (a < Adr.FE_CTRL + 0x10000)
  let keep := fun (a : Nat) => [Adr.FE_CTRL, Adr.FE_STATUS, Adr.FE_CFG, Adr.FE_TMPL_BASE, Adr.FE_VERR].contains a
  let d : Dev := { d with
    regs := d.regs.filter (fun x => !mine x.1 || keep x.1)
    act := d.act.filter (fun x => !mine x.1)
    act1 := d.act1.filter (fun x => !mine x.1)
    act2 := d.act2.filter (fun x => !mine x.1)
    fe := { d.fe with inbox := [], rxf := [], txf := [], frozen := [], conc := d.fe.conc.filter (fun x => decide (512 ≤ x.1)) } }
  d.level 114 false

end Dev
end Sys2Proof.Machine
end

