-- ==== Sys2Proof/Machine/Sap.lean ====
section
/-! DEFINITION. Sys2Proof/Machine/Sap.lean: the serial ports (R391 to R406, R541, R543). -/
namespace Sys2Proof.Machine

/-- Frame rates by NOM_RATE, and by FAMILY − 1. -/
def nomRates : List Nat := [44100, 48000, 88200, 96000, 176400, 192000]

/-- The rate of a NOM_RATE code; 0 for a refused one. -/
def nomRate (c : Nat) : Nat := nomRates.getD c 0

/-- Bits of a SLOT_BITS or WORD_BITS code. -/
def codeBits (c : Nat) : Nat := 16 + 8 * c

/-- Whether a SAP_CFG word fails a check of R395 at a render rate. -/
def sapCfgBad (cfg fs : Nat) : Bool :=
  let format := bitsOf cfg 0 2
  let slots := bitsOf cfg 3 5 + 1
  let sb := bitsOf cfg 8 2
  let wb := bitsOf cfg 10 2
  let rate := nomRate (bitsOf cfg 17 3)
  format == 3 || slots == 1 || sb == 3 || wb == 3 || bitsOf cfg 13 2 == 3 || rate == 0
    || (format != 2 && slots != 2) || decide (sb < wb)
    || decide (49152000 < slots * codeBits sb * rate)
    || (bitOf cfg 2 && 98304000 % (rate * slots * codeBits sb) != 0)
    || (bitOf cfg 20 && rate != fs)
    || decide (20 * rate < 9 * fs) || decide (4 * fs < rate)

/-- The ASRC delay in render samples (R398). -/
def asrcDelay (nom fs : Nat) : Nat := [92, 84, 52, 48, 36, 34].getD nom 0 / (if fs = 96000 then 1 else 2)

namespace Dev

def sapAt (d : Dev) (p : Nat) : SapState := vat d.sap p
def setSap (d : Dev) (p : Nat) (x : SapState) : Dev := { d with sap := vput d.sap p x }

/-- Port `p` has power and is not in reset: SAP0 and SAP1 are in the porch (R406). -/
def sapOn (d : Dev) (p : Nat) : Bool := (decide (p < 2) || d.chipOn) && !bitOf (d.get RST_SAP.SAP) p

/-- Slots of a line. -/
def slots (d : Dev) (p : Nat) : Nat := d.get (SAP_CFG.SLOTS_M1 p) + 1
/-- Word bits. -/
def wordBits (d : Dev) (p : Nat) : Nat := codeBits (d.get (SAP_CFG.WORD_BITS p))
/-- The synchronous bypass is used (R58). -/
def bypass (d : Dev) (p : Nat) : Bool := d.on (SAP_CFG.SYNC p)
/-- START frames: 0 acts as 1 (R403). -/
def startFrames (d : Dev) (p : Nat) : Nat := max 1 (d.get (SAP_START.FRAMES p))

/-- The active receive, and transmit, mask: bit 32 l + s; bits at SLOTS and above are ignored (R400). -/
def rxMask (d : Dev) (p : Nat) : Nat :=
  let m := 2 ^ d.slots p - 1
  ((sget resetValue d.act (Adr.SAP_MASK_RX0 p)).toNat &&& m) + 2 ^ 32 * ((sget resetValue d.act (Adr.SAP_MASK_RX1 p)).toNat &&& m)
def txMaskIn (d : Dev) (l : List (Nat × Word)) (p : Nat) : Nat :=
  let m := 2 ^ d.slots p - 1
  ((sget resetValue l (Adr.SAP_MASK_TX0 p)).toNat &&& m) + 2 ^ 32 * ((sget resetValue l (Adr.SAP_MASK_TX1 p)).toNat &&& m)
def txMask (d : Dev) (p : Nat) : Nat := d.txMaskIn d.act p

/-- A frame of zeros. -/
def silence : List Int := List.replicate 64 0

/-- Event 161 stays raised while an enabled port has CLK_OK = 0 or an unlocked ASRC (R397). -/
def sapLevel (d : Dev) : Dev :=
  d.level 161 ((List.range 8).any (fun p => d.on (SAP_CTRL.EN p) && d.on (SAP_STATUS.RUNNING p)
    && (!d.on (SAP_STATUS.CLK_OK p) || !d.on (SAP_STATUS.ASRC_LOCK p))))

/-- An underrun or an overrun: XRUN, event 152 + p (R402). -/
def sapXrun (d : Dev) (p cnt : Nat) : Dev := (((d.bump cnt).set (SAP_STATUS.XRUN p) 1).raise (152 + p)).pmc (16 * 21 + 8) 1

/-! ### Starting and stopping (R395, R403) -/

/-- EN changes from 0 to 1. -/
def sapStart (d : Dev) (p : Nat) : Dev :=
  if d.on (SAP_STATUS.RUNNING p) then d
  else if sapCfgBad (d.reg (Adr.SAP_CFG p)).toNat d.fs then (d.set (SAP_STATUS.CFG_BAD p) 1).raise 160
  else
    let d := d.set (SAP_STATUS.RUNNING p) 1
    let d := (d.set (SAP_STATUS.CLK_OK p) 0).set (SAP_STATUS.ASRC_LOCK p) (b2n (d.bypass p))
    let delay := if d.bypass p then 0 else 16 * asrcDelay (d.get (SAP_CFG.NOM_RATE p)) d.fs
    let d := (d.set (SAP_ASRC_DELAY.RX p) delay).set (SAP_ASRC_DELAY.TX p) delay
    let d := (d.setConc (sapStream p 0) Conceal.muted).setConc (sapStream p 1) Conceal.playing
    let d := d.setSap p { SapState.reset with phase := .silent (d.startFrames p), pe := (d.sapAt p).pe, dp := (d.sapAt p).dp }
    d.sapLevel

/-- After FRAMES silent frames data follows from the next landing. -/
def sapSilentEnd (d : Dev) (p : Nat) : Dev :=
  match (d.sapAt p).phase with
  | .silent 0 => d.setSap p { d.sapAt p with phase := .waiting }
  | _ => d

/-- Port frames in one period (R47), at least one. -/
def periodFrames (d : Dev) (p : Nat) : Nat := max 1 (d.perLen * nomRate (d.get (SAP_CFG.NOM_RATE p)) / d.fs)

/-- EN is written 0: the transmit data ramps to zero over one period, as RAMP does, and silence follows (R403). -/
def sapStop (d : Dev) (p : Nat) : Dev :=
  let x := d.sapAt p
  match x.phase with
  | .stopped => d
  | .ramping => d
  | .ending _ => d
  | .running =>
    let n := d.periodFrames p
    let ramp := (List.range n).map (fun i => x.out.map (fun c => rampOut n c i))
    (d.setSap p { x with phase := .ramping, txCur := ramp, txHalf := none, fade := none }).sapLevel
  | _ => (d.setSap p { x with phase := .ending (d.startFrames p), txCur := [], txHalf := none }).sapLevel

/-- After FRAMES silent frames a master stops its clocks, the slots go high-impedance and RUNNING clears. -/
def sapStopped (d : Dev) (p : Nat) : Dev :=
  match (d.sapAt p).phase with
  | .ending 0 =>
    let d := (d.set (SAP_STATUS.RUNNING p) 0).set (SAP_STATUS.CLK_OK p) 0
    (d.setSap p { SapState.reset with pe := (d.sapAt p).pe, dp := (d.sapAt p).dp }).sapLevel
  | _ => d

/-- The port stops at once: data lines high-impedance, no silent stop (R513). -/
def sapReset (d : Dev) (p : Nat) : Dev :=
  let d := ((d.set (SAP_CTRL.EN p) 0).set (SAP_STATUS.RUNNING p) 0).set (SAP_STATUS.CLK_OK p) 0
  (d.setSap p SapState.reset).sapLevel

/-! ### Clocks (R396, R397) -/

/-- `x` lies within `num / den` of `y`. -/
def within (x y num den : Nat) : Bool := decide ((x - y + (y - x)) * den ≤ y * num)

/-- A measured rate in units of 1/256 Hz. -/
def sapRate (d : Dev) (p rate : Nat) : Dev :=
  if !d.on (SAP_STATUS.RUNNING p) then d
  else
    let nom := 256 * nomRate (d.get (SAP_CFG.NOM_RATE p))
    let oob := b2n (!within rate nom (d.get (SAP_RATE_CFG.TOL_PPM p)) 1000000)
    let fam := ((List.range 6).find? (fun i => within rate (256 * nomRate i) 2 100)).elim 0 (· + 1)
    let changed := d.get (SAP_STATUS.RATE_OOB p) != oob || d.get (SAP_STATUS.FAMILY p) != fam
    let d := ((d.set (SAP_RATE.RATE p) rate).set (SAP_STATUS.RATE_OOB p) oob).set (SAP_STATUS.FAMILY p) fam
    let d := if changed then (d.set (SAP_STATUS.RATE_EVT p) 1).raise (144 + p) else d
    let d := if !d.bypass p && !within rate nom 1 1000 then d.set (SAP_STATUS.ASRC_LOCK p) 0 else d
    d.sapLevel

/-- No FSYNC edge for 4 nominal frame times on a slave port. -/
def sapClockLoss (d : Dev) (p : Nat) : Dev :=
  if !d.on (SAP_STATUS.RUNNING p) || d.on (SAP_CFG.MASTER p) || !d.on (SAP_STATUS.CLK_OK p) then d
  else
    let d := (d.set (SAP_STATUS.CLK_OK p) 0).bump (Adr.SAP_CLKLOSS_CNT p)
    (if d.bypass p then d else d.set (SAP_STATUS.ASRC_LOCK p) 0).sapLevel

/-- The ASRC locks: the clock is there, and no measurement has shown it outside ±1000 ppm. -/
def asrcLock (d : Dev) (p : Nat) : Dev :=
  let r := d.get (SAP_RATE.RATE p)
  if !d.on (SAP_STATUS.RUNNING p) || d.bypass p || !d.on (SAP_STATUS.CLK_OK p)
      || (r != 0 && !within r (256 * nomRate (d.get (SAP_CFG.NOM_RATE p))) 1 1000) then d
  else (d.set (SAP_STATUS.ASRC_LOCK p) 1).sapLevel

/-! ### The period halves (R400 to R402) -/

/-- At the freeze point MIX takes the receive half that is complete (R409). -/
def sapFreeze (d : Dev) : Dev :=
  (List.range 8).foldl (fun d p =>
    let x := d.sapAt p
    d.setSap p { x with rxLatch := x.rxHalf, rxHalf := none }) d

/-- A receive frame goes into the half; a full half without a free place discards it: an overrun. -/
def rxHalfPut (d : Dev) (p : Nat) (f : List Int) : Dev :=
  let x := d.sapAt p
  let cur := x.rxCur ++ [f]
  if cur.length < d.perLen then d.setSap p { x with rxCur := cur }
  else match x.rxHalf with
    | none => d.setSap p { x with rxCur := [], rxHalf := some cur }
    | some _ => (d.setSap p { x with rxCur := [] }).sapXrun p (Adr.SAP_RX_OVER_CNT p)

/-- A frame of free values in the slots of a mask (R57: the ASRC's filter is not given). -/
def freeFrame (d : Dev) (mask : Nat) : Dev × List Int :=
  let f := d.fresh
  ({ d with fresh := f + 64 }, (List.range 64).map (fun i => if bitOf mask i then signedOf 32 (Config.free (f + i)) else 0))

/-- `n` such frames. -/
def freeFrames (d : Dev) (mask : Nat) : Nat → Dev × List (List Int)
  | 0 => (d, [])
  | n + 1 =>
    let (d1, f) := d.freeFrame mask
    let (d2, l) := freeFrames d1 mask n
    (d2, f :: l)

/-- Whether the port has data on the wire. -/
def dataPhase (x : SapState) : Bool :=
  match x.phase with
  | .running => true
  | .ramping => true
  | .ending _ => true
  | _ => false

/-- The receive half that MIX consumes at a landing: `P` frames of 64 words, concealed when it is missing (R402). -/
def sapRxTake (d : Dev) (p : Nat) : Dev × List (List Int) :=
  let x := d.sapAt p
  if !dataPhase x then d.concRun (sapStream p 0) 64 (List.replicate d.perLen none)
  else if d.bypass p then
    let d := d.setSap p { x with rxLatch := none }
    match x.rxLatch with
    | some h => d.concRun (sapStream p 0) 64 (h.map some)
    | none => (d.sapXrun p (Adr.SAP_RX_UNDER_CNT p)).concRun (sapStream p 0) 64 (List.replicate d.perLen none)
  else if d.on (SAP_STATUS.CLK_OK p) && d.on (SAP_STATUS.ASRC_LOCK p) then
    let (d, l) := d.freeFrames (d.rxMask p) d.perLen
    d.concRun (sapStream p 0) 64 (l.map some)
  else (d.sapXrun p (Adr.SAP_RX_UNDER_CNT p)).concRun (sapStream p 0) 64 (List.replicate d.perLen none)

/-- MIX hands over a transmit half at a landing: 64 words per frame (R402). Through the ASRC a half is taken while it is locked. -/
def sapTxGive (d : Dev) (p : Nat) (h : List (List Int)) : Dev :=
  let x := d.sapAt p
  match x.phase with
  | .running =>
    if !d.bypass p && d.on (SAP_STATUS.CLK_OK p) && d.on (SAP_STATUS.ASRC_LOCK p) then
      let (d, l) := d.concRun (sapStream p 1) 64 (h.map some)
      d.setSap p { d.sapAt p with txCur := l, txHalf := none }
    else if x.txHalf.isSome then d.sapXrun p (Adr.SAP_TX_OVER_CNT p)
    else d.setSap p { x with txHalf := some h }
  | _ => d

/-- What newly copied values do to a port: slots newly enabled drive 0 until data; a change of owner begins its crossfade (R401, R541,
R544). -/
def sapCopy (d : Dev) (p : Nat) : Dev :=
  let x := d.sapAt p
  let new := d.txMask p &&& (2 ^ 64 - 1 - d.txMaskIn d.act1 p)
  let d := d.setSap p { x with newTx := new }
  if 2 ≤ p then d
  else
    let want := if d.on PCH_STATUS.FORCED then 0 else d.aget (PCH_SAFE_OWN.OWNER p)
    if d.get (PCH_SAFE_OWN.ACT p) = want then d
    else
      let d := (d.set (PCH_SAFE_OWN.ACT p) want).raise 234
      d.setSap p { d.sapAt p with fade := some ⟨want == 1, 0, d.periodFrames p⟩ }

/-- What a landing does to a port besides the halves: the waiting port runs, and its values have been copied (R403). -/
def sapLand (d : Dev) (p : Nat) : Dev :=
  let x := d.sapAt p
  let phase := match x.phase with
    | .waiting => .running
    | s => s
  (d.setSap p { x with phase := phase }).sapCopy p

/-! ### A port frame (R392, R401 to R405, R533, R541) -/

/-- MIX's words for the next frame: the half, its concealment, or through the ASRC free values. -/
def mixWords (d : Dev) (p : Nat) : Dev × List Int :=
  let x := d.sapAt p
  match x.phase with
  | .running =>
    if d.bypass p then
      match x.txCur, x.txHalf with
      | f :: t, _ => (d.setSap p { x with txCur := t }, f)
      | [], some h =>
        let (d, l) := d.concRun (sapStream p 1) 64 (h.map some)
        (d.setSap p { d.sapAt p with txCur := l.tail, txHalf := none }, l.headD silence)
      | [], none =>
        let d := d.sapXrun p (Adr.SAP_TX_UNDER_CNT p)
        let (d, l) := d.concRun (sapStream p 1) 64 (List.replicate d.perLen none)
        (d.setSap p { d.sapAt p with txCur := l.tail }, l.headD silence)
    else d.freeFrame (d.txMask p)
  | _ => (d, silence)

/-- A ramp's gain after its present frame. -/
def rampGain (r : DpRamp) : Int := if 32 ≤ r.n then r.g1 else r.g0 + roundDiv ((r.g1 - r.g0) * (r.n : Int)) 32

/-- Entry `n`'s gain in this frame: a changed target ramps over 32 frames (R405). -/
def dpStep (d : Dev) (p n : Nat) : Dev × Int :=
  let x := d.sapAt p
  let r := vat x.dp n
  let t : Int := if d.aget (SAP_DP_CFG.EN p n) != 0 then signedOf 32 (sget resetValue d.act (Adr.SAP_DP_GAIN p n)).toNat else 0
  let r : DpRamp := if r.g1 = t then { r with n := min 32 (r.n + 1) } else ⟨rampGain r, t, 1⟩
  (d.setSap p { x with dp := vput x.dp n r }, rampGain r)

/-- The sum of entry `n` into a frame, saturated, and the saturations (R404). -/
def dpAdd (d : Dev) (p n : Nat) (g : Int) (src : List Int) (w : List Int × Nat) : List Int × Nat :=
  let one := fun (w : List Int × Nat) (k : Nat) =>
    let s := d.aget (SAP_DP_CFG.SRC_SLOT p n) + k
    let t := d.aget (SAP_DP_CFG.DST_SLOT p n) + k
    if d.slots p ≤ s ∨ d.slots p ≤ t then w
    else
      let i := 32 * d.aget (SAP_DP_CFG.DST_LINE p n) + t
      let v := w.1.getD i 0 + roundShift (g * src.getD (32 * d.aget (SAP_DP_CFG.SRC_LINE p n) + s) 0) 27
      if bitOf (d.txMask p) i then (w.1.set i (satTo 32 v), w.2 + b2n (outside 32 v)) else w
  one (one w 0) 1

/-- The direct path: every entry in turn. -/
def directPath (d : Dev) (p : Nat) (src w : List Int) : Dev × List Int × Nat :=
  (List.range 8).foldl (fun (acc : Dev × List Int × Nat) n =>
    let (d, g) := acc.1.dpStep p n
    let w := if g = 0 then acc.2 else d.dpAdd p n g src acc.2
    (d, w)) (d, w, 0)

/-- PE's and MIX's words by the owner, with the crossfade of a handover (R533, R541). -/
def ownerWords (d : Dev) (p : Nat) (mixed : List Int) : Dev × List Int :=
  if 2 ≤ p then (d, mixed)
  else
    let x := d.sapAt p
    let safe := (List.range 64).map (fun i => x.pe.getD i 0)
    match x.fade with
    | none => (d, if d.on (PCH_SAFE_OWN.ACT p) then mixed else safe)
    | some f =>
      let old := if f.toMix then safe else mixed
      let new := if f.toMix then mixed else safe
      let w := (List.range 64).map (fun i =>
        roundDiv (((f.n - 1 - f.i : Nat) : Int) * old.getD i 0 + ((f.i + 1 : Nat) : Int) * new.getD i 0) f.n)
      (d.setSap p { x with fade := if f.i + 1 < f.n then some { f with i := f.i + 1 } else none }, w)

/-- A word as it is driven, A32 again, and whether it saturated (R392). -/
def drive (bits : Nat) (a : Int) : Int × Bool :=
  let q := roundShift a (32 - bits)
  (satTo bits q * ((2 ^ (32 - bits) : Nat) : Int), outside bits q)

/-- The transmit words of this frame before they are driven, and the direct path's saturations. -/
def txWords (d : Dev) (p : Nat) : Dev × List Int × Nat :=
  let x := d.sapAt p
  match x.phase with
  | .silent n => (d.setSap p { x with phase := .silent (n - 1) }, silence, 0)
  | .ending n => (d.setSap p { x with phase := .ending (n - 1) }, silence, 0)
  | .ramping =>
    match x.txCur with
    | [] => (d.setSap p { x with phase := .ending (d.startFrames p - 1) }, silence, 0)
    | f :: t => (d.setSap p { x with txCur := t }, f, 0)
  | .stopped => (d, silence, 0)
  | _ =>
    let (d, m) := d.mixWords p
    let (d, w) := d.ownerWords p m
    let w := (List.range 64).map (fun i => if bitOf x.newTx i then 0 else w.getD i 0)
    d.directPath p x.rxPrev w

/-- A port frame is received and transmitted; `rx` holds the received words, WORD_BITS wide, line 0 then line 1. -/
def sapFrame (d : Dev) (p : Nat) (rx : List (BitVec 32)) : Dev :=
  if !d.sapOn p || !d.on (SAP_STATUS.RUNNING p) then d
  else
    let bits := d.wordBits p
    let raw := (List.range 64).map (fun i => if i % 32 < d.slots p then
      signedOf 32 (2 ^ (32 - bits) * ((rx.getD i 0).toNat % 2 ^ bits)) else 0)
    let d := (d.set (SAP_STATUS.CLK_OK p) 1).sapLevel
    let (d, w, sat) := d.txWords p
    let out := w.map (drive bits)
    let mask := d.txMask p
    let sats := sat + ((List.range 64).filter (fun i => bitOf mask i && (out.getD i (0, false)).2)).length
    let d := (d.bumpBy (Adr.SAP_TX_SAT_CNT p) sats).pmc (16 * 21 + 9) sats
    let d := d.setSap p { d.sapAt p with
      out := (List.range 64).map (fun i => if bitOf mask i then (out.getD i (0, false)).1 else 0)
      driven := mask
      rxPrev := raw }
    if dataPhase (d.sapAt p) && d.bypass p then
      d.rxHalfPut p ((List.range 64).map (fun i => if bitOf (d.rxMask p) i then raw.getD i 0 else 0))
    else d

/-- The porch forces the safe path: a port whose active owner is MIX returns to PE over 48 frames (R543). -/
def forceSafe (d : Dev) (ports : List Nat) : Dev :=
  let d := (ports.filter (fun p => d.on (PCH_SAFE_OWN.ACT p))).foldl (fun d p =>
    (d.set (PCH_SAFE_OWN.ACT p) 0).setSap p { d.sapAt p with fade := some ⟨false, 0, 48⟩ }) d
  (d.set PCH_STATUS.FORCED 1).raise 225

end Dev
end Sys2Proof.Machine
end

