-- ==== Sys2Proof/Machine/Mix.lean ====
section
/-! DEFINITION. Sys2Proof/Machine/Mix.lean: the router, the delay line, gain stages, meters, tone generators, capture (R407 to R424). -/
namespace Sys2Proof.Machine

/-- MIX's requester number in the ECC log (R448). -/
abbrev reqMix : Nat := 24

/-- Whether a source code is reserved (R407). -/
def srcReserved (s : Nat) : Bool := decide (0xD10 ≤ s) && decide (s < 0xFFF)
/-- Whether a source code names a tone generator, a render output. -/
def srcTone (s : Nat) : Bool := decide (0xA00 ≤ s) && decide (s < 0xA10)
def srcRender (s : Nat) : Bool := decide (0xA10 ≤ s) && decide (s < 0xD10)

/-- round(2^27 × 10^(k/200)) for code `k` (R415): the largest `g` with (2g − 1)^200 ≤ (2^28)^200 × 10^k, bit by bit. -/
def gainBits (k : Int) : Nat → Nat → Nat
  | 0, g => g
  | n + 1, g =>
    let t := g + 2 ^ n
    let l := (2 * t - 1) ^ 200
    let r := 2 ^ 5600
    if (if 0 ≤ k then decide (l ≤ r * 10 ^ k.toNat) else decide (l * 10 ^ (-k).toNat ≤ r)) then gainBits k n t
    else gainBits k n g
def gainFactor (k : Int) : Int := (gainBits k 31 0 : Nat)

namespace Dev

/-- Periods from the landing that releases a block to the one at which it launches (R19): 3, 1 more in fault-tolerant mode and 1 more in
a gang. -/
def launchLag (d : Dev) : Nat :=
  3 + b2n (d.on LND_CTRL.MODE) + b2n (d.aget GANG_CTRL.EN != 0 && !d.on GANG_CFG.MODE)

/-- MIX is active. -/
def mixRun (d : Dev) : Bool := d.on MIX_STATUS.RUNNING && !bitOf (d.get RST_MISC.MISC) 2

/-! ### Bank checks (R413) -/

/-- The first check of R413 that a bank's shadow fails: the code and the index. -/
def mixCheck (d : Dev) (bank : Nat) : Option (Nat × Nat) :=
  let find := fun (code n : Nat) (f : Nat → Bool) => ((List.range n).find? f).map (fun i => (code, i))
  match bank with
  | 34 =>
    (find 1 3840 (fun s => srcReserved (d.get (MIX_ROUTE.SRC s)))).orElse (fun _ =>
      find 2 1024 (fun s => srcRender (d.get (MIX_ROUTE.SRC s))))
  | 35 => find 3 1280 (fun j =>
      let g := signedOf 12 (d.get (MIX_GAIN.GAIN j))
      decide (g < -1200) || decide (240 < g))
  | 36 =>
    let meters := (List.range 4).filter (fun c => d.on (MIX_CAP_CFG.EN c) && d.on (MIX_CAP_CFG.KIND c))
    let hi := 16 * min 40000 (45 * d.fs / 100)
    let bad := fun (f : Nat) => decide (f < 160) || decide (hi < f)
    match meters with
    | _ :: c :: _ => some (4, c)
    | _ =>
      (find 5 16 (fun t => d.get (MIX_TG_CFG.WAVE t) != 0
        && (bad (d.get (MIX_TG_FREQ.FREQ t)) || bad (d.get (MIX_TG_FREQ2.FREQ t))
          || (d.get (MIX_TG_CFG.WAVE t) == 4 && (d.get (MIX_TG_FREQ.FREQ t) == d.get (MIX_TG_FREQ2.FREQ t)
            || decide (d.get (MIX_TG_SWEEP.MS t) < 100)))))).orElse (fun _ =>
        find 6 16 (fun t => decide (6 ≤ d.get (MIX_TG_CFG.WAVE t))))
  | _ => none

/-- MIX refuses a bank whose shadow fails a check: true where it may land. -/
def mixAccepts (d : Dev) (bank : Nat) : Dev × Bool :=
  match d.mixCheck bank with
  | none => (d, true)
  | some (code, i) =>
    let d := ((d.set MIX_VERR.BANK (bank - 34)).set MIX_VERR.INDEX i).set MIX_VERR.CODE code
    ((d.set MIX_STATUS.CFG_BAD 1).raise 162, false)

/-! ### Tone generators (R421, R422) -/

/-- A generator's fields under a read of registers. -/
def toneSettings (g : Fld → Nat) (t : Nat) : List Nat :=
  [g (MIX_TG_CFG.WAVE t), g (MIX_TG_CFG.ID_M1 t), g (MIX_TG_FREQ.FREQ t), g (MIX_TG_FREQ2.FREQ t), g ⟨Adr.MIX_TG_LEVEL t, 0, 11⟩,
    g ⟨Adr.MIX_TG_SWEEP t, 0, 16⟩]

/-- Whether an identification generator with `n` bursts is silent at a sample: between bursts, and in the pause (R421). -/
def idSilent (fs n s : Nat) : Bool :=
  let u := 1000 * s / fs % (100 * n + 1000)
  decide (100 * n ≤ u) || decide (50 ≤ u % 100)

/-- Generator `t`'s sample at render sample `x`: off is 0, identification is silent between its bursts; the rest is Config.tone. -/
def toneAt (d : Dev) (g : Fld → Nat) (t x : Nat) : Int :=
  let l := toneSettings g t
  let n := x - sget (fun _ => 0) d.mix.tg t
  match g (MIX_TG_CFG.WAVE t) with
  | 0 => 0
  | 5 => if idSilent d.fs (g (MIX_TG_CFG.ID_M1 t) + 1) n then 0 else satTo 32 (Config.tone (d.fs :: l) n)
  | _ => satTo 32 (Config.tone (d.fs :: l) n)

/-- A generator restarts at each landing that changes any of its fields (R422). -/
def toneLand (d : Dev) (x : Nat) : Dev :=
  (List.range 16).foldl (fun d t =>
    if toneSettings d.aget t = toneSettings d.aget1 t then d
    else { d with mix := { d.mix with tg := sset (fun _ => 0) d.mix.tg t x } }) d

/-! ### Routes (R408, R412) -/

/-- The samples of a sink over one block: the new source, crossfaded from the old one unless HARD (R412). -/
def routed (d : Dev) (val : Nat → Nat → Int) (old new : Nat) (hard : Bool) : List Int :=
  let per := d.perLen
  (List.range per).map (fun i =>
    if old = new ∨ hard = true then val new i
    else satTo 32 (roundDiv (((per - 1 - i : Nat) : Int) * val old i + ((i + 1 : Nat) : Int) * val new i) per))

/-! ### Gain stages (R415 to R417) -/

def gainAt (d : Dev) (j : Nat) : GainStage := sget (fun _ => (⟨0, 0, 0⟩ : GainStage)) d.mix.gains j
def setGain (d : Dev) (j : Nat) (x : GainStage) : Dev :=
  { d with mix := { d.mix with gains := sset (fun _ => (⟨0, 0, 0⟩ : GainStage)) d.mix.gains j x } }

/-- The landed target of stage `j`. -/
def gainTarget (d : Dev) (j : Nat) : Int := signedOf 12 (d.aget (MIX_GAIN.GAIN j))

/-- TIMEOUT_MS in samples: 0 means 64 ms. -/
def gainTimeout (d : Dev) : Nat :=
  (if d.aget MIX_GAIN_CFG.TIMEOUT_MS = 0 then 64 else d.aget MIX_GAIN_CFG.TIMEOUT_MS) * d.fs / 1000

/-- A code one step nearer to its target: at most 0.5 dB. -/
def stepCode (c t : Int) : Int := if c < t then c + min 5 (t - c) else c - min 5 (c - t)

/-- GAIN_ACT shows the stage. -/
def gainShow (d : Dev) (j : Nat) : Dev :=
  let x := d.gainAt j
  let d := d.set (MIX_GAIN_ACT.GAIN j) (unsignedOf 12 x.code)
  (d.set (MIX_GAIN_ACT.MUTE j) (d.aget (MIX_GAIN.MUTE j))).set (MIX_GAIN_ACT.STEPPING j) (b2n (x.code != d.gainTarget j))

/-- No zero crossing for TIMEOUT_MS: the stage steps (R416). -/
def gainTimeoutStep (d : Dev) (j : Nat) : Dev :=
  let x := d.gainAt j
  if x.code = d.gainTarget j ∨ x.timer < d.gainTimeout then d
  else
    let d := (d.pmc (16 * 21 + 11) 1).pmc (16 * 21 + 12) 1
    (d.setGain j { x with code := stepCode x.code (d.gainTarget j), timer := 0 }).gainShow j

/-- One sample through a stage: a step at a zero crossing or a timeout, the factor, the mute. The outputs are gathered. -/
structure GainRun where
  st : GainStage
  out : List Int
  clips : Nat
  steps : Nat
  lapses : Nat

def gainSample (target : Int) (timeout : Nat) (mute : Bool) (r : GainRun) (x : Int) : GainRun :=
  let zc := x = 0 ∨ (0 < x ∧ r.st.last < 0) ∨ (x < 0 ∧ 0 < r.st.last)
  let due := timeout ≤ r.st.timer
  let move := r.st.code ≠ target ∧ (zc ∨ due)
  let c := if move then stepCode r.st.code target else r.st.code
  let y := roundShift (gainFactor c * x) 27
  { st := ⟨c, x, if move then 1 else r.st.timer + 1⟩
    out := r.out ++ [if mute then 0 else satTo 32 y]
    clips := r.clips + b2n (!mute && outside 32 y)
    steps := r.steps + b2n (decide move)
    lapses := r.lapses + b2n (decide (move ∧ ¬ zc)) }

/-- A clip of a gain stage or crossfade. -/
def clipped (d : Dev) (n : Nat) : Dev :=
  if n = 0 then d
  else (((d.bumpBy Adr.MIX_CLIP_CNT n).set MIX_STATUS.CLIP 1).raise 165).pmc (16 * 21 + 13) n

/-- A block through stage `j`. Samples of an idle stage with silent input are 0. -/
def gainBlock (d : Dev) (j : Nat) (l : List Int) : Dev × List Int :=
  let r := l.foldl (gainSample (d.gainTarget j) d.gainTimeout (d.aget (MIX_GAIN.MUTE j) != 0)) ⟨d.gainAt j, [], 0, 0, 0⟩
  let st := if r.st.code = d.gainTarget j then { r.st with timer := 0 } else r.st
  let d := (((d.setGain j st).clipped r.clips).pmc (16 * 21 + 11) r.steps).pmc (16 * 21 + 12) r.lapses
  (d.gainShow j, r.out)

/-! ### Meters (R418) -/

/-- First point of each group, and its points. -/
def meterBase (g : Nat) : Nat := [0, 1024, 1792, 2304].getD g 0
def meterSize (g : Nat) : Nat := [1024, 768, 512, 512].getD g 0

/-- The integer square root, bit by bit. -/
def isqrtBits (n : Nat) : Nat → Nat → Nat
  | 0, r => r
  | k + 1, r => if (r + 2 ^ k) * (r + 2 ^ k) ≤ n then isqrtBits n k (r + 2 ^ k) else isqrtBits n k r

/-- The square root of `a / b`, rounded to the nearest integer. -/
def rootOf (a b : Nat) : Nat := (isqrtBits (4 * a / b) 40 0 + 1) / 2

def meterAt (d : Dev) (i : Nat) : Meter := sget (fun _ => (⟨0, 0, [], 0, 0⟩ : Meter)) d.mix.meters i
def setMeter (d : Dev) (i : Nat) (x : Meter) : Dev :=
  { d with mix := { d.mix with meters := sset (fun _ => (⟨0, 0, [], 0, 0⟩ : Meter)) d.mix.meters i x } }

/-- A block of point `i` of group `g`. The true peak is a free value where the signal is not silent; HOLD falls by a free course. -/
def meterBlock (d : Dev) (g i : Nat) (l : List Int) : Dev :=
  let k := meterBase g + i
  let m := d.meterAt k
  let sum := l.foldl (fun s x => s + x.natAbs * x.natAbs) 0
  if sum = 0 ∧ m = ⟨0, 0, [], 0, 0⟩ then d
  else
    let quiet := sum = 0 ∧ m.rms.headD 0 = 0
    let f := d.fresh
    let t := if quiet then 0 else Config.free f % 2 ^ 32
    let rms := (sum :: m.rms).take 16384
    let keep := d.aget (MIX_METER_CFG.HOLD_MS g) * d.fs / 1000
    let age := if m.hold < t then 0 else m.age + d.perLen
    let falls := keep < age ∧ d.aget (MIX_METER_CFG.DECAY g) ≠ 0 ∧ m.hold ≠ 0 ∧ ¬ m.hold < t
    let hold := if m.hold < t then t else if falls then max t (Config.free (f + 1) % (m.hold + 1)) else m.hold
    let d : Dev := { d with fresh := f + 2 }
    let spk := l.foldl (fun s x => max s x.natAbs) m.spk
    d.setMeter k ⟨spk, max m.tpk t, if rms.all (fun s => s == 0) then [] else rms, hold, if hold = 0 then 0 else age⟩

/-- RMS of a point over the last 2^RMS_LOG2 periods. -/
def meterRms (d : Dev) (g : Nat) (m : Meter) : Nat :=
  let n := 2 ^ min 14 (d.aget (MIX_METER_CFG.RMS_LOG2 g))
  rootOf ((m.rms.take n).foldl (· + ·) 0) (n * d.perLen)

/-! ### The input side (R409, R411) -/

/-- The samples of line `i` of block `b`, from the flows' and the ports' samples. -/
def lineOf (d : Dev) (flows : List (Nat × List Int)) (ports : List (List (List Int))) (i : Nat) : List Int :=
  if i < 2048 then ((flows.find? (fun f => f.1 == i)).map (fun f => f.2)).getD (List.replicate d.perLen 0)
  else (ports.getD ((i - 2048) / 64) []).map (fun f => f.getD ((i - 2048) % 64) 0)

/-- The address of line `i` of block `b` in the delay line (R411). -/
def delayAddr (d : Dev) (b i : Nat) : Nat := 0x100000 * d.get MIX_DELAY_BASE.BASE + (2560 * (b % 12) + i) * (4 * d.perLen)

/-- A run of A32 words as bytes. -/
def wordBytes (l : List Int) : List Byte := l.flatMap (fun x => bytesOf 4 (unsignedOf 32 x))
/-- A32 words from bytes. -/
def bytesWords (n : Nat) (l : List Byte) : List Int := (List.range n).map (fun i => signedOf 32 (ofBytes (slice l (4 * i) 4)))

/-- MIX forms input-side block `b` with the routes of the period before the landing: the delay line, the input staging, meters. -/
def mixInput (d : Dev) (b : Nat) (flows : List (Nat × List Int)) (ports : List (List (List Int))) : Dev :=
  let lines := (List.range 2560).map (d.lineOf flows ports)
  let d := ((List.range 2560).zip lines).foldl (fun d x => d.memPut reqMix (d.delayAddr b x.1) (wordBytes x.2)) d
  let d := (List.range 512).foldl (fun d c => d.meterBlock 2 c (lines.getD (2048 + c) [])) d
  let d0 := d
  let val := fun (s i : Nat) =>
    if s < 0xA00 then (lines.getD s []).getD i 0 else if srcTone s then d0.toneAt d0.aget1 (s - 0xA00) (b * d0.perLen + i) else 0
  let d := (List.range 1024).foldl (fun d o =>
    let l := d.routed val (d.aget2 (MIX_ROUTE.SRC o)) (d.aget1 (MIX_ROUTE.SRC o)) (d.aget1 (MIX_ROUTE.HARD o) != 0)
    let a := 0x100000 * d.get MIX_INSTAGE_BASE.BASE + (1024 * (b % 4) + o) * (4 * d.perLen)
    (d.memPut reqMix a (wordBytes l)).meterBlock 0 o l) d
  { d with
    mix := { d.mix with dirty := (d.mix.dirty ++ [(b, d.fe.mark)]).drop (d.mix.dirty.length + 1 - 12) }
    fe := { d.fe with mark := [] } }

/-! ### The output side (R410, R414) -/

/-- The phase-B outputs of slot `k` for block `b`: zeros outside MIX_OUT_SLOTS, the staging where the slot marked it, or concealment. -/
def outSlot (d : Dev) (b k : Nat) : Dev × List (List Int) :=
  let per := d.perLen
  if !bitOf (d.aget MIX_OUT_SLOTS.SLOTS) k then (d, List.replicate 48 (List.replicate per 0))
  else
    let base := 0x200000 * d.get MIX_OUTSTAGE_BASE.BASE
    let (d, data) :=
      if d.mix.marks.contains (k, b % 65536) then
        let r := (List.range 48).foldl (fun (acc : Dev × List (List Int)) y =>
          let (d, l) := acc.1.memRead0 reqMix (base + (768 * (b % 8) + 48 * k + y) * (4 * per)) (4 * per)
          (d, acc.2 ++ [bytesWords per l])) (d, [])
        (r.1, (List.range per).map (fun i => some (r.2.map (fun l => l.getD i 0))))
      else ((d.raise 164).pmc (16 * 21 + 14) 1, List.replicate per none)
    let (d, out) := d.concRun (outStream k) 48 data
    (d, (List.range 48).map (fun y => out.map (fun f => f.getD y 0)))

/-- The render outputs of block `b` after their gain stages, metered. -/
def renderOutputs (d : Dev) (b : Nat) : Dev × List (List Int) :=
  let r := (List.range 16).foldl (fun (acc : Dev × List (List Int)) k =>
    let (d, l) := acc.1.outSlot b k
    (d, acc.2 ++ l)) (d, [])
  ((List.range 768).zip r.2).foldl (fun (acc : Dev × List (List Int)) x =>
    let (d, l) := acc.1.gainBlock x.1 x.2
    (d.meterBlock 1 x.1 l, acc.2 ++ [l])) (r.1, [])

/-- The lines of block `b` that output-side routes use, from the delay line. -/
def delayLines (d : Dev) (b : Nat) (used : List Nat) : Dev × List (Nat × List Int) :=
  used.foldl (fun (acc : Dev × List (Nat × List Int)) i =>
    let (d, l) := acc.1.memRead0 reqMix (acc.1.delayAddr b i) (4 * acc.1.perLen)
    (d, acc.2 ++ [(i, bytesWords acc.1.perLen l)])) (d, [])

/-- The sources of a sink before and after the latest landing. -/
def sinkSrcs (d : Dev) (s : Nat) : List Nat := [d.aget1 (MIX_ROUTE.SRC s), d.aget (MIX_ROUTE.SRC s)]

/-- Transmit channels of the flows that send. -/
def txChannels (d : Dev) : List Nat :=
  (d.fe.txf.flatMap (fun e => (List.range (d.txCh e.1)).map (fun c => d.aget (FE_TXF_SEQ.CH_BASE e.1) + c))).eraseDups

/-- The stream that feeds a source, if concealment can touch it. -/
def srcStreams (d : Dev) (s : Nat) : List Nat :=
  if s < 0x800 then ((List.range 512).filter (fun i => d.aget (FE_RXF_CFG.EN i) != 0
    && decide (d.aget (FE_RXF_LINK.CH_BASE i) ≤ s) && decide (s ≤ d.aget (FE_RXF_LINK.CH_BASE i) + d.aget (FE_RXF_CFG.CH_M1 i))))
  else if s < 0xA00 then [sapStream ((s - 0x800) / 64) 0]
  else if srcRender s then [outStream ((s - 0xA10) / 48)]
  else []

/-! ### Capture (R419, R420) -/

/-- A capture block: header and data. -/
def capBlock (kind c n per period seq : Nat) (conc rate : Bool) (data : List Byte) : List Byte :=
  bytesOf 4 0x4D495843 ++ bytesOf 1 1 ++ bytesOf 1 kind ++ bytesOf 1 c ++ [0] ++ bytesOf 2 n ++ bytesOf 2 per ++ [0, 0, 0, 0]
    ++ bytesOf 8 period ++ bytesOf 8 seq ++ bytesOf 1 (b2n conc + 2 * b2n rate) ++ List.replicate 31 0 ++ data

/-- A block is ready for HIF; SEQ counts it. -/
def capPut (d : Dev) (c : Nat) (l : List Byte) (period : Nat) : Dev :=
  let x := vat d.mix.cap c
  let d := d.pmc (16 * 21 + 15) 1
  { d with mix := { d.mix with
    cap := vput d.mix.cap c { x with seq := x.seq + 1, data := [], conc := false }
    capOut := d.mix.capOut ++ [(c, l, period)] } }

/-- An audio stream takes a period's samples; a full block goes out (KIND 0). -/
def capAudio (d : Dev) (c m : Nat) (sig : Nat → List Int) (conc : Bool) : Dev :=
  let ch := d.aget (MIX_CAP_CFG.CH_M1 c) + 1
  let n := d.aget (MIX_CAP_CFG.BLOCK_M1 c) + 1
  let x := vat d.mix.cap c
  let ls := (List.range ch).map (fun i => sig (3584 + 64 * c + i))
  let new := (List.range d.perLen).flatMap (fun i => ls.map (fun l => l.getD i 0))
  let first := if x.data.isEmpty then (m * d.perLen + 24) / d.perLen else x.first
  let x : CapState := { x with data := x.data ++ new, first := first, conc := x.conc || conc }
  let d : Dev := { d with mix := { d.mix with cap := vput d.mix.cap c x } }
  if x.data.length < n * d.perLen * ch then d
  else d.capPut c (capBlock 0 c ch (n * d.perLen) x.first (x.seq + 1) x.conc (d.on LND_CTRL.RATE) (wordBytes x.data)) x.first

/-- A snapshot of the meters of the enabled groups (KIND 1); it resets SPK and TPK. -/
def capMeters (d : Dev) (c m : Nat) : Dev :=
  let groups := (List.range 4).filter (fun g => bitOf (d.aget (MIX_CAP_CFG.GROUPS c)) g)
  let points := groups.flatMap (fun g => (List.range (meterSize g)).map (fun i => (g, meterBase g + i)))
  let data := points.flatMap (fun x =>
    let y := d.meterAt x.2
    bytesOf 4 y.spk ++ bytesOf 4 y.tpk ++ bytesOf 4 (d.meterRms x.1 y) ++ bytesOf 4 y.hold)
  let d := points.foldl (fun d x => d.setMeter x.2 { d.meterAt x.2 with spk := 0, tpk := 0 }) d
  let s := (vat d.mix.cap c).seq + 1
  d.capPut c (capBlock 1 c points.length 0 m s false (d.on LND_CTRL.RATE) data) m

/-- The capture streams at the landing of period `m`: a stream whose EN lands starts over. -/
def mixCapture (d : Dev) (m : Nat) (sig : Nat → List Int) (dirty : Nat → Bool) : Dev :=
  (List.range 4).foldl (fun d c =>
    if d.aget (MIX_CAP_CFG.EN c) = 0 then d
    else
      let d : Dev := if d.aget1 (MIX_CAP_CFG.EN c) != 0 then d
        else { d with mix := { d.mix with cap := vput d.mix.cap c ⟨0, [], 0, false⟩ } }
      if d.aget (MIX_CAP_CFG.KIND c) = 0 then
        d.capAudio c m sig ((List.range (d.aget (MIX_CAP_CFG.CH_M1 c) + 1)).any (fun i =>
          (d.sinkSrcs (3584 + 64 * c + i)).any dirty))
      else if m % (d.aget (MIX_CAP_INTERVAL.N_M1 c) + 1) = 0 then d.capMeters c m else d) d

/-- MIX processes the output-side block that launches in period `m` (R410): render outputs, transmit flow channels, port transmit
channels, capture. -/
def mixOutput (d : Dev) (m : Nat) : Dev :=
  let b := m - d.launchLag
  let per := d.perLen
  let (d, outs) := d.renderOutputs b
  let sinks := d.txChannels.map (· + 1024) ++ (List.range' 3072 768)
  let used := (sinks.flatMap d.sinkSrcs).eraseDups.filter (fun s => decide (s < 0xA00))
  let (d, lines) := d.delayLines b used
  let d0 := d
  let val := fun (s i : Nat) =>
    if s < 0xA00 then (((lines.find? (fun x => x.1 == s)).map (fun x => x.2)).getD []).getD i 0
    else if srcTone s then d0.toneAt d0.aget (s - 0xA00) (m * per + 24 + i)
    else if srcRender s then (outs.getD (s - 0xA10) []).getD i 0
    else 0
  let sig := fun (s : Nat) => d0.routed val (d0.aget1 (MIX_ROUTE.SRC s)) (d0.aget (MIX_ROUTE.SRC s)) (d0.aget (MIX_ROUTE.HARD s) != 0)
  let tx := d.txChannels.map (fun c => (m, c, sig (1024 + c)))
  let d : Dev := { d with mix := { d.mix with tx := d.mix.tx.filter (fun e => decide (m < e.1 + 48)) ++ tx } }
  let old := ((d.mix.dirty.find? (fun e => e.1 == b)).map (fun e => e.2)).getD []
  let mark := d.fe.mark ++ old
  let d : Dev := { d with fe := { d.fe with mark := [] } }
  let d := d.mixCapture m sig (fun s => (d0.srcStreams s).any (fun x => mark.contains x))
  let d := (List.range 8).foldl (fun d p =>
    let r := (List.range 64).foldl (fun (acc : Dev × List (List Int)) i =>
      let (d, l) := acc.1.gainBlock (768 + 64 * p + i) (sig (3072 + 64 * p + i))
      (d.meterBlock 3 (64 * p + i) l, acc.2 ++ [l])) (d, [])
    r.1.sapTxGive p ((List.range per).map (fun s => r.2.map (fun l => l.getD s 0)))) d
  { d with mix := { d.mix with marks := d.mix.marks.filter (fun x => decide (32768 ≤ (b % 65536 + 65536 - x.2) % 65536)) } }

/-- The targets that land: a stage that was at its old target starts its timer (R416). -/
def gainLand (d : Dev) : Dev :=
  (List.range 1280).foldl (fun d j =>
    if d.aget (MIX_GAIN.GAIN j) = d.aget1 (MIX_GAIN.GAIN j) ∧ d.aget (MIX_GAIN.MUTE j) = d.aget1 (MIX_GAIN.MUTE j) then d
    else
      let x := d.gainAt j
      let d := if x.code = signedOf 12 (d.aget1 (MIX_GAIN.GAIN j)) then d.setGain j { x with timer := 0 } else d
      d.gainShow j) d

/-- MIX at the landing of period `m`. -/
def mixLanding (d : Dev) (m : Nat) (flows : List (Nat × List Int)) (ports : List (List (List Int))) : Dev :=
  if !d.mixRun then d.gainLand.toneLand (m * d.perLen)
  else
    let d := d.mixInput (m - 1) flows ports
    let fades := ((List.range 3840).filter (fun s => d.aget (MIX_ROUTE.SRC s) != d.aget1 (MIX_ROUTE.SRC s)
      && d.aget (MIX_ROUTE.HARD s) == 0)).length
    let d := d.pmc (16 * 21 + 10) fades
    ((d.gainLand).toneLand (m * d.perLen)).mixOutput m

/-! ### MIX_OUTRDY (R414) -/

/-- A slot's block is complete in the output staging; a block that has launched is discarded. -/
def outRdy (d : Dev) (slot block : Nat) : Dev :=
  let b := d.period - d.launchLag
  if (b % 65536 + 65536 - block % 65536) % 65536 < 32768 then (d.bump Adr.MIX_LATE_CNT).set MIX_STATUS.OUT_LATE 1
  else if d.mix.marks.contains (slot, block % 65536) then d
  else { d with mix := { d.mix with marks := d.mix.marks ++ [(slot, block % 65536)] } }

/-- The block reset of MIX: routes, gains and meters return to reset values (R513), and its banks too (R45). -/
def mixReset (d : Dev) : Dev :=
  let mine := fun (a : Nat) => decide (Adr.MIX_CTRL ≤ a) && decide (a < Adr.MIX_CTRL + 0x10000)
  let keep := fun (a : Nat) => [Adr.MIX_CTRL, Adr.MIX_STATUS, Adr.MIX_INSTAGE_BASE, Adr.MIX_OUTSTAGE_BASE, Adr.MIX_DELAY_BASE,
    Adr.MIX_VERR, Adr.MIX_LATE_CNT, Adr.MIX_PRIV_CNT, Adr.MIX_CLIP_CNT].contains a
  { d with
    regs := d.regs.filter (fun x => !mine x.1 || keep x.1)
    act := d.act.filter (fun x => !mine x.1)
    act1 := d.act1.filter (fun x => !mine x.1)
    act2 := d.act2.filter (fun x => !mine x.1)
    mix := { MixState.reset with tx := d.mix.tx } }

end Dev
end Sys2Proof.Machine
end

