-- ==== Sys2Proof/Machine/Gang.lean ====
section
/-! DEFINITION. Sys2Proof/Machine/Gang.lean: GANG: settings, Lortis frames, release of gang sums, digests (R238 to R260). -/
namespace Sys2Proof.Machine

/-- GANG's requester number in the ECC log (R448). -/
abbrev reqGang : Nat := 27

namespace Dev

/-! ### Settings (R240 to R243) -/

/-- Members of the gang. -/
def gangSize (d : Dev) : Nat := d.get GANG_CFG.SIZE_M1 + 1
/-- This member's index. -/
def gangIx (d : Dev) : Nat := d.get GANG_CFG.INDEX
/-- The other members, in ascending order. -/
def peers (d : Dev) : List Nat := (List.range d.gangSize).filter (· != d.gangIx)

/-- The share table that follows R242: the first output each member must have, and the counts' sum. -/
def sharesFrom (d : Dev) : Nat → Nat → Bool
  | 0, first => decide (first ≤ 768)
  | n + 1, first =>
    let i := d.gangSize - (n + 1)
    let c := d.get (GANG_SHARE.COUNT i)
    decide (d.get (GANG_SHARE.FIRST i) = first ∧ c % 48 = 0) && sharesFrom d n (first + c)

/-- R243: whether the shadow of B48 and the setup-only fields pass the checks. -/
def gangOk (d : Dev) : Bool :=
  let en := d.on GANG_CTRL.EN
  let mirror := d.on GANG_CFG.MODE
  decide (1 ≤ d.get GANG_CFG.SIZE_M1)
    && (mirror || !en || d.sharesFrom d.gangSize 0)
    && (!mirror || d.get GANG_CFG.SIZE_M1 == 1)
    && decide (d.get GANG_CFG.INDEX ≤ d.get GANG_CFG.SIZE_M1)
    && (!en || (popCount 4 (d.get GANG_NET.PORT_MASK) == 1 || popCount 4 (d.get GANG_NET.PORT_MASK) == 2))

/-- The check of B48 when it is due, or copied at once: CFG_BAD and event 248 where it fails. -/
def gangAccepts (d : Dev) : Dev × Bool :=
  if d.gangOk then (d, true) else ((d.set GANG_STATUS.CFG_BAD 1).raise 248, false)

/-- GANG counts as stopped (R240). -/
def gangStopped (d : Dev) : Bool := d.aget GANG_CTRL.EN == 0 && d.gang.blocks.isEmpty

/-- Event 247 is raised while a peer is down (R252). -/
def gangLevel (d : Dev) : Dev :=
  d.level 247 (d.on GANG_STATUS.ACTIVE && d.peers.any (fun i => !bitOf (d.get GANG_PEER_UP.UP) i))

/-- B48 has landed: ACTIVE follows EN; at enable every peer counts as up (R252). -/
def gangLand (d : Dev) : Dev :=
  let now := d.aget GANG_CTRL.EN != 0
  if now == d.on GANG_STATUS.ACTIVE then d
  else
    let d := d.set GANG_STATUS.ACTIVE (b2n now)
    let d := d.set GANG_PEER_UP.UP (if now then 2 ^ d.gangSize - 1 else 0)
    let d : Dev := { d with gang := { d.gang with silent := [] } }
    d.gangLevel

/-! ### Lortis frames (R246 to R248) -/

/-- Bytes per value of a PARTIAL payload (R247). -/
def gangBpv (fmt : Nat) : Nat := if fmt = 0 then 6 else 9

/-- A Lortis frame to member `peer` on port `p`, without FCS (R246). -/
def lortisFrame (d : Dev) (p peer typ b seg total first count fmt flags : Nat) (pay : List Byte) : List Byte :=
  netOf 6 (d.get64 (Adr.GANG_PEER_MAC_LO peer) % 2 ^ 48) ++ netOf 6 (d.macAddr p) ++ netOf 2 0x8100
    ++ netOf 2 (2 ^ 13 * d.get GANG_NET.PCP + d.get GANG_VLAN.VID) ++ netOf 2 (d.get GANG_NET.ETHERTYPE)
    ++ netOf 1 1 ++ netOf 1 typ ++ netOf 2 (d.get GANG_CFG.GANG_ID) ++ netOf 1 d.gangIx ++ netOf 1 peer ++ netOf 6 b
    ++ netOf 1 seg ++ netOf 1 total ++ netOf 2 first ++ netOf 2 count ++ netOf 1 fmt ++ netOf 1 d.perLen
    ++ netOf 2 pay.length ++ netOf 1 flags ++ List.replicate 5 0 ++ netOf 4 (crc32c pay) ++ pay

/-- The lowest-numbered enabled Lortis transmit queue of port `p` (R331). -/
def lortisQueue (d : Dev) (p : Nat) : Option Nat :=
  (List.range 32).find? (fun q => d.on (MAC_TXQ_CFG.EN p q) && d.get (MAC_TXQ_CFG.KIND p q) == 3)

/-- Hand a Lortis frame to port `p`; a port without a Lortis queue sends none. -/
def lortisSend (d : Dev) (p : Nat) (l : List Byte) : Dev :=
  match d.lortisQueue p with
  | none => d
  | some q => ((d.bump Adr.GANG_TX_CNT).pmc 14 1).txSubmit p q 3 ⟨l, .gang, false, none, false⟩

/-- The ports that Lortis frames are sent on. -/
def gangPorts (d : Dev) : List Nat := bitList 4 (d.get GANG_NET.PORT_MASK)

/-- Segments of `c` outputs each that cover `n` outputs: number, offset, outputs (R248). -/
def segments (c n : Nat) : List (Nat × Nat × Nat) :=
  (List.range ((n + c - 1) / c)).map (fun i => (i, c * i, min c (n - c * i)))

/-- One value of a PARTIAL payload (R247). -/
def partialValue (fmt : Nat) (v : Int) : List Byte := if fmt = 0 then netOf 6 (unsignedOf 48 (satTo 48 v)) else netOf 9 (unsignedOf 72 v)

/-- The segments of block `g` for `peer` on port `p`, in ascending order. -/
def partialTo (d : Dev) (p peer : Nat) (g : GangBlock) (sums : List (Nat × Int)) : Dev :=
  let fmt := d.gangGet g.b GANG_SEG.FORMAT
  let first := d.gangGet g.b (GANG_SHARE.FIRST peer)
  let n := d.gangGet g.b (GANG_SHARE.COUNT peer)
  let so := d.gangGet g.b GANG_SEG.SEG_OUTPUTS
  let c := min (if so = 0 then 8 else so) ((d.maxFrame p - 54) / (d.perLen * gangBpv fmt))
  let segs := segments c n
  segs.foldl (fun d (i, off, k) =>
    let pay := ((List.range k).flatMap (fun y => (List.range d.perLen).flatMap (fun s =>
      partialValue fmt (sget (fun _ => 0) sums (64 * (first + off + y) + s)))))
    d.lortisSend p (d.lortisFrame p peer 0 g.b i segs.length (first + off) k fmt (b2n g.part) pay)) d

/-- The values of a block that S48 saturates on the way to the peers (R247). -/
def saturated (d : Dev) (g : GangBlock) (sums : List (Nat × Int)) : Nat :=
  if d.gangGet g.b GANG_SEG.FORMAT = 1 then 0
  else
    (sums.filter (fun e => outside 48 e.2 && d.peers.any (fun i =>
      decide (d.gangGet g.b (GANG_SHARE.FIRST i) ≤ e.1 / 64)
        && decide (e.1 / 64 < d.gangGet g.b (GANG_SHARE.FIRST i) + d.gangGet g.b (GANG_SHARE.COUNT i))))).length

/-- The oldest block whose device sum is complete and unsent goes to the peers (R245, R248). -/
def partialSend (d : Dev) : Dev :=
  match d.gang.blocks.find? (fun g => g.sums.isSome && !g.sent) with
  | none => d
  | some g =>
    let sums := g.sums.getD []
    let sat := d.saturated g sums
    let d := if sat = 0 then d else (d.bumpBy Adr.GANG_SAT_CNT sat).set GANG_STATUS.SAT 1
    let d := d.gangPorts.foldl (fun d p => d.peers.foldl (fun d i => d.partialTo p i g sums) d) d
    { d with gang := { d.gang with blocks := d.gang.blocks.map (fun x => if x.b == g.b then { x with sent := true } else x) } }

/-! ### Receiving (R249, R250) -/

/-- The block that a frame's 48 bits name: the nearest to the period in progress. -/
def lortisBlock (d : Dev) (l : List Byte) : Nat := wrap64 ((d.period : Int) + signedOf 48 (unsignedOf 48 ((be l 24 6 : Int) - (d.period : Int))))

/-- The periods from a block to its last release landing, or to the end of the retention of its digests (R245, R254). -/
def gangLife (d : Dev) : Nat :=
  if d.on GANG_CFG.MODE then launchLag d + 16 else if d.tolerant then 4 else 3

/-- A dropped frame, counted at `cnt` (R249). -/
def gangDrop (d : Dev) (cnt : Nat) : Dev := ((d.bump cnt).set GANG_STATUS.RX_ERR 1).raise 249

/-- The segments that have been accepted for block `b`. -/
def gangSegs (d : Dev) (b : Nat) : List GangSeg :=
  if d.on GANG_CFG.MODE then (d.gang.digests.filter (fun g => g.b == b)).flatMap (fun g => g.segs)
  else (d.gang.blocks.filter (fun g => g.b == b)).flatMap (fun g => g.segs)

/-- Keep an accepted segment with its block. -/
def gangKeep (d : Dev) (b : Nat) (s : GangSeg) : Dev :=
  if d.on GANG_CFG.MODE then
    let l := if d.gang.digests.any (fun g => g.b == b) then
        d.gang.digests.map (fun g => if g.b == b then { g with segs := g.segs ++ [s] } else g)
      else d.gang.digests ++ [(⟨b, none, 0, [s]⟩ : DigestBlock)]
    { d with gang := { d.gang with digests := l } }
  else
    let l := if d.gang.blocks.any (fun g => g.b == b) then
        d.gang.blocks.map (fun g => if g.b == b then { g with segs := g.segs ++ [s] } else g)
      else d.gang.blocks ++ [(⟨b, none, false, [s], false⟩ : GangBlock)]
    { d with gang := { d.gang with blocks := l } }

/-- The values of a payload by output × 64 + sample (PARTIAL) or by output (DIGEST). -/
def lortisVals (d : Dev) (l : List Byte) (first count fmt : Nat) : List (Nat × Int) :=
  if fmt = 2 then (List.range count).map (fun y => (first + y, (be l (50 + 4 * y) 4 : Int)))
  else
    (List.range count).flatMap (fun y => (List.range d.perLen).map (fun s =>
      (64 * (first + y) + s, signedOf (8 * gangBpv fmt) (be l (50 + gangBpv fmt * (y * d.perLen + s)) (gangBpv fmt)))))

/-- GANG checks one received frame; the first failing check decides. -/
def lortisCheck (d : Dev) (l : List Byte) : Dev :=
  let mirror := d.on GANG_CFG.MODE
  let sender := be l 22 1
  let b := d.lortisBlock l
  let first := be l 32 2
  let count := be l 34 2
  let fmt := be l 36 1
  let len := be l 38 2
  let me := d.gangIx
  let segs := (d.gangSegs b).filter (fun s => s.sender == sender)
  if be l 18 1 ≠ 1 ∨ be l 19 1 ≠ b2n mirror ∨ be l 20 2 ≠ d.get GANG_CFG.GANG_ID ∨ be l 23 1 ≠ me ∨ d.peers.contains sender = false then
    d.gangDrop Adr.GANG_RXERR_CNT
  else if (slice l 50 len).length ≠ len ∨ be l 46 4 ≠ crc32c (slice l 50 len) then d.gangDrop (Adr.GANG_PEER_CRC_CNT sender)
  else if be l 37 1 ≠ d.perLen ∨
      (if mirror then fmt ≠ 2 ∨ len ≠ 4 * count ∨ 768 < first + count
        else fmt ≠ d.gangGet b GANG_SEG.FORMAT ∨ len ≠ count * d.perLen * gangBpv fmt ∨ first < d.gangGet b (GANG_SHARE.FIRST me)
          ∨ d.gangGet b (GANG_SHARE.FIRST me) + d.gangGet b (GANG_SHARE.COUNT me) < first + count) then
    d.gangDrop (Adr.GANG_PEER_FMT_CNT sender)
  else if b + d.gangLife ≤ d.period ∨ (mirror = false ∧ d.gang.released.contains b = true) then
    (d.gangDrop (Adr.GANG_PEER_LATE_CNT sender)).set GANG_STATUS.LATE 1
  else if d.period + 1 < b then d.gangDrop (Adr.GANG_PEER_FMT_CNT sender)
  else if segs.any (fun s => s.seg == be l 30 1) ∨ (mirror = true ∧ d.gang.released.contains b = true) then d.bump (Adr.GANG_PEER_DUP_CNT sender)
  else if segs.any (fun s => decide (s.first < first + count) && decide (first < s.first + s.count)) then
    d.gangDrop (Adr.GANG_PEER_FMT_CNT sender)
  else
    let d := (d.bump (Adr.GANG_PEER_RX_CNT sender)).pmc 15 1
    d.gangKeep b ⟨sender, be l 30 1, be l 31 1, first, count, d.lortisVals l first count fmt, be l 40 1⟩

/-- The oldest Lortis frame that waits is checked. -/
def lortisReceive (d : Dev) : Dev :=
  match d.lortis with
  | [] => d
  | f :: t =>
    let d : Dev := { d with lortis := t }
    d.lortisCheck f.bytes

/-! ### Release (R245, R251, R252) -/

/-- EN as it was active in period `q`, of the last three (R241). -/
def gangEnIn (d : Dev) (q : Nat) : Bool :=
  if d.period ≤ q then d.aget GANG_CTRL.EN != 0
  else if d.period = q + 1 then d.aget1 GANG_CTRL.EN != 0
  else d.aget2 GANG_CTRL.EN != 0

/-- The segments of one peer. -/
def segsOf (g : GangBlock) (i : Nat) : List GangSeg := g.segs.filter (fun s => s.sender == i)

/-- An accepted segment of peer `i` covers output `y`. -/
def covered (g : GangBlock) (i y : Nat) : Bool :=
  (segsOf g i).any (fun s => decide (s.first ≤ y) && decide (y < s.first + s.count))

/-- The outputs of this member's share for block `b`. -/
def ownOutputs (d : Dev) (b : Nat) : List Nat :=
  (List.range (d.gangGet b (GANG_SHARE.COUNT d.gangIx))).map (fun i => d.gangGet b (GANG_SHARE.FIRST d.gangIx) + i)

/-- Every segment of peer `i` for the block has been accepted; a share without outputs needs none. -/
def allSegs (d : Dev) (g : GangBlock) (i : Nat) : Bool :=
  match segsOf g i with
  | [] => (d.ownOutputs g.b).isEmpty
  | s :: t => decide (s.total ≤ t.length + 1)

/-- Whether member `i` is up. -/
def peerUp (d : Dev) (i : Nat) : Bool := bitOf (d.get GANG_PEER_UP.UP) i

/-- Set whether member `i` is up. -/
def setPeer (d : Dev) (i : Nat) (up : Bool) : Dev := d.set GANG_PEER_UP.UP (withBits (d.get GANG_PEER_UP.UP) i 1 (b2n up))

/-- No up peer has left a gap. -/
def gangComplete (d : Dev) (g : GangBlock) : Bool :=
  g.sums.isSome && d.peers.all (fun i => !d.peerUp i || (d.ownOutputs g.b).all (fun y => covered g i y))

/-- A peer's silence after block `g`: PEER_TIMEOUT blocks take it down (R252). -/
def countSilence (d : Dev) (g : GangBlock) (i : Nat) : Dev :=
  if !(segsOf g i).isEmpty || (d.ownOutputs g.b).isEmpty then
    { d with gang := { d.gang with silent := serase d.gang.silent i } }
  else
    let n := sget (fun _ => 0) d.gang.silent i + 1
    let d : Dev := { d with gang := { d.gang with silent := sset (fun _ => 0) d.gang.silent i n } }
    if max 1 (d.gangGet g.b GANG_SEG.PEER_TIMEOUT) ≤ n then d.setPeer i false else d

/-- The sum of the device's own sums and the peers' of one block. -/
def gangSums (own : List (Nat × Int)) (l : List (Nat × Int)) : List (Nat × Int) :=
  l.foldl (fun m e => sset (fun _ => 0) m e.1 (sget (fun _ => 0) m e.1 + e.2)) own

/-- One output of the gang sum: concealed where it is missing, then written (R251, R244). -/
def gangOutput (d : Dev) (b y : Nat) (sums : List (Nat × Int)) (missing : Bool) : Dev × Nat :=
  let (vals, n) := d.narrowOut sums y
  let (d, out) := d.concRun (gangStream y) 1 (vals.map (fun v => if missing then none else some [v]))
  (d.rstagePut b y (out.map (fun l => l.getD 0 0)), n)

/-- Close the gang sum of a block. -/
def gangClose (d : Dev) (g : GangBlock) : Dev :=
  let back := d.peers.filter (fun i => !d.peerUp i && d.allSegs g i)
  let d := back.foldl (fun d i => d.setPeer i true) d
  let live := d.peers.filter d.peerUp
  let d := if live.length < d.peers.length then d.bump Adr.GANG_DOWN_CNT else d
  let ys := d.ownOutputs g.b
  let gaps := live.filter (fun i => ys.any (fun y => !covered g i y))
  let d := gaps.foldl (fun d i => d.bump (Adr.GANG_PEER_MISS_CNT i)) d
  let d := if gaps.isEmpty then d else (d.set GANG_STATUS.LOSS 1).raise 245
  let sums := gangSums (g.sums.getD []) (live.flatMap (fun i => (segsOf g i).flatMap (fun s => s.vals)))
  let (d, sat) := ys.foldl (fun (acc : Dev × Nat) y =>
    let (d, n) := acc.1.gangOutput g.b y sums (gaps.any (fun i => !covered g i y))
    (d, acc.2 + n)) (d, 0)
  let d := if sat = 0 then d else (((d.bumpBy Adr.HALL_OVF_CNT sat).set HALL_STATUS.OVF 1).raise 241).pmc 6 sat
  let d := d.peers.foldl (fun d i => d.countSilence g i) d
  ((d.set64 Adr.GANG_DONE_BLOCK_LO g.b).hallSignal g.b).gangLevel

/-- The release landing of block `g` has come, at the landing of period `m` (R245). -/
def releaseDue (d : Dev) (m : Nat) (g : GangBlock) : Bool :=
  decide (g.b + (if d.tolerant then 4 else 3) ≤ m) || (decide (g.b + 3 ≤ m) && d.gangComplete g)

/-- Blocks reach their release landing. A block that EN = 0 landed behind is not released (R258); neither is one that the hall never
summed. -/
def gangRelease (d : Dev) (m : Nat) : Dev :=
  (d.gang.blocks.filter (d.releaseDue m)).foldl (fun d g =>
    let d : Dev := { d with gang := { d.gang with blocks := d.gang.blocks.filter (fun x => x.b != g.b), released := (d.gang.released ++ [g.b]).drop (d.gang.released.length - 31) } }
    if d.gangEnIn (g.b + 2) && g.sums.isSome then d.gangClose g else d) d

/-! ### Digests (R253 to R255) -/

/-- A phase-B head task of block `b` was late, seen before the landing of period `m` re-arms its template (R246). -/
def headLate (d : Dev) (b m : Nat) : Bool :=
  d.tsk.insts.any (fun t => t.block == b && d.phaseOf (some t.tmpl) == 2 && (t.late || (!t.pend.isEmpty && (match t.dl with
    | some dl => decide (dl ≤ m)
    | none => false))))

/-- The digests of a block's outputs in the output staging. -/
def digestsOf (d : Dev) (b : Nat) : Dev × List Nat :=
  let base := 0x200000 * d.get MIX_OUTSTAGE_BASE.BASE
  (List.range 768).foldl (fun (acc : Dev × List Nat) y =>
    let (d, l) := acc.1.memRead0 reqGang (base + (768 * (b % 8) + y) * (4 * d.perLen)) (4 * d.perLen)
    (d, acc.2 ++ [crc32c l])) (d, [])

/-- Send a block's digests to the twin on port `p` (R254). -/
def digestTo (d : Dev) (p b flags : Nat) (own : List Nat) : Dev :=
  d.peers.foldl (fun d peer =>
    let segs := segments (min 256 ((d.maxFrame p - 54) / 4)) 768
    segs.foldl (fun d (i, off, k) =>
      d.lortisSend p (d.lortisFrame p peer 1 b i segs.length off k 2 flags (((own.drop off).take k).flatMap (fun v => netOf 4 v)))) d) d

/-- A block that is not compared (R254). -/
def digestMiss (d : Dev) : Dev := (d.bump Adr.GANG_DIGEST_MISS_CNT).set GANG_STATUS.DIGEST_MISS 1

/-- At the landing of period `m` the twin's digests of the block that it launches are computed and sent, and blocks whose retention
ends are given up. -/
def gangDigest (d : Dev) (m : Nat) : Dev :=
  let b := wrap64 ((m : Int) - (launchLag d : Int))
  if !d.on GANG_CFG.MODE then d
  else
    let d := if d.gangGet b GANG_CTRL.EN = 1 ∧ d.gangGet b GANG_CTRL.DIGEST_EN = 1 then
        let flags := 2 * b2n (d.headLate b m)
        let (d, own) := d.digestsOf b
        let l := if d.gang.digests.any (fun g => g.b == b) then
            d.gang.digests.map (fun g => if g.b == b then { g with own := some own, flags := flags } else g)
          else d.gang.digests ++ [(⟨b, some own, flags, []⟩ : DigestBlock)]
        let d : Dev := { d with gang := { d.gang with digests := l } }
        d.gangPorts.foldl (fun d p => d.digestTo p b flags own) d
      else d
    let old := d.gang.digests.filter (fun g => decide (g.b + launchLag d + 16 ≤ m))
    let d := (old.filter (fun g => g.own.isSome)).foldl (fun d _ => d.digestMiss) d
    { d with gang := { d.gang with digests := d.gang.digests.filter (fun g => decide (m < g.b + launchLag d + 16)) } }

/-- The twin's digest of output `y`, if it is there. -/
def twinDigest (g : DigestBlock) (y : Nat) : Option Nat :=
  ((g.segs.flatMap (fun s => s.vals)).find? (fun e => e.1 == y)).map (fun e => e.2.toNat)

/-- Both twins' digests of the block are present. -/
def digestReady (g : DigestBlock) : Bool := g.own.isSome && (List.range 768).all (fun y => (twinDigest g y).isSome)

/-- The oldest block with both twins' digests is compared (R254, R255). -/
def digestCompare (d : Dev) : Dev :=
  match d.gang.digests.find? digestReady with
  | none => d
  | some g =>
    let d : Dev := { d with gang := { d.gang with digests := d.gang.digests.filter (fun x => x.b != g.b), released := (d.gang.released ++ [g.b]).drop (d.gang.released.length - 31) } }
    if bitOf g.flags 1 || g.segs.any (fun s => bitOf s.flags 1) then d.digestMiss
    else
      let own := g.own.getD []
      match (List.range 768).filter (fun y => some (own.getD y 0) != twinDigest g y) with
      | [] => d
      | y :: t =>
        let d := d.bumpBy Adr.GANG_MISMATCH_CNT (t.length + 1)
        if d.on GANG_STATUS.MISMATCH then d
        else
          ((((d.set GANG_STATUS.MISMATCH 1).set64 Adr.GANG_MISMATCH_BLOCK_LO g.b).set GANG_MISMATCH_OUT.OUTPUT y)).raise 246

end Dev
end Sys2Proof.Machine
end

