-- ==== Sys2Proof/Machine/Och.lean ====
section
/-! DEFINITION. Sys2Proof/Machine/Och.lean: the output chain's records, active copies and filter sets (R197 to R207). -/
namespace Sys2Proof.Machine
namespace Dev

/-! ### Records of the phase-B library (R206, R207) -/

/-- A late level job of slot `k`. -/
def ochLateJob (d : Dev) (k : Nat) : Dev := (((d.bump (Adr.OCH_SLOT_JOBLATE_CNT k)).set OCH_STATUS.JOB_LATE 1).pmc 13 1).raise 243
/-- A late switch of slot `k`. -/
def ochLateSwitch (d : Dev) (k : Nat) : Dev := (((d.bump (Adr.OCH_SLOT_XFLATE_CNT k)).set OCH_STATUS.XF_LATE 1).pmc 13 1).raise 243
/-- FIR or biquad saturation of slot `k`. -/
def ochSat (d : Dev) (k : Nat) : Dev := (((d.bump (Adr.OCH_SLOT_SAT_CNT k)).set OCH_STATUS.SAT 1).pmc 13 1).raise 244
/-- A limiting period of slot `k`. -/
def ochLimit (d : Dev) (k : Nat) : Dev := ((d.bump (Adr.OCH_SLOT_LIMIT_CNT k)).set OCH_STATUS.LIMIT 1).pmc 13 1

/-- A write of OCH_RAISE by its WHAT. -/
def ochRaise (d : Dev) (k what : Nat) : Dev :=
  match what with
  | 0 => d.ochLateJob k
  | 1 => d.ochLateSwitch k
  | 2 => d.ochSat k
  | 3 => d.ochSat k
  | 4 => d.ochLimit k
  | _ => d

/-! ### Filter sets (R197 to R203) -/

/-- The address of set slot `s` of output `y` (R198). -/
def setSlotAddr (d : Dev) (y s : Nat) : Nat :=
  2 ^ 21 * (d.aget64 (Adr.OCH_SLOT_CBASE_LO (y / 48)) / 2 ^ 21) % 2 ^ 40 + 0x200000 * (y % 48) + 0x100000 * s

/-- LEVELS for a number of taps (R199). -/
def tapLevels (taps : Nat) : Nat :=
  if taps ≤ 512 then 0 else ((List.range 9).find? (fun j => decide (1 ≤ j ∧ taps ≤ 1024 * 2 ^ (j - 1)))).getD 8

/-- LENGTH for a number of levels (R199): level j has partitions of 128 × 2^j samples (R182). -/
def imageLength (levels : Nat) : Nat := 2112 + ((List.range levels).map (fun j => 16 * (256 * 2 ^ j))).foldl (· + ·) 0

/-- The largest partition size of a set of `levels` levels. -/
def largestPart (levels : Nat) : Nat := if levels = 0 then 0 else 128 * 2 ^ levels

/-- The active FSEL of output `y`. -/
def activeSel (d : Dev) (y : Nat) : Nat := d.aget (OCH_OUT.FSEL y)

/-- Set slot `s` of output `y` is in use: the active FSEL names it, or the hold time after it ceased to is running (R200, R203). -/
def setBusy (d : Dev) (y s : Nat) : Bool :=
  d.activeSel y == s || d.och.hold.any (fun h => h.1 == y && decide (d.period < h.2))

/-- FSEL of output `y` has changed with the landing of period `m`: the old set slot stays in use for XF_LEAD periods (R202, R203). -/
def ochHold (d : Dev) (m y : Nat) : Dev :=
  let lv := fun s => min 8 (d.byteAt (d.memKey (d.setSlotAddr y s + 12))).toNat
  let lead := 2 * max (largestPart (lv 0)) (largestPart (lv 1)) / d.perLen + 4
  { d with och := { d.och with hold := d.och.hold.filter (fun h => h.1 != y && decide (m < h.2)) ++ [(y, m + lead)] } }

/-- The banks that are landing change the FSEL of outputs. -/
def ochLand (d : Dev) (m : Nat) : Dev :=
  ((List.range 768).filter (fun y => d.aget (OCH_OUT.FSEL y) != d.aget1 (OCH_OUT.FSEL y))).foldl (fun d y => d.ochHold m y) d

/-- The status of one image, 0 where it is ready (R200); the image's length is that of its set slot at most. -/
def imageStatus (h rest : List Byte) (crc : Nat) (busy : Bool) : Nat :=
  let taps := ofBytes (slice h 8 4)
  let levels := ofBytes (slice h 12 1)
  let len := ofBytes (slice h 16 8)
  if ofBytes (slice h 0 4) ≠ 0x54455346 ∨ ofBytes (slice h 4 2) ≠ 1 ∨ ofBytes (slice h 6 2) ≠ 64 then 1
  else if 64 ≤ len ∧ len ≤ 0x100000 ∧ crc ≠ crc32c rest then 2
  else if taps = 0 ∨ 131072 < taps ∨ levels ≠ tapLevels taps ∨ len ≠ imageLength levels then 3
  else if busy then 4
  else 0

/-- Read and check the image of set slot `s` of output `y`; what it would load. A cellar error reads as zeros (R81). -/
def checkImage (d : Dev) (req y s : Nat) : Dev × Nat × Prepared :=
  let a := d.setSlotAddr y s
  let (d, h) := d.busRead0 req a 64
  let len := ofBytes (slice h 16 8)
  let (d, rest) := d.busRead0 req (a + 64) (min len 0x100000 - 64)
  (d, imageStatus h rest (ofBytes (slice h 24 4)) (d.setBusy y s),
    ⟨rest.take 2048, ofBytes (slice h 12 1), ofBytes (slice h 13 1), slice h 32 16⟩)

/-- Check the images of the outputs in order; the first that fails, or everything they load. -/
def checkImages (d : Dev) (req s : Nat) : List Nat → Dev × Except (Nat × Nat) (List (Nat × Prepared))
  | [] => (d, .ok [])
  | y :: t =>
    let (d, st, x) := d.checkImage req y s
    if st ≠ 0 then (d, .error (st, y))
    else
      match checkImages d req s t with
      | (d, .error e) => (d, .error e)
      | (d, .ok l) => (d, .ok ((2 * y + s, x) :: l))

/-- FILTER_PREPARE's work on its descriptor: STATUS and RESULT, the lowest failing y′ (R200). -/
def filterWork (d : Dev) (l : List Byte) : Dev × Nat × Nat :=
  let k := ofBytes (slice l 24 1) % 16
  let s := ofBytes (slice l 25 1) % 2
  let ys := (bitList 48 (ofBytes (slice l 32 6))).map (fun y => 48 * k + y)
  match d.checkImages (d.get ⟨Adr.TSK_SLOT_ENG (k / 4), 8 * (k % 4), 5⟩) s ys with
  | (d, .error (st, y)) => (d, st, y % 48)
  | (d, .ok l) =>
    ({ d with och := { d.och with prepared := l.foldl (fun m e => sput m e.1 e.2) d.och.prepared } }, 0, 0)

end Dev
end Sys2Proof.Machine
end

