-- ==== Sys2Proof/Machine/Lnd.lean ====
section
/-! DEFINITION. Sys2Proof/Machine/Lnd.lean: LND: the media clock, run control, arms, freeze points and the copies of banks (R25 to R46, R602, R603). -/
namespace Sys2Proof.Machine
namespace Dev

def setLnd (d : Dev) (x : LndState) : Dev := { d with lnd := x }

/-! ### The media clock (R25, R28, R31, R603) -/

/-- The time base that LND follows. -/
def tbSel (d : Dev) : Nat := d.get LND_CTRL.TB_SEL

/-- Event 6: LOCK is 0 while RUN is 1 (R59). -/
def mpllLevel (d : Dev) : Dev := d.level 6 (d.on LND_CTRL.RUN && !d.on LND_MPLL_STATUS.LOCK)

/-- The phase error of MEDIA against the time base, in 2^-32 ns. -/
def mediaErr (d : Dev) : Int := (d.lnd.media : Int) - ((d.tbAt d.tbSel).t : Int)

/-- `x` within `m` of 0. -/
def within0 (x m : Int) : Bool := decide (-m ≤ x) && decide (x ≤ m)

/-- LOCK holds while a tracking PLL is within 20 ns of the grid (R28); PHASE_ERR shows the error in ns. -/
def mediaShow (d : Dev) : Dev :=
  let ns := d.mediaErr / ((2 ^ 32 : Nat) : Int)
  let d := d.set LND_MPLL_STATUS.PHASE_ERR (unsignedOf 16 (satTo 16 ns))
  let d := if d.lnd.track then d.set LND_MPLL_STATUS.LOCK (b2n (within0 d.mediaErr ((20 * 2 ^ 32 : Nat) : Int))) else d
  d.mpllLevel

/-- MEDIA over `n` FABRIC ticks: it follows the time base's increment and slews back onto its grid by at most SLEW_PPM, or holds its
last frequency (R31, R603). -/
def mediaTicks (d : Dev) (n : Nat) : Dev :=
  let inc := if d.lnd.track then d.tbIncr d.tbSel else d.lnd.rate
  let d := d.setLnd { d.lnd with media := d.lnd.media + n * inc }
  let lim : Int := ((n * inc * max 1 (d.get LND_MPLL_CFG.SLEW_PPM) / 1000000 : Nat) : Int)
  let fix : Int := max (-lim) (min lim (-d.mediaErr))
  let d := if d.lnd.track then d.setLnd { d.lnd with media := ((d.lnd.media : Int) + fix).toNat } else d
  d.mediaShow

/-- The render sample of a MEDIA phase (R25). -/
def mediaSample (d : Dev) : Nat := d.lnd.media / 2 ^ 16 * d.fs / (1000000000 * 2 ^ 16)

/-- LND_SAMPLE while LND counts: the sample of MEDIA inside the period in progress. -/
def sampleShow (d : Dev) : Dev :=
  if !d.lnd.counting then d
  else
    let lo := d.period * d.perLen
    d.set64 Adr.LND_SAMPLE_LO (max lo (min (lo + d.perLen - 1) d.mediaSample))

/-- `n` FABRIC ticks pass: time bases, MEDIA and the sample count go on. -/
def elapse (d : Dev) (n : Nat) : Dev :=
  let d : Dev := { d with now := d.now + n }
  ((d.tbsTicks n).mediaTicks n).sampleShow

/-- The PLL reaches lock (R28, R603). While LND counts, an error beyond STEP_TOL stays for the resync (R31). -/
def mpllLock (d : Dev) : Dev :=
  let d := d.set LND_MPLL_STATUS.HOLDOVER 0
  let tol : Int := ((max 1 (d.get LND_CTRL.STEP_TOL) : Nat) : Int)
  let far := d.lnd.counting && !within0 ((d.mediaSample : Int) - (d.tbSample d.tbSel : Int)) tol
  let media := if far then d.lnd.media else (d.tbAt d.tbSel).t
  let d := d.setLnd { d.lnd with track := true, media := media }
  (d.set LND_MPLL_STATUS.LOCK 1).mpllLevel

/-- The PLL loses lock: MEDIA holds the frequency of its last control word, HOLDOVER is 1 and event 6 is raised (R31). -/
def mpllUnlock (d : Dev) : Dev :=
  let d := if d.lnd.track then d.setLnd { d.lnd with track := false, rate := d.tbIncr d.tbSel } else d
  (((d.set LND_MPLL_STATUS.LOCK 0).set LND_MPLL_STATUS.HOLDOVER 1).pmc 12 1).mpllLevel

/-! ### Banks (R32 to R35) -/

/-- Banks that exist; arming the others has no effect (R35). -/
abbrev bankCount : Nat := 49

/-- The values of `dst` with the fields of bank `b` taken from `src`. -/
def bankCopy (dst src : List (Nat × Word)) (b : Nat) : List (Nat × Word) :=
  ((dst ++ src).map (fun e => e.1)).foldl (fun m a =>
    let bits := BitVec.ofNat 32 (bankBits a b)
    sset resetValue m a ((sget resetValue m a &&& ~~~bits) ||| (sget resetValue src a &&& bits))) dst

/-- The owner's check of bank `b` (R176, R243, R370, R413). -/
def ownerAccepts (d : Dev) (b : Nat) : Dev × Bool :=
  if b = 32 then (if d.xbarOk then (d, true) else ((d.set HALL_STATUS.XBAR_BAD 1).raise 242, false))
  else if 34 ≤ b ∧ b ≤ 36 then d.mixAccepts b
  else if 37 ≤ b ∧ b ≤ 39 then d.feAccepts b
  else if b = 48 then d.gangAccepts
  else (d, true)

/-- Of the banks of a list, those that their owners accept. -/
def accepted (d : Dev) : List Nat → Dev × List Nat
  | [] => (d, [])
  | b :: t =>
    let (d, ok) := d.ownerAccepts b
    let (d, l) := accepted d t
    (d, if ok then b :: l else l)

/-- The mask of a list of banks. -/
def maskOf (l : List Nat) : Nat := l.foldl (fun m b => m ||| 2 ^ b) 0

/-- Copy banks from shadow to active (R40); the values of the two periods before move on. -/
def copyBanks (d : Dev) (l : List Nat) : Dev :=
  let act := l.foldl (fun a b => bankCopy a d.regs b) d.act
  let moved := (List.range 16).filter (fun k => bitsOf (sget resetValue act (xbarFld k).a).toNat (xbarFld k).lo 5 != d.xbarEng k)
  let d : Dev := { d with act := act, act1 := d.act, act2 := d.act1 }
  if moved.isEmpty then d else d.pmc 11 1

/-- The records of a landing with landed banks (R40, R44). -/
def landed (d : Dev) (l : List Nat) (m : Nat) : Dev :=
  if l.isEmpty then d
  else
    let d := (d.set64 Adr.LND_LANDED_PERIOD_LO m).set64 Adr.LND_LANDED_MASK_LO (maskOf l)
    (d.pmc 1 l.length).raise 0

/-! ### Arming (R37 to R44) -/

/-- An interval bank (R35). -/
def isInterval (b : Nat) : Bool := decide (b < 16)

/-- The number up to which freeze points are behind (R39). -/
def frozenTo (d : Dev) : Nat :=
  match d.lnd.frozen with
  | some f => if f.stop then d.period else f.period
  | none => d.period

/-- A target has passed (R39). -/
def hasPassed (d : Dev) (t : Nat) : Bool := t != 0 && d.lnd.counting && decide (t ≤ d.frozenTo)

def setArmed (d : Dev) (m : Nat) : Dev := d.set64 Adr.LND_ARMED_LO m
def setMissed (d : Dev) (m : Nat) : Dev := d.set64 Adr.LND_MISSED_LO m

/-- Mark banks as missed (R39, R46). -/
def miss (d : Dev) (l : List Nat) : Dev :=
  if l.isEmpty then d
  else
    let d := d.setMissed (d.get64 Adr.LND_MISSED_LO ||| maskOf l)
    ((d.set LND_STATUS.MISSED 1).pmc 2 1).raise 2

/-- An arm that R43 refuses: the bank is armed, or an explicit target of an interval bank is not at an interval; and R44's. -/
def armRefused (d : Dev) (t b : Nat) : Bool :=
  d.armed b || (t != 0 && isInterval b && t % d.interval != 0) || (d.lndStopped && t != 0)

/-- The copy that an arm makes while LND is stopped (R44). -/
def copyNow (d : Dev) (l : List Nat) : Dev :=
  if l.isEmpty then d
  else
    let (d, ok) := d.accepted l
    if ok.isEmpty then d
    else
      let d := d.copyBanks ok
      let d := (((d.ochLand d.period).feRxLand).feTxLand d.period false).gangLand
      let d := (d.gainLand).toneLand (d.get64 Adr.LND_SAMPLE_LO)
      let d := (List.range 8).foldl sapCopy d
      d.landed ok d.period

/-- Arm the banks of a mask with a target: the refused ones, and those that hold a passed target (R37 to R44). -/
def armMask (d : Dev) (mask t : Nat) : Dev × Nat × Nat :=
  let all := (bitList 64 mask).filter (fun b => decide (b < bankCount))
  let bad := all.filter (d.armRefused t)
  let good := all.filter (fun b => !d.armRefused t b)
  let d := good.foldl (fun d b => d.set64 (Adr.LND_BANK_TARGET_LO b) t) d
  let late := if d.hasPassed t then good else []
  let d := if d.lndStopped then d.copyNow good else d.setArmed (d.get64 Adr.LND_ARMED_LO ||| maskOf good)
  let d := if bad.isEmpty then d else (d.set LND_STATUS.ARM_REFUSED 1).raise 3
  (d.miss (if d.lndStopped then [] else late), maskOf bad, maskOf (if d.lndStopped then [] else late))

/-- The banks that are due at the coming landing. -/
def dueMask (d : Dev) : Nat :=
  match d.lnd.frozen with
  | some f => f.due ||| f.refused
  | none => 0

/-- Disarm the banks of a mask: those that land anyway (R42). -/
def disarmMask (d : Dev) (mask : Nat) : Dev × Nat :=
  let all := (bitList 64 mask).filter d.armed
  let late := all.filter (fun b => bitOf d.dueMask b)
  let gone := all.filter (fun b => !bitOf d.dueMask b)
  let keep := 2 ^ 64 - 1 - maskOf gone
  let d := (d.setArmed (d.get64 Adr.LND_ARMED_LO &&& keep)).setMissed (d.get64 Adr.LND_MISSED_LO &&& keep)
  (if late.isEmpty then d else (d.set LND_STATUS.DISARM_LATE 1).raise 4, maskOf late)

/-- A block reset disarms the block's banks and returns both copies of their fields to reset values (R45). -/
def resetBanks (d : Dev) (l : List Nat) : Dev :=
  let keep := 2 ^ 64 - 1 - maskOf l
  let d := (d.setArmed (d.get64 Adr.LND_ARMED_LO &&& keep)).setMissed (d.get64 Adr.LND_MISSED_LO &&& keep)
  let d := d.setLnd { d.lnd with frozen := d.lnd.frozen.map (fun f => { f with due := f.due &&& keep, refused := f.refused &&& keep }) }
  { d with
    regs := l.foldl (fun m b => bankCopy m [] b) d.regs
    act := l.foldl (fun m b => bankCopy m [] b) d.act
    act1 := l.foldl (fun m b => bankCopy m [] b) d.act1
    act2 := l.foldl (fun m b => bankCopy m [] b) d.act2 }

/-- Targets that are behind are marked missed (R39, R46). -/
def missSweep (d : Dev) : Dev :=
  d.miss ((bitList 64 (d.get64 Adr.LND_ARMED_LO &&& (2 ^ 64 - 1 - d.get64 Adr.LND_MISSED_LO))).filter
    (fun b => d.hasPassed (d.get64 (Adr.LND_BANK_TARGET_LO b))))

/-! ### Run control (R29, R602) -/

/-- LND stops counting. -/
def lndStop (d : Dev) : Dev :=
  let d := d.setLnd { d.lnd with counting := false, frozen := none }
  (d.set LND_STATUS.RUNNING 0).set LND_STATUS.WAIT_LOCK 0

/-- RUN has been written: from 0 to 1 LND waits for lock; cleared before the first landing it stops at once (R29, R60, R602). -/
def lndRun (d : Dev) (was : Bool) : Dev :=
  let run := d.on LND_CTRL.RUN
  let d := if run && !was && !d.lnd.counting then d.set LND_STATUS.WAIT_LOCK 1
    else if !run && was && !d.on LND_STATUS.RUNNING && d.lnd.frozen.isNone then d.lndStop
    else d
  d.mpllLevel

/-- With the PLL locked LND loads its sample counter from the time base (R29); passed targets are missed (R602). -/
def lndLoad (d : Dev) : Dev :=
  if d.on LND_STATUS.WAIT_LOCK && d.on LND_MPLL_STATUS.LOCK then
    let s := d.tbSample d.tbSel
    let d := d.set LND_STATUS.WAIT_LOCK 0
    let d := (d.set64 Adr.LND_SAMPLE_LO s).set64 Adr.LND_PERIOD_LO (s / d.perLen)
    let d := d.setLnd { d.lnd with counting := true, frozen := none, media := (d.tbAt d.tbSel).t }
    d.missSweep
  else d

/-! ### The freeze point (R30, R38) -/

/-- The banks that are due at the landing that begins period `m`. -/
def dueBanks (d : Dev) (m : Nat) : List Nat :=
  (bitList 64 (d.get64 Adr.LND_ARMED_LO &&& (2 ^ 64 - 1 - d.get64 Adr.LND_MISSED_LO))).filter (fun b =>
    let t := d.get64 (Adr.LND_BANK_TARGET_LO b)
    if t = 0 then !isInterval b || m % d.interval == 0 else t == m)

/-- The sample count at the landing, 512 ticks from now, if LND's count is off by more than STEP_TOL; none in holdover (R30, R31). -/
def resyncTo (d : Dev) : Option Nat :=
  let tol : Int := ((max 1 (d.get LND_CTRL.STEP_TOL) : Nat) : Int)
  if d.lnd.track && !within0 ((d.mediaSample : Int) - (d.tbSample d.tbSel : Int)) tol then
    some (((d.tbAt d.tbSel).t + 512 * d.tbIncr d.tbSel) / 2 ^ 16 * d.fs / (1000000000 * 2 ^ 16))
  else none

/-- The freeze point, `ticks` FABRIC ticks from now: RUN is sampled, the due banks are fixed and their owners check them; FE fixes which
samples are present and MIX which port halves are (R38, R375, R409, R602). -/
def freezePoint (d : Dev) (ticks : Nat) : Dev :=
  let d := d.elapse ticks
  if !d.lnd.counting || d.lnd.frozen.isSome then d
  else if !d.on LND_CTRL.RUN then
    d.setLnd { d.lnd with frozen := some ⟨0, 0, wrap64 ((d.period : Int) + 1), none, true⟩ }
  else
    let r := d.resyncTo
    let m := match r with
      | some s => wrap64 ((s / d.perLen : Nat) : Int)
      | none => wrap64 ((d.period : Int) + 1)
    let due := d.dueBanks m
    let (d, ok) := d.accepted due
    let d := (d.feFreeze).sapFreeze
    d.setLnd { d.lnd with frozen := some ⟨maskOf ok, maskOf due ^^^ maskOf ok, m, r, false⟩ }

end Dev
end Sys2Proof.Machine
end

