-- ==== Sys2Proof/Machine/HifExec.lean ====
section
/-! DEFINITION. Sys2Proof/Machine/HifExec.lean: what HIF does with descriptors: fetch, acceptance, the commands but for SHADOW_WRITE, firmware commands, bulk transfers, completion records, capture and frame rings, translation resumes and invalidations, the link (R261 to R310). -/
namespace Sys2Proof.Machine
namespace Dev

/-! ### Fetch and acceptance (R268, R276, R277, R284, R285) -/

/-- The longest inline payload. -/
abbrev maxPayload : Nat := 4032

/-- Ring entries that the command whose first entry is `l` occupies (R277). -/
def spanOf (r : Nat) (l : List Byte) : Nat :=
  if isBulkRing r then 1
  else
    let n := ofBytes (slice l 4 4)
    if maxPayload < n then 64 else 1 + (n + 63) / 64

/-- Fetch entries of the command at the device index, up to its last and up to the host index. -/
def fetchMore : Nat → Dev → Nat → Dev
  | 0, d, _ => d
  | fuel + 1, d, r =>
    let x := d.ringAt r
    let k := x.fetched.length
    let want := match x.fetched with
      | [] => 1
      | l :: _ => spanOf r l
    if want ≤ k ∨ d.avail r ≤ k then d
    else
      match d.ringRead r .fetch 2 (d.entryAddr r (d.devIdx r + k)) 64 with
      | (d, none) => d
      | (d, some l) =>
        let d := (d.setRing r { d.ringAt r with fetched := (d.ringAt r).fetched ++ [l] }).pmc (16 * 19 + 3) 1
        fetchMore fuel d r

/-- DESCRIPTOR_FETCH on a command or bulk ring; HIF does not fetch ahead of acceptance (R285). -/
def descriptorFetch (d : Dev) (r : Nat) : Dev :=
  if isAsnRing r && d.hostOk r && !d.on (HIF_RING_STATUS.DRAINING r) then fetchMore 64 d r else d

/-- The completion ring of ring `r` (R282). -/
def cqOf (d : Dev) (r : Nat) : Nat := 8 + d.get (HIF_RING_CFG.CQ r)

/-- LAST_ACCEPTED and ASN restarts of every command and bulk ring, in journal order. -/
def asnMarks (d : Dev) : List (Nat × Nat) :=
  asnRings.map (fun r => (d.get64 (Adr.HIF_RING_LAST_ACCEPTED_LO r), (d.ringAt r).restarts))

/-- COMMAND_ACCEPT: the command fetched whole goes into both journal copies and gets the next ASN (R284). -/
def commandAccept (d : Dev) (r : Nat) : Dev :=
  let x := d.ringAt r
  match x.fetched with
  | [] => d
  | l :: _ =>
    let n := spanOf r l
    let q := d.cqOf r
    if !isAsnRing r || d.ringState r != stRunning || d.on (HIF_RING_STATUS.DRAINING r) || x.fetched.length < n
      || decide (d.jrnlUnits < d.jrnlUsed r + n + 1) || d.ringState q == stDisabled || decide (d.ringSize q ≤ d.reserved q) then d
    else
      let e : JEntry :=
        { asn := d.get64 (Adr.HIF_RING_LAST_ACCEPTED_LO r) + 1, unit := x.jw, n := n, prog := 0, seen := d.asnMarks,
          tag := ofBytes (slice l 8 8), irq := bitOf (ofBytes (slice l 2 2)) 1, done := false, posted := none, till := none }
      let d := d.jrnlPuts r x.jw (x.fetched.take n ++ [stateUnit e []])
      let d := d.setRing r { d.ringAt r with fetched := [], jrnl := (d.ringAt r).jrnl ++ [e], jw := x.jw + n + 1 }
      ((d.advance r n).setAccepted r e.asn).pmc (16 * 19) 1

/-! ### The command in progress (R286, R287) -/

/-- OPCODE, FLAGS, PAYLOAD_LEN and TARGET of a command descriptor (R276). -/
def opOf (l : List Byte) : Nat := ofBytes (slice l 0 2)
def flagsOf (l : List Byte) : Nat := ofBytes (slice l 2 2)
def payloadOf (l : List Byte) : Nat := ofBytes (slice l 4 4)
def targetField (l : List Byte) : Nat := ofBytes (slice l 16 8)

/-- Bytes `i` to `i + n − 1` are 0. -/
def zeros (l : List Byte) (i n : Nat) : Bool := (slice l i n).all (· == 0)

/-- The descriptor of a command that takes no payload and no ARM is well formed, its arguments apart (R276, R278). -/
def plainForm (l : List Byte) : Bool := flagsOf l / 4 == 0 && !bitOf (flagsOf l) 0 && payloadOf l == 0 && targetField l == 0

/-- Act on the command in progress of ring `r` with its entries from the journal. Where both copies are unreadable it completes
with JRNL_LOST (R286). -/
def withHead (d : Dev) (r : Nat) (f : Dev → JEntry → List Byte → Dev) : Dev :=
  match d.headOf r with
  | none => d
  | some e =>
    match d.jrnlGets r e.unit e.n with
    | (d, none) => d.complete r e 0x10A 0
    | (d, some l) => f d e l

/-- Act on the command in progress of command ring `r` where `p` takes its OPCODE. A PAYLOAD_LEN above 4032 is BAD_FORMAT (R277). -/
def withOp (d : Dev) (r : Nat) (p : Nat → Bool) (f : Dev → JEntry → List Byte → Dev) : Dev :=
  if !isCmdRing r then d
  else d.withHead r (fun d e l =>
    if !p (opOf l) then d
    else if maxPayload < payloadOf l then d.complete r e 0x101 0
    else f d e l)

/-- Opcodes of HIF (R278). -/
def hifOps : List Nat := [0x000, 0x001, 0x003, 0x010, 0x011, 0x020, 0x021, 0x030, 0x040]

/-- HIF_NOP: opcode 0x000; an opcode that is not defined completes with BAD_OPCODE in the same way (R276, R278). -/
def hifNop (d : Dev) (r : Nat) : Dev :=
  d.withOp r (fun op => op == 0 || (decide (op < 0x100) && !hifOps.contains op) || decide (0x1000 ≤ op)) (fun d e l =>
    if opOf l ≠ 0 then d.complete r e 0x100 0
    else d.complete r e (if plainForm l && zeros l 24 40 then 0 else 0x101) 0)

/-- DISARM (R278). -/
def hifDisarm (d : Dev) (r : Nat) : Dev :=
  d.withOp r (· == 3) (fun d e l =>
    if !(plainForm l && zeros l 32 32) then d.complete r e 0x101 0
    else
      let (d, late) := d.disarmMask (ofBytes (slice l 24 8))
      d.complete r e (if late = 0 then 0 else 0x107) late)

/-- FENCE (R278, R283). -/
def hifFence (d : Dev) (r : Nat) : Dev :=
  d.withOp r (· == 0x20) (fun d e l =>
    let k := ofBytes (slice l 24 1)
    let last := d.get64 (Adr.HIF_RING_LAST_COMPLETED_LO k)
    if !(plainForm l && zeros l 25 7 && zeros l 40 24) || !isAsnRing k || k == r then d.complete r e 0x101 0
    else if (e.seen.getD (jrnlIx k) (0, 0)).2 ≠ (d.ringAt k).restarts then d.complete r e 0x108 last
    else if ofBytes (slice l 32 8) ≤ last then d.complete r e 0 last
    else d)

/-- Every ring has completed what it had accepted before the command (R278). -/
def barrierOver (d : Dev) (r : Nat) (e : JEntry) : Bool :=
  asnRings.all (fun k => k == r || (e.seen.getD (jrnlIx k) (0, 0)).2 != (d.ringAt k).restarts
    || decide ((e.seen.getD (jrnlIx k) (0, 0)).1 ≤ d.get64 (Adr.HIF_RING_LAST_COMPLETED_LO k)))

/-- BARRIER (R278). -/
def hifBarrier (d : Dev) (r : Nat) : Dev :=
  d.withOp r (· == 0x21) (fun d e l =>
    if !(plainForm l && zeros l 24 40) then d.complete r e 0x101 0
    else if d.barrierOver r e then d.complete r e 0 0 else d)

/-- WAIT_PERIOD: completes at once if the period has begun, or at the landing that begins it (R278). -/
def hifWait (d : Dev) (r : Nat) : Dev :=
  d.withOp r (· == 0x40) (fun d e l =>
    if !(plainForm l && zeros l 24 8 && zeros l 40 24) then d.complete r e 0x101 0
    else (d.setEntry r { e with till := some (ofBytes (slice l 32 8)) }).waitDone r)

/-! ### Invalidation (R300) -/

/-- XLT starts an invalidation. -/
def invStart (d : Dev) (x : XltInv) : Dev :=
  let d : Dev := { d with xlt := { d.xlt with inv := d.xlt.inv ++ [x] } }
  d.set XLT_STATUS.INV_BUSY 1

/-- XLT_INVAL (R278). -/
def hifXltInval (d : Dev) (r : Nat) : Dev :=
  d.withOp r (· == 0x30) (fun d e l =>
    let b := ofBytes (slice l 24 1)
    let iova := ofBytes (slice l 32 8)
    if !(plainForm l && zeros l 25 7 && zeros l 44 20) || b / 32 != 0 || iova % 4096 != 0 then d.complete r e 0x101 0
    else if e.prog ≠ 0 then d
    else
      let d := d.progress r e 1
      d.invStart ⟨if bitOf b 4 then none else some (b % 16), iova / 4096, if bitOf b 4 then 0 else ofBytes (slice l 40 4), some r⟩)

/-- A write of XLT_INV with GO. -/
def xltInv (d : Dev) (w : Word) : Dev :=
  if bitOf w.toNat 5 then
    if bitOf w.toNat 4 then d.invStart ⟨none, 0, 0, none⟩
    else d.invStart ⟨some (w.toNat % 16), bitsOf (d.reg Adr.XLT_INV_ADDR_LO).toNat 12 20, d.get XLT_INV_PAGES.PAGES, none⟩
  else d

/-- Whether an invalidation removes a cached entry. -/
def XltInv.covers (x : XltInv) (e : XltEntry) : Bool :=
  match x.ctx with
  | none => true
  | some c => e.ctx == c && (x.pages == 0 || (decide (x.page ≤ e.page) && decide (e.page < x.page + x.pages)))

/-- XLT_INV_DONE: the oldest invalidation completes: no cached copy remains (R300). -/
def xltInvDone (d : Dev) : Dev :=
  match d.xlt.inv with
  | [] => d
  | x :: t =>
    let d : Dev := { d with xlt := { d.xlt with cache := d.xlt.cache.filter (fun e => !XltInv.covers x e), inv := t } }
    let d := d.set XLT_STATUS.INV_BUSY (b2n (!t.isEmpty))
    match x.ring with
    | none => d
    | some r =>
      match d.headOf r with
      | some e => d.complete r e 0 0
      | none => d

/-- A write of XLT_CTXc_CFG that takes VALID from 0 to 1 (R310). A context with VALID = 1 keeps MODE. -/
def xltCtxValid (d : Dev) (c : Nat) (w : Word) : Dev :=
  if d.on (XLT_CTX_CFG.VALID c) then d.set (XLT_CTX_CFG.VALID c) (w.toNat % 2)
  else
    let d := d.setReg (Adr.XLT_CTX_CFG c) (w &&& 0xFFFFFFFE#32)
    if w.toNat % 2 = 0 then d
    else
      let root := d.get64 (Adr.XLT_CTX_ROOT_LO c)
      let code := if w.toNat / 4 ≠ 0 ∨ root % 2 ^ 14 ≠ 0 then 1 else if 2 ^ 48 ≤ root then 2
        else if d.xlt.inv.any (fun x => x.ctx.getD c == c) then 3 else 0
      if code = 0 then d.set (XLT_CTX_CFG.VALID c) 1
      else (((d.set XLT_VERR.CTX c).set XLT_VERR.CODE code).set XLT_STATUS.CFG_ERR 1).raise 76

/-! ### Transfers (R278, R292 to R294) -/

/-- The journal copies as ranges of the pantry: base, length. -/
def jrnlRanges (d : Dev) : List (Nat × Nat) :=
  [(65536 * d.get HIF_JRNL_BASE0.BASE, 64 * 12 * d.jrnlUnits), (65536 * d.get HIF_JRNL_BASE1.BASE, 64 * 12 * d.jrnlUnits)]

/-- A range touches a journal copy. -/
def touchesJrnl (d : Dev) (a n : Nat) : Bool := d.jrnlRanges.any (fun j => decide (a < j.1 + j.2) && decide (j.1 < a + n))

/-- The regions that a transfer may name (R292). -/
def devRange (d : Dev) (a n : Nat) : Bool :=
  (decide (pantryBase ≤ a) && decide (a + n ≤ pantryBase + 0x4000000) && !d.touchesJrnl a n)
  || (decide (roomBase ≤ a) && decide (a + n ≤ roomBase + 17 * 0x800000) && a / 0x800000 == (a + n - 1) / 0x800000)
  || (decide (dramBase ≤ a) && (if d.on (DMC_CFG.MAP 0) then
        decide (a / 2 ^ 32 < 9) && decide (a % 2 ^ 32 + n ≤ d.dramUsable)
      else decide (dramOfs a + n ≤ 8 * d.dramUsable)))

/-- A transfer: host address, device address, length, whether it goes to the host. -/
structure Xfer where
  host : Nat
  dev : Nat
  len : Nat
  out : Bool
  deriving DecidableEq, Repr

/-- Move granules of the transfer in progress, at most `lim` (R293). -/
def moveGranules : Nat → Dev → Nat → Xfer → Dev
  | 0, d, _, _ => d
  | lim + 1, d, r, x =>
    match d.headOf r with
    | none => d
    | some e =>
      let o := 64 * e.prog
      if x.len ≤ o then d.complete r e 0 x.len
      else
        match d.ringXlt r .data (x.host + o) x.out with
        | (d, none) => d
        | (d, some p) =>
          if x.out then
            match d.busRead reqHif (x.dev + o) 64 with
            | (d, .okay, l) => moveGranules lim (((d.setHost p l).progress r e (e.prog + 1)).pmc (16 * 19 + 2) 1) r x
            | (d, _, _) => d.complete r e 0x109 o
          else
            let (d, l) := d.hostRead p 64
            match d.busWrite reqHif (x.dev + o) ((List.range 64).zip l) [] with
            | (d, .okay) => moveGranules lim ((d.progress r e (e.prog + 1)).pmc (16 * 19 + 2) 1) r x
            | (d, _) => d.complete r e 0x109 o

/-- Go on with a transfer, or complete it: it waits while the ring reaches no host memory (R272, R294). -/
def transfer (d : Dev) (r lim : Nat) (e : JEntry) (x : Xfer) : Dev :=
  if x.host % 64 ≠ 0 ∨ x.dev % 64 ≠ 0 then d.complete r e 0x101 0
  else if !d.devRange x.dev x.len then d.complete r e 0x103 0
  else if !d.hostOk r then d
  else
    let d := moveGranules lim d r x
    match d.headOf r with
    | some e2 => if e2.unit = e.unit ∧ x.len ≤ 64 * e2.prog then d.complete r e2 0 x.len else d
    | none => d

/-- COPY_IN and COPY_OUT, at most `lim` granules (R278). -/
def hifCopy (d : Dev) (r lim : Nat) (out : Bool) : Dev :=
  d.withOp r (· == (if out then 0x11 else 0x10)) (fun d e l =>
    let x : Xfer := ⟨ofBytes (slice l 24 8), ofBytes (slice l 32 8), ofBytes (slice l 40 4), out⟩
    if !(plainForm l && zeros l 44 20) || x.len % 64 != 0 || x.len == 0 || decide (0x1000000 < x.len) then d.complete r e 0x101 0
    else d.transfer r lim e x)

/-- A bulk transfer, at most `lim` granules; `op` is the OPCODE that the command names (R292, R293). -/
def bulk (d : Dev) (r lim op : Nat) : Dev :=
  if !isBulkRing r then d
  else d.withHead r (fun d e l =>
    let x : Xfer := ⟨ofBytes (slice l 16 8), ofBytes (slice l 24 8), ofBytes (slice l 4 4), op == 2⟩
    if opOf l ≠ 1 ∧ opOf l ≠ 2 then (if op = 1 then d.complete r e 0x100 0 else d)
    else if opOf l ≠ op then d
    else if (flagsOf l != 0 && flagsOf l != 2) || !zeros l 32 32 || x.len % 64 != 0 || x.len == 0 then d.complete r e 0x101 0
    else d.transfer r lim e x)

/-- The state a suspended ring returns to. -/
def unsuspend (d : Dev) (r : Nat) : Dev :=
  let d := d.set (HIF_RING_STATUS.STATE r) (if d.on (HIF_RING_STATUS.DRAINING r) then stStopped else stRunning)
  d.setRing r { d.ringAt r with susp := none }

/-- BULK_ABORT: a write of CTRL.ABORT (R293). -/
def bulkAbort (d : Dev) (r : Nat) : Dev :=
  if !isBulkRing r then d
  else
    match d.headOf r with
    | none => d
    | some e =>
      let d := d.complete r e 0x108 (64 * e.prog)
      match (d.ringAt r).susp with
      | some s => if s.kind = .data then d.unsuspend r else d
      | none => d

/-! ### Firmware commands (R281, R290, R291) -/

/-- Event 69 follows HIF_FW_PEND (R308). -/
def fwLevel (d : Dev) : Dev := d.level 69 (d.get HIF_FW_PEND.RINGS != 0)

/-- FW_COMMAND_PRESENT (R290). -/
def fwPresent (d : Dev) (r : Nat) : Dev :=
  d.withOp r (fun op => decide (0x100 ≤ op) && decide (op < 0x1000)) (fun d e _ =>
    if bitOf (d.get HIF_FW_PEND.RINGS) r then d
    else
      let d := d.setReg (Adr.HIF_RING_FW_JADDR r) (BitVec.ofNat 32 (d.jrnlAddr false r e.unit))
      ((d.set HIF_FW_PEND.RINGS (withBits (d.get HIF_FW_PEND.RINGS) r 1 1)).fwLevel).pmc (16 * 19 + 11) 1)

/-- The firmware command in progress of ring `r` completes. -/
def fwComplete (d : Dev) (r status result : Nat) : Dev :=
  match d.headOf r with
  | none => d
  | some e =>
    let d := d.complete r e status result
    (d.set HIF_FW_PEND.RINGS (withBits (d.get HIF_FW_PEND.RINGS) r 1 0)).fwLevel

/-- FW_DONE: a write of HIF_FW_DONE by master `m` (R290). -/
def fwDone (d : Dev) (m : Nat) (w : Word) : Dev :=
  let r := bitsOf w.toNat 0 3
  if m = 17 + d.get HIF_STATUS.FW_OWNER ∧ bitOf (d.get HIF_FW_PEND.RINGS) r = true then
    d.fwComplete r (bitsOf w.toNat 16 16) (d.get64 Adr.HIF_FW_RESULT_LO)
  else (d.bump Adr.HIF_FW_STRAY_CNT).raise 77

/-- FW_OWNER moves to the other core, which gets every firmware command in progress presented again (R291, R513). -/
def fwMove (d : Dev) : Dev :=
  let d := (d.set HIF_STATUS.FW_OWNER (1 - d.get HIF_STATUS.FW_OWNER)).raise 70
  if d.get HIF_FW_PEND.RINGS = 0 then d else d.occur 69 1 0

/-- The bytes of a FILTER_PREPARE descriptor that break R200. -/
def filterForm (l : List Byte) : Bool :=
  flagsOf l / 4 == 0 && !bitOf (flagsOf l) 0 && payloadOf l == 0 && targetField l == 0
    && decide ((l.getD 24 0).toNat < 16) && decide ((l.getD 25 0).toNat < 2) && zeros l 26 6 && zeros l 38 26

/-- FILTER_PREPARE on ring `r`: the phase-B library's work, and its HIF_FW_RESULT and HIF_FW_DONE (R200, R290). -/
def filterPrepare (d : Dev) (r : Nat) : Dev :=
  if !bitOf (d.get HIF_FW_PEND.RINGS) r then d
  else d.withOp r (· == 0x140) (fun d _ l =>
    if !filterForm l then d.fwComplete r 0x101 0
    else
      let (d, status, result) := d.filterWork l
      (d.set64 Adr.HIF_FW_RESULT_LO result).fwComplete r status result)

/-! ### Completion records (R282, R289) -/

/-- COMPLETION_POST: ring `r`'s oldest record that is not posted goes into its completion ring, behind records to be written again. -/
def completionPost (d : Dev) (r : Nat) : Dev :=
  let q := d.cqOf r
  let d := d.reposts q
  if !(isAsnRing r && d.canPost q && d.noRepost q) then d
  else
    match (d.ringAt r).jrnl.find? (fun e => e.done && e.posted.isNone && !(d.ringAt q).repost.any (fun p => p.2 == some (r, e.unit))) with
    | none => d
    | some e =>
      let (d, l) := d.journalRecord r e
      (d.postNow q l (some (r, e.unit)) e.irq).1

/-! ### Resumes (R303) -/

/-- The write-backs and records that a ring holds go on. -/
def goOn (d : Dev) (r : Nat) : Dev :=
  if isDevRing r then d.reposts r else if 25 ≤ r ∧ r < 33 then d.txBacks (d.ringAt r).repost.length r else d

/-- The resume write names the context's FSEQ (R303). -/
def resumeOk (d : Dev) (s : Susp) (fseq : Nat) : Bool := fseq % 65536 == d.get (XLT_CTX_FSEQ.FSEQ s.ctx)

/-- XLT_RESUME: the faulting granule is translated again. -/
def xltResume (d : Dev) (r fseq : Nat) : Dev :=
  match (d.ringAt r).susp with
  | none => d
  | some s =>
    if d.ringState r ≠ stSuspended ∨ d.resumeOk s fseq = false then d
    else
      match d.translate s.ctx s.iova s.write with
      | (d, .error k) => d.xltFault r s.kind s.ctx s.iova s.write k
      | (d, .ok _) => (d.unsuspend r).goOn r

/-- The faulting data access of a capture or frame ring ends with ABORT: its block or frame is dropped. -/
def dataDropped (d : Dev) (r : Nat) : Dev :=
  if 21 ≤ r ∧ r < 25 then
    match d.mix.capOut.find? (fun e => e.1 == r - 21) with
    | none => d
    | some e =>
      let d : Dev := { d with mix := { d.mix with capOut := d.mix.capOut.erase e } }
      let d := d.setRing r { d.ringAt r with gap := (d.ringAt r).gap + 1 }
      (d.bump (Adr.HIF_RING_DISCARD_CNT r)).raise 74
  else if 25 ≤ r ∧ r < 33 then
    let idx := d.devIdx r + 2 ^ 32 * (d.ringAt r).restarts
    (d.advance r 1).hostTxDone r idx false (txWriteBack txBadDesc false false 0)
  else
    let p := d.get (HIF_RING_CFG.PORT r)
    match (d.macAt p).rx.find? (fun f => f.q == d.get (HIF_RING_CFG.QUEUE r)) with
    | none => d
    | some f =>
      let d := d.setMac p { d.macAt p with rx := (d.macAt p).rx.erase f }
      (d.bump (Adr.HIF_RING_DISCARD_CNT r)).fcUpdate p

/-- XLT_RESUME_ABORT: the faulting access ends (R303). -/
def xltResumeAbort (d : Dev) (r fseq : Nat) : Dev :=
  match (d.ringAt r).susp with
  | none => d
  | some s =>
    if d.ringState r ≠ stSuspended ∨ d.resumeOk s fseq = false then d
    else
      match s.kind with
      | .fetch => d.ringError r 2
      | .record => d.ringError r 3
      | .data =>
        if isAsnRing r then
          match d.headOf r with
          | none => d.unsuspend r
          | some e => (d.complete r e 0x108 (64 * e.prog)).unsuspend r
        else (d.unsuspend r).dataDropped r

/-! ### Capture and frame rings (R295 to R297) -/

/-- A descriptor of a ring without ASNs is free, and HIF reaches host memory. -/
def canTake (d : Dev) (r : Nat) : Bool := d.hostOk r && d.ringState r == stRunning && decide (0 < d.avail r)

/-- CAPTURE_BLOCK_WRITE of stream `c` (R295). -/
def captureWrite (d : Dev) (c : Nat) : Dev :=
  let r := 21 + c
  match d.mix.capOut.find? (fun e => e.1 == c) with
  | none => d
  | some e =>
    if !d.canTake r then d.dataDropped r
    else
      let a := d.entryAddr r (d.devIdx r)
      match d.ringRead r .fetch 2 a 64 with
      | (d, none) => d
      | (d, some l) =>
        let data := e.2.1.take (ofBytes (slice l 8 4))
        match d.ringWrite r .data (data.length / 64 + 2) (ofBytes (slice l 0 8)) data with
        | (d, false) => d
        | (d, true) =>
          let wb := bytesOf 4 data.length ++ bytesOf 4 (d.ringAt r).gap ++ bytesOf 8 e.2.2 ++ [0x80] ++ List.replicate 15 0
          match d.ringWrite r .record 2 (a + 32) wb with
          | (d, false) => d
          | (d, true) =>
            let d : Dev := { d with mix := { d.mix with capOut := d.mix.capOut.erase e } }
            (d.setRing r { d.ringAt r with gap := 0 }).advance r 1

/-- The reserved bytes of a frame transmit descriptor. -/
def txDescBad (l : List Byte) : Bool := !(decide ((l.getD 10 0).toNat < 8) && zeros l 11 5 && zeros l 26 6)

/-- FRAME_TX_DESCRIPTOR of ring `r` (R296): the frame goes to its port's transmit queue, which must be a host queue (R331). -/
def frameTx (d : Dev) (r : Nat) : Dev :=
  if !(decide (25 ≤ r) && decide (r < 33) && d.canTake r) then d
  else
    let p := d.get (HIF_RING_CFG.PORT r)
    let q := d.get (HIF_RING_CFG.QUEUE r)
    let idx := d.devIdx r + 2 ^ 32 * (d.ringAt r).restarts
    match d.ringRead r .fetch 2 (d.entryAddr r (d.devIdx r)) 64 with
    | (d, none) => d
    | (d, some l) =>
      let flags := (l.getD 10 0).toNat
      let irq := bitOf flags 2
      if txDescBad l then (d.advance r 1).hostTxDone r idx irq (txWriteBack txBadDesc false false 0)
      else
        let n := ofBytes (slice l 8 2)
        match d.ringRead r .data (n / 64 + 2) (ofBytes (slice l 0 8)) n with
        | (d, none) => d
        | (d, some bytes) =>
          let launch := if bitOf flags 1 then some (ofBytes (slice l 16 6), ofBytes (slice l 22 4)) else none
          let d := d.advance r 1
          d.txSubmit p q 0 ⟨bytes, .host r idx irq, bitOf flags 0, launch, false⟩

/-- The write-back half of a frame receive descriptor (R297). -/
def rxWriteBack (p : Nat) (f : RxFrame) : List Byte :=
  bytesOf 2 f.bytes.length ++ bytesOf 1 p ++ bytesOf 1 f.q ++ bytesOf 2 f.filter ++ bytesOf 1 (1 + 2 * b2n f.vlan + 4 * b2n f.mirror + 128)
    ++ [0] ++ bytesOf 6 (sec16 f.t) ++ bytesOf 4 (ns16 f.t) ++ bytesOf 2 (frac16 f.t) ++ List.replicate 12 0

/-- FRAME_RX_DELIVER of ring `r` (R297). -/
def frameRx (d : Dev) (r : Nat) : Dev :=
  if !(decide (33 ≤ r) && decide (r < 41) && d.canTake r) then d
  else
    let p := d.get (HIF_RING_CFG.PORT r)
    match (d.macAt p).rx.find? (fun f => f.q == d.get (HIF_RING_CFG.QUEUE r)) with
    | none => d
    | some f =>
      let a := d.entryAddr r (d.devIdx r)
      match d.ringRead r .fetch 2 a 64 with
      | (d, none) => d
      | (d, some l) =>
        let gone := fun (d : Dev) => d.setMac p { d.macAt p with rx := (d.macAt p).rx.erase f }
        if ofBytes (slice l 8 2) < f.bytes.length then ((gone d).bump (Adr.HIF_RING_DISCARD_CNT r)).fcUpdate p
        else
          match d.ringWrite r .data (f.bytes.length / 64 + 2) (ofBytes (slice l 0 8)) f.bytes with
          | (d, false) => d
          | (d, true) =>
            match d.ringWrite r .record 2 (a + 32) (rxWriteBack p f) with
            | (d, false) => d
            | (d, true) => ((gone d).advance r 1).fcUpdate p

/-! ### The link (R261, R272, R593) -/

/-- Vectors whose pending bit waited are sent once nothing holds them (R567). -/
def msixFlush (d : Dev) : Dev :=
  (List.range 64).foldl (fun d v =>
    if bitOf (d.reg (Adr.HIF_MSIX_PBA (v / 32))).toNat (v % 32) && !bitOf (d.reg (Adr.HIF_MSIX_CTRL v)).toNat 0 && d.on HIF_STATUS.LINK_UP then
      (d.setReg (Adr.HIF_MSIX_PBA (v / 32)) (d.reg (Adr.HIF_MSIX_PBA (v / 32)) &&& ~~~(BitVec.ofNat 32 (2 ^ (v % 32))))).msixSend v
    else d) d

/-- PCIE_LINK_UP with the width code and the generation. -/
def pcieUp (d : Dev) (width speed : Nat) : Dev :=
  if d.hifReset || !d.on CLK_STATUS.PCIE_LOCK then d
  else
    let d := ((d.set HIF_STATUS.LINK_UP 1).set HIF_STATUS.WIDTH width).set HIF_STATUS.SPEED speed
    (d.level 68 false).msixFlush

/-- The link drops: every ring stops in place (R272). -/
def pcieDown (d : Dev) : Dev :=
  let d := if d.on HIF_STATUS.LINK_UP then (d.bump Adr.HIF_LINKDOWN_CNT).pmc (16 * 19 + 12) 1 else d
  let d := ((d.set HIF_STATUS.LINK_UP 0).set HIF_STATUS.WIDTH 0).set HIF_STATUS.SPEED 0
  (d.stopRings).level 68 true

/-- HIF enters block reset: every ring stops; journals, ASNs and watermarks are kept (R513). -/
def hifHeld (d : Dev) : Dev := d.stopRings

/-- PCIE_PERST: PCIE_PERST_N low holds HIF in block reset, and the link is down (R593). -/
def perst (d : Dev) : Dev :=
  let d : Dev := { d with pch := { d.pch with perstN := false } }
  (d.hifHeld).pcieDown

/-- PCIE_PERST_N rises (R593). -/
def perstRise (d : Dev) : Dev := { d with pch := { d.pch with perstN := true } }

/-- BAR4_ACCESS, a read of `n` bytes (R264). -/
def bar4Read (d : Dev) (o n : Nat) : Dev :=
  if !d.on HIF_CTRL.BAR4_EN then { d with resp := .unsupported }
  else
    let (d, ok, l) := (piecesOf (pantryBase + o) n).foldl (fun (acc : Dev × Bool × List Byte) x =>
      match acc.1.busRead reqHif x.1 x.2 with
      | (d, c, l) => (d, acc.2.1 && c == .okay, acc.2.2 ++ l)) (d, true, [])
    { d with resp := if ok then .bytes l else .poisoned }

/-- BAR4_ACCESS, a write (R264). -/
def bar4Write (d : Dev) (o : Nat) (l : List Byte) : Dev :=
  if !d.on HIF_CTRL.BAR4_EN || !d.on HIF_CTRL.BAR4_WR_EN then d
  else if asnRings.any (fun r => d.ringState r != stDisabled) && d.touchesJrnl (pantryBase + o) l.length then
    (d.bump Adr.HIF_BAR4_REFUSED_CNT).raise 72
  else (d.busPut reqHif (pantryBase + o) l).1

end Dev
end Sys2Proof.Machine
end

