-- ==== Sys2Proof/Machine/Safe.lean ====
section
/-! DEFINITION. Sys2Proof/Machine/Safe.lean: the flash image, the safe-mix block and its checks, the safe mix itself, faults and restarts of PE (R524, R529 to R537). -/
namespace Sys2Proof.Machine

/-! ### The safe-mix block (R535, R536) -/

/-- Entries of `n` bytes from byte `i`. -/
def entriesAt (l : List Byte) (i n k : Nat) : List (List Byte) := (List.range k).map (fun j => slice l (i + n * j) n)

/-- A byte of an entry. -/
def byteOf (l : List Byte) (i : Nat) : Nat := (l.getD i 0).toNat

/-- Byte of the input and output entries: port, line, slot. -/
def slotOf (l : List Byte) : SafeSlot := ⟨byteOf l 0, byteOf l 1, byteOf l 2⟩

/-- LEN by the counts (R535). -/
def safeLen (nIn nOut nTerms : Nat) : Nat := 64 + 4 * nIn + 8 * nOut + 8 * nTerms + 128 * nOut

/-- The tables of a block. -/
def safeTables (l : List Byte) : SafeMix :=
  let nIn := byteOf l 16
  let nOut := byteOf l 17
  let nTerms := byteOf l 18
  let o := 64 + 4 * nIn
  let t := o + 8 * nOut
  let f := t + 8 * nTerms
  { clock := byteOf l 19
    ports := byteOf l 32
    cfg := [ofBytes (slice l 20 4), ofBytes (slice l 24 4)]
    clk := [byteOf l 28, byteOf l 29]
    start := ofBytes (slice l 30 2)
    ins := (entriesAt l 64 4 nIn).map slotOf
    outs := (entriesAt l o 8 nOut).map slotOf
    delays := (entriesAt l o 8 nOut).map (fun e => ofBytes (slice e 4 2))
    terms := (entriesAt l t 8 nTerms).map (fun e => ⟨byteOf e 0, byteOf e 1, signedOf 32 (ofBytes (slice e 4 4))⟩)
    firs := (entriesAt l f 128 nOut).map (fun e => (List.range 32).map (fun j => signedOf 32 (ofBytes (slice e (4 * j) 4)))) }

/-- A slot that exists: its port is in PORTS and the slot is below the port's SLOTS (R536). -/
def SafeMix.slotOk (x : SafeMix) (s : SafeSlot) : Bool :=
  decide (s.port < 2) && bitOf x.ports s.port && decide (s.line < 2) && decide (s.slot < bitsOf (x.cfg.getD s.port 0) 3 5 + 1)

/-- No two entries name the same slot. -/
def distinctSlots : List SafeSlot → Bool
  | [] => true
  | s :: t => !t.contains s && distinctSlots t

/-- A used port's SAP_CFG: as R395 with NOM_RATE 48 kHz and SYNC 0, MASTER by CLOCK (R536). -/
def SafeMix.cfgOk (x : SafeMix) (p : Nat) : Bool :=
  let cfg := x.cfg.getD p 0
  !bitOf x.ports p || (!sapCfgBad cfg 48000 && nomRate (bitsOf cfg 17 3) == 48000 && !bitOf cfg 20 && bitOf cfg 2 == (x.clock == 0))

/-- The loader's checks of a block (R536). -/
def safeOk (l : List Byte) : Bool :=
  let nIn := byteOf l 16
  let nOut := byteOf l 17
  let nTerms := byteOf l 18
  let len := ofBytes (slice l 6 2)
  let x := safeTables l
  ofBytes (slice l 0 4) == 0x53464D58 && ofBytes (slice l 4 2) == 1 && len == safeLen nIn nOut nTerms && decide (len ≤ l.length)
    && ofBytes (slice l 12 4) == crc32c (slice l 16 (len - 16))
    && decide (1 ≤ nIn ∧ nIn ≤ 16 ∧ 1 ≤ nOut ∧ nOut ≤ 64 ∧ 1 ≤ nTerms ∧ nTerms ≤ 128)
    && decide (x.clock < 2 ∧ x.ports < 4) && x.ins.all x.slotOk && x.outs.all x.slotOk
    && distinctSlots x.ins && distinctSlots x.outs
    && x.terms.all (fun t => decide (t.inp < nIn ∧ t.out < nOut))
    && x.delays.all (fun v => decide (v ≤ 4800)) && decide ((x.delays.map (· + 1)).foldl (· + ·) 0 ≤ 114688)
    && x.cfgOk 0 && x.cfgOk 1 && decide (1 ≤ x.start ∧ x.start ≤ 2048)

namespace Dev

/-- `n` bytes of flash from `a`. -/
def flashAt (d : Dev) (a n : Nat) : List Byte := (List.range n).map (fun i => sget (fun _ => 0xFF) d.pch.flash (a + i))

/-- The porch's state replaced. -/
def setPch (d : Dev) (x : PchState) : Dev := { d with pch := x }

/-- The header at `a`, if it is valid (R524, R534). -/
def headerAt (d : Dev) (a : Nat) : Option (List Byte) :=
  let l := d.flashAt a 256
  if ofBytes (slice l 0 4) = 0x4C465754 ∧ ofBytes (slice l 4 2) = 1 ∧ ofBytes (slice l 6 2) = 256
    ∧ ofBytes (slice l 252 4) = crc32c (l.take 252) then some l else none

/-- The header in use: at 0, or the backup (R524). -/
def flashHeader (d : Dev) : Option (List Byte) := (d.headerAt 0).orElse (fun _ => d.headerAt 0x10000)

/-- The block that a header field names at byte `i`, if it passes. -/
def safeBlockAt (d : Dev) (h : List Byte) (i : Nat) : Option SafeMix :=
  let l := d.flashAt (ofBytes (slice h i 4)) (min 9856 (ofBytes (slice h (i + 4) 4)))
  if safeOk l then some (safeTables l) else none

/-- The safe-mix block in use: the primary, or the backup (R524). -/
def safeBlock (d : Dev) : Option SafeMix :=
  match d.flashHeader with
  | none => none
  | some h => (d.safeBlockAt h 8).orElse (fun _ => d.safeBlockAt h 16)

/-! ### PE and the safe mix (R529 to R533) -/

/-- PE begins with a set of tables: empty delay lines, nothing due. -/
def peStart (d : Dev) (x : SafeMix) : Dev :=
  let d := d.setPch { d.pch with safe := some x, pipe := [], lines := List.replicate x.outs.length [], pe := .none, regs := .zero, rep := none }
  d.set PCH_STATUS.SAFE_RUN 1

/-- A landing register, in all its copies. -/
def setLanded (d : Dev) (a : Nat) (v : Word) : Dev :=
  let d := d.setReg a v
  { d with act := sset resetValue d.act a v, act1 := sset resetValue d.act1 a v, act2 := sset resetValue d.act2 a v }

/-- The slots of line `l` of port `p` among `s`, as a mask. -/
def lineMask (s : List SafeSlot) (p l : Nat) : Word :=
  BitVec.ofNat 32 ((s.filter (fun x => x.port == p && x.line == l)).foldl (fun m x => m ||| 2 ^ x.slot) 0)

/-- The loader programs a serial port and starts it (R523, R536). -/
def loadSap (d : Dev) (x : SafeMix) (p : Nat) : Dev :=
  if !bitOf x.ports p then d
  else
    let d := d.setReg (Adr.SAP_CFG p) (BitVec.ofNat 32 (x.cfg.getD p 0 % 2 ^ 21))
    let d := (d.setReg (Adr.SAP_CLK p) (BitVec.ofNat 32 (x.clk.getD p 0 % 4))).set (SAP_START.FRAMES p) x.start
    let d := (d.setLanded (Adr.SAP_MASK_RX0 p) (lineMask x.ins p 0)).setLanded (Adr.SAP_MASK_RX1 p) (lineMask x.ins p 1)
    let d := (d.setLanded (Adr.SAP_MASK_TX0 p) (lineMask x.outs p 0)).setLanded (Adr.SAP_MASK_TX1 p) (lineMask x.outs p 1)
    (d.set (SAP_CTRL.EN p) 1).sapStart p

/-- The porch loader's steps 3 and 4 (R523, R524). -/
def loadSafe (d : Dev) : Dev :=
  match d.flashHeader, d.safeBlock with
  | some h, some x =>
    let d := d.setReg Adr.PCH_SUBSYS (BitVec.ofNat 32 (ofBytes (slice h 32 4)))
    let d := (List.range 4).foldl (fun d p => d.set64 (Adr.PCH_MAC_LO p) (ofNet (slice h (40 + 6 * p) 6))) d
    ((d.loadSap x 0).loadSap x 1).peStart x
  | _, _ => (d.set PCH_STATUS.SAFE_BAD 1).raise 224

/-- The received words that the inputs name, from the last completed port frames (R527). -/
def safeInputs (d : Dev) (x : SafeMix) : List Int := x.ins.map (fun s => (d.sapAt s.port).rxPrev.getD (32 * s.line + s.slot) 0)

/-- The mix of output `o`: its terms summed exactly and narrowed (R529). -/
def safeSum (x : SafeMix) (ins : List Int) (o : Nat) : Int :=
  satTo 32 (roundShift ((x.terms.filter (fun t => t.out == o)).foldl (fun s t => s + t.gain * ins.getD t.inp 0) 0) 27)

/-- The FIR over the delayed samples: `line` holds the mix, newest first (R529). -/
def safeFir (h line : List Int) (delay : Nat) : Int :=
  satTo 32 (roundShift ((List.range 32).foldl (fun s j => s + h.getD j 0 * line.getD (delay + j) 0) 0) 31)

/-- PE's transmit words: the outputs at their slots. -/
def safeWords (x : SafeMix) (outs : List Int) (p : Nat) : List Int :=
  (List.range 64).map (fun i =>
    match x.outs.findIdx? (fun s => s.port == p && 32 * s.line + s.slot == i) with
    | some o => outs.getD o 0
    | none => 0)

/-- PE's transmit words of SAP0 and SAP1. -/
def setPe (d : Dev) (f : Nat → List Int) : Dev :=
  [0, 1].foldl (fun d p => d.setSap p { d.sapAt p with pe := f p }) d

/-- SAFE_FRAME: a frame of the safe clock; PE took `cycles` for its work. The result of a frame's inputs is transmitted two frames
later; work that is not done when the next frame starts leaves the words as they were (R529, R531). -/
def safeFrame (d : Dev) (cycles : Nat) : Dev :=
  let d := d.setPch { d.pch with frame := d.pch.frame + 1 }
  match d.pch.safe with
  | none => d
  | some x =>
    if !d.on PCH_STATUS.SAFE_RUN then d
    else
      let ins := d.safeInputs x
      let lines := (List.range x.outs.length).map (fun o =>
        ((safeSum x ins o) :: d.pch.lines.getD o []).take (x.delays.getD o 0 + 32))
      let outs := (List.range x.outs.length).map (fun o => safeFir (x.firs.getD o []) (lines.getD o []) (x.delays.getD o 0))
      let due := d.pch.pipe
      let d := d.setPe (fun p => safeWords x due p)
      let late := decide (4166 < cycles)
      let d := d.setPch { d.pch with lines := lines, pipe := if late then due else outs }
      let d := d.set PCH_PE_LOAD.CYCLES (max (d.get PCH_PE_LOAD.CYCLES) (min cycles 8191))
      if late then ((d.bump Adr.PCH_SAFE_XRUN_CNT).set PCH_STATUS.XRUN 1).raise 235 else d

/-- PE stops and its transmit words are 0. -/
def peStop (d : Dev) (h : PeHold) : Dev :=
  let d := (d.set PCH_STATUS.SAFE_RUN 0).setPe (fun _ => silence)
  d.setPch { d.pch with pe := h, pipe := [] }

/-- PE_FAULT with its code and the bundle's offset (R532): the third fault within 1 s leaves PE stopped. -/
def peFault (d : Dev) (code pc : Nat) : Dev :=
  if !d.on PCH_STATUS.SAFE_RUN then d
  else
    let recent := d.pch.faults.filter (fun t => decide (d.now - t < 800000000))
    let d := (d.set PCH_PE_FAULT.CODE code).set PCH_PE_FAULT.PC pc
    let d := ((d.bump Adr.PCH_PE_FAULT_CNT).set PCH_STATUS.PE_FAULT 1).raise 228
    let d := d.setPch { d.pch with faults := recent ++ [d.now] }
    if 2 ≤ recent.length then (d.peStop .none).set PCH_STATUS.SAFE_DEAD 1
    else (d.peStop .reload).set PCH_FL_STATUS.LOCKED 1

/-- PE_RESTART: the loader has read the block again, and PE restarts with it; without a valid block it stays stopped (R532). -/
def peRestart (d : Dev) : Dev :=
  if d.pch.pe ≠ .reload then d
  else
    let d := d.set PCH_FL_STATUS.LOCKED 0
    match d.safeBlock with
    | some x => d.peStart x
    | none => ((d.setPch { d.pch with pe := .none }).set PCH_STATUS.SAFE_BAD 1).raise 224

/-- Ports that the safe mix uses. -/
def safePorts (d : Dev) : List Nat :=
  match d.pch.safe with
  | none => []
  | some x => [0, 1].filter (bitOf x.ports)

/-- SAFE_RELOAD (R537): accepted only while MIX owns every port in PORTS; a block that fails keeps the old tables. -/
def safeReload (d : Dev) : Dev :=
  if !d.safePorts.all (fun p => d.on (PCH_SAFE_OWN.ACT p)) then d.set PCH_STATUS.IGNORED 1
  else
    match d.safeBlock with
    | none => d.raise 224
    | some x =>
      if d.pch.pe = .held then d.setPch { d.pch with safe := some x }
      else
        let d := d.setPch { d.pch with faults := [] }
        ((d.set PCH_STATUS.SAFE_DEAD 0).set PCH_FL_STATUS.LOCKED 0).peStart x

/-- The porch forces the safe path on the ports in PORTS (R543). -/
def force (d : Dev) : Dev := d.forceSafe d.safePorts

end Dev
end Sys2Proof.Machine
end

