-- ==== Sys2Proof/Machine/TskTake.lean ====
section
/-! DEFINITION. Sys2Proof/Machine/TskTake.lean: engine faults, takeovers, orphans, the spare role, shed steps (R227 to R235). -/
namespace Sys2Proof.Machine
namespace Dev

/-- Engine `e` is the spare. -/
def isSpare (d : Dev) (e : Nat) : Bool := !d.on TSK_SPARE.NONE && d.get TSK_SPARE.ENG == e

/-- Empty the spare role, or fill it; event 59 while it is empty. -/
def setSpare (d : Dev) (e : Option Nat) : Dev :=
  let d := d.set TSK_SPARE.NONE (b2n e.isNone)
  let d := match e with
    | some k => d.set TSK_SPARE.ENG k
    | none => d
  d.level 59 e.isNone

/-- The graph tasks that the stopped contexts of engine `e` held, the running one first. -/
def interrupted (d : Dev) (e : Nat) : List TaskInst :=
  let c := d.runCtx e
  ([c, other c].filterMap (fun c => if (d.ctxAt e c).mode == .aborted then d.runOf e c else none)).filterMap
    (fun r => if r.kind == .graph then some r.inst else none)

/-- The stopped contexts hold no task any longer. -/
def clearAborted (d : Dev) (e : Nat) : Dev :=
  [0, 1].foldl (fun d c =>
    if (d.ctxAt e c).mode = .aborted then (d.dropRun e c).setCtx e c { d.ctxAt e c with mode := .free, fault := none } else d) d

/-- Step 1 of a takeover of slot `k` from engine `e` onto the spare (R227). -/
def takeover (d : Dev) (k e : Nat) (l : List TaskInst) : Dev :=
  let sp := d.get TSK_SPARE.ENG
  let d := (d.set (slotEngFld k) sp).setSpare none
  let d := d.setTsk { d.tsk with take := d.tsk.take ++ [(⟨k, e, sp, .aQueued, d.now, l⟩ : Takeover)] }
  ((d.bump Adr.TSK_TAKEOVER_CNT).pmc (16 * 18 + 12) 1).tskStatus.raise 56

/-- TSK handles an engine-class fault of engine `e` (R227, R231, R235). -/
def engineLost (d : Dev) (e : Nat) : Dev :=
  let l := d.interrupted e
  let d := d.clearAborted e
  if d.isSpare e then d.setSpare none
  else
    match d.engSlot e with
    | none => d
    | some k =>
      match d.takeAt k with
      | some t => d.orphan k t.failed (t.tasks ++ l)
      | none =>
        if !d.on TSK_SPARE.NONE then d.takeover k e l
        else
          let during := d.tsk.take.filter (fun t => t.stage == .aQueued || t.stage == .aRunning)
          let d := d.orphan k e l
          during.foldl (fun d t => d.orphan t.slot t.failed t.tasks) d

/-- The report of an engine that has FAILED. -/
def engineFaultReport (d : Dev) (e : Nat) : Dev :=
  let stopped := [0, 1].any (fun c => (d.ctxAt e c).mode == .aborted)
  if d.engState e = engFailed ∧ (stopped = true ∨ d.isSpare e = true) then d.engineLost e else d

/-! ### The crossbar (R36, R229) -/

/-- Write the crossbar shadow of slot `k` and arm B32 with target 0; an armed B32 rejects the write, and it waits. -/
def xbarWrite (d : Dev) (k e : Nat) : Dev :=
  if d.armed 32 then d.setTsk { d.tsk with xbar := d.tsk.xbar ++ [(k, e)] }
  else ((d.set (xbarFld k) e).armMask (2 ^ 32) 0).1

/-- After a landing TSK tries its waiting writes again: all of them, then one arm. -/
def xbarRetry (d : Dev) : Dev :=
  if d.tsk.xbar.isEmpty || d.armed 32 then d
  else
    let l := d.tsk.xbar
    let d := d.setTsk { d.tsk with xbar := [] }
    ((l.foldl (fun d x => d.set (xbarFld x.1) x.2) d).armMask (2 ^ 32) 0).1

/-! ### The steps of a takeover (R227) -/

/-- Steps 3 and 4: TASK_A of the oldest takeover whose TASK_A has completed. -/
def takeoverComplete (d : Dev) : Dev :=
  match d.tsk.take.find? (fun t => t.stage == .aDone) with
  | none => d
  | some t =>
    let d := d.setReg Adr.TSK_TK_CYCLES (BitVec.ofNat 32 (min (2 * (d.now - t.start)) 0xFFFFFFFF))
    let d := (d.xbarWrite t.slot t.spare).raise 57
    let early := t.tasks.filter (fun x => x.phase != 2)
    let d := d.setTake { t with stage := .bQueued, tasks := t.tasks.filter (fun x => x.phase == 2) }
    d.redispatch (early.map (fun x => { x with only := some t.slot }))

/-- Step 5: TASK_B of the oldest takeover whose TASK_B has completed. -/
def taskBComplete (d : Dev) : Dev :=
  match d.tsk.take.find? (fun t => t.stage == .bDone) with
  | none => d
  | some t =>
    let d := d.setTsk { d.tsk with take := d.tsk.take.filter (fun x => x.slot != t.slot) }
    (d.redispatch (t.tasks.map (fun x => { x with only := some t.slot }))).tskStatus

/-! ### The spare role and shed steps (R230, R234) -/

/-- Take the lowest orphaned slot over onto the spare. -/
def takeOrphan (d : Dev) : Dev :=
  match (List.range 16).find? d.orphaned with
  | none => d
  | some k =>
    let e := ((d.tsk.orphans.find? (fun o => o.1 == k)).map (fun o => o.2)).getD 0x1F
    let d := d.setTsk { d.tsk with orphans := d.tsk.orphans.filter (fun o => o.1 != k) }
    d.takeover k e []

/-- ADD_SPARE names engine `e`: one that serves no slot and is in READY, ACTIVE or HALTED, while there is no spare. -/
def addSpare (d : Dev) (e : Nat) : Dev :=
  let st := d.engState e
  if d.on TSK_SPARE.NONE ∧ e < 17 ∧ (st = engReady ∨ st = engActive ∨ st = engHalted) ∧ d.engSlot e = none then
    (d.setSpare (some e)).takeOrphan
  else d

/-- UNSHED: the step to return to at the next landing. -/
def unshed (d : Dev) (step : Nat) : Dev := d.setTsk { d.tsk with unshed := some step }

end Dev
end Sys2Proof.Machine
end

