-- ==== Sys2Proof/Machine/Reset.lean ====
section
/-! DEFINITION. Sys2Proof/Machine/Reset.lean: cold, warm and block resets, the clocks, resets of masters (R45, R95, R502, R506 to R521, R554). -/
namespace Sys2Proof.Machine

/-! ### Cold reset (R511) -/

/-- The whole device in reset, around what a reset does not reach: the porch as given, host memory, the messages sent, model time. -/
def Dev.blank (pch : PchState) (host : List (Nat × Byte)) (bad : List Nat) (msix : List (Nat × Word)) (fresh now : Nat) : Dev :=
  { regs := []
    act := []
    act1 := []
    act2 := []
    latch := []
    hbuf := []
    mem := []
    host := host
    hostBad := bad
    msix := msix
    resp := .none
    fresh := fresh
    now := now
    lnd := ⟨false, none, 0, true, 0⟩
    eng := .replicate 17 .reset
    ring := .replicate 41 .reset
    asnCopy := .replicate 41 (0, 0)
    evc := ⟨[], [], 0, false, 0⟩
    porch := []
    porchSeq := 0
    xlt := ⟨[], []⟩
    ecc := ⟨[], [], [], [], [], [], none, [], 0, 0, 0⟩
    fab := ⟨[], []⟩
    tsk := .reset
    hall := .reset
    gang := .reset
    tbs := .reset
    mac := .replicate 4 .reset
    fe := .reset
    lortis := []
    sap := .replicate 8 .reset
    mix := .reset
    och := .reset
    dmc := .reset
    pch := pch
    clk := .reset }

namespace Dev

/-- COLD_RESET: everything, the porch included; the flash device, the OTP and the pins keep what they hold (R511). `cause` is 1 for
PORCH_PG and 2 for RESET_IN_N (R521). -/
def coldReset (d : Dev) (cause : Nat) : Dev :=
  (Dev.blank (.cold d.pch.flash d.pch.otp d.pch.chipPg d.pch.perstN) d.host d.hostBad d.msix d.fresh d.now).set RST_CAUSE.CAUSE cause

/-! ### Reset of a master (R502) -/

/-- Steps 1 to 3 of R502: requests that no target has granted are withdrawn, and the outstanding IDs become discard-pending. -/
def masterDrop (d : Dev) (m : Nat) : Dev :=
  let waits := (List.range 8).flatMap (fun c => ((d.dmcAt c).wait.filter (fun q => q.master == m)).map (fun q => (q.id, 8 + c)))
  let d := (List.range 8).foldl (fun d c => d.setDmc c { d.dmcAt c with wait := (d.dmcAt c).wait.filter (fun q => q.master != m) }) d
  let outs := d.fab.outs.filter (fun x => !(x.master == m && x.ans.isNone && waits.contains (x.id, x.target)))
  { d with fab := ⟨outs.map (fun x => if x.master = m then { x with stale := true } else x), d.fab.held.filter (fun q => q.master != m)⟩ }

/-- A target's block reset completes every transaction outstanding at it with ERROR (R504). -/
def targetDrop (d : Dev) (t : Nat) : Dev :=
  { d with fab := { d.fab with outs := d.fab.outs.map (fun x => if x.target = t ∧ x.ans = none then { x with ans := some (.error, []) } else x) } }

/-- The registers of a block's range return to reset values, in every copy. -/
def dropBlock (d : Dev) (a n : Nat) : Dev :=
  { d with
    regs := dropRange d.regs a n
    act := dropRange d.act a n
    act1 := dropRange d.act1 a n
    act2 := dropRange d.act2 a n
    latch := dropRange d.latch a n
    hbuf := dropRange d.hbuf a n }

/-! ### Blocks (R513) -/

/-- Source 183 is raised while a bank's spares are exhausted. -/
def spareLevel (d : Dev) : Dev :=
  let any := (List.range 304).any (fun b => d.on (ECC_BANK_STATUS.SPARE_EXHAUSTED b))
  (d.set ECC_STATUS.SPARE_EXHAUSTED (b2n any)).level 183 any

/-- A room's contents and its row redirections are lost (R439, R447). -/
def roomLost (d : Dev) (k : Nat) : Dev :=
  let d := d.zeroRange (roomAddr k 0) 0x800000
  let mine := fun (b : Nat) => decide (32 + 16 * k ≤ b) && decide (b < 48 + 16 * k)
  let d : Dev := { d with ecc := { d.ecc with
    rows := d.ecc.rows.filter (fun r => !mine r.bank)
    sparing := d.ecc.sparing.filter (fun r => !mine r.1)
    spared := d.ecc.spared.filter (fun r => !mine r.1) } }
  ((List.range 16).foldl (fun d i => d.setReg (Adr.ECC_BANK_STATUS (32 + 16 * k + i)) 0) d).spareLevel

/-- Block reset of engine `k` (R513): a task that it holds is reported as an engine-class fault, and so is the engine when the porch
resets it while it is mapped (R515). -/
def engReset (d : Dev) (k : Nat) (porch : Bool) : Dev :=
  let mapped := d.xbarSlot k
  let holds := [0, 1].any (fun c => (d.ctxAt k c).mode != .free)
  let d := [0, 1].foldl (fun d c => if (d.ctxAt k c).mode = .free then d
    else d.setCtx k c { d.ctxAt k c with mode := .aborted, fault := some 0 }) d
  let d := if holds || (porch && mapped.isSome) then d.engineLost k else d
  let d := (d.setEng k .reset).dropBlock (0x0200000 + 0x10000 * k) 0x10000
  let d := (d.level (32 + k) false).roomLost k
  let d := match mapped with
    | some s => d.resetBanks [s, 16 + s]
    | none => d
  d.targetDrop (16 + k)

/-- Block reset of a supervisor core: ownership of firmware commands moves, and its watchdog channel stops (R513, R545). -/
def scReset (d : Dev) (c : Nat) : Dev :=
  let d := d.set (PCH_WD_CFG.EN c) 0
  if d.get HIF_STATUS.FW_OWNER = c then d.fwMove else d

/-- Block reset of a serial port, with its bank (R45, R513). -/
def sapBlock (d : Dev) (p : Nat) : Dev :=
  let d := (d.sapReset p).resetBanks [40 + p]
  if p < 2 then d.set (PCH_SAFE_OWN.ACT p) 0 else d

/-- The effect of the reset of block `i` of RST register `r`: RST_ENG, RST_SC, RST_MAC, RST_DMC, RST_SAP, RST_MISC (R513). -/
def blockReset (d : Dev) (r i : Nat) (porch : Bool) : Dev :=
  match r with
  | 0 => d.engReset i porch
  | 1 => d.scReset i
  | 2 => d.macReset i
  | 3 => (d.dmcReset i).targetDrop (8 + i)
  | 4 => d.sapBlock i
  | _ =>
    match i with
    | 0 => (d.hifHeld).targetDrop 36
    | 1 => d.feReset.resetBanks [37, 38, 39]
    | _ => d.mixReset.resetBanks [34, 35, 36]

/-! ### The RST registers (R513 to R515, R521) -/

/-- RST register `r` and its busy register. -/
def rstFld (r i : Nat) : Fld := ⟨0x0020010 + 4 * r, i, 1⟩
def busyFld (r i : Nat) : Fld := ⟨0x0020040 + 4 * r, i, 1⟩

/-- The bits of RST register `r`. -/
def rstWidth (r : Nat) : Nat := [17, 2, 4, 8, 8, 3].getD r 0

/-- The master in a block (R488): an engine, a core, HIF, FE, MIX. -/
def rstMaster (r i : Nat) : Option Nat :=
  match r with
  | 0 => some i
  | 1 => some (17 + i)
  | 5 => [20, 21, 24][i]?
  | _ => none

/-- The block of a master that RST resets. -/
def masterBlock (m : Nat) : Option (Nat × Nat) :=
  if m < 17 then some (0, m)
  else if m < 19 then some (1, m - 17)
  else if m = 20 then some (5, 0)
  else if m = 21 then some (5, 1)
  else if m = 24 then some (5, 2)
  else none

/-- RST refuses the reset (R515). -/
def rstRefused (d : Dev) (r i : Nat) : Bool :=
  match r with
  | 0 => (d.xbarSlot i).isSome
  | 4 => decide (i < 2) && d.safePorts.contains i && !d.on (PCH_SAFE_OWN.ACT i)
  | _ => false

/-- The block leaves its reset: an engine begins its self-test (R95, R514). -/
def blockRelease (d : Dev) (r i : Nat) : Dev :=
  let d := match rstMaster r i with
    | some m => d.set (FAB_MSTR_STATUS.IN_RESET m) 0
    | none => d
  if r = 0 ∧ d.engState i = engOff then d.set (ENG_STATUS.STATE i) engSelftest else d

/-- A 1 written to a block's bit (R514, R515). -/
def rstAssert (d : Dev) (r i : Nat) (porch : Bool) : Dev :=
  if d.on (rstFld r i) then d
  else if !porch && d.rstRefused r i then (d.set RST_STATUS.REFUSED 1).raise 217
  else
    let d := d.set (rstFld r i) 1
    let d := match rstMaster r i with
      | some m => (d.set (busyFld r i) 1).masterDrop m
      | none => d
    d.blockReset r i porch

/-- A 0 written to a block's bit: the release waits for the busy bit (R514). -/
def rstRelease (d : Dev) (r i : Nat) : Dev :=
  if !d.on (rstFld r i) then d
  else
    let d := d.set (rstFld r i) 0
    if d.on (busyFld r i) then d else d.blockRelease r i

/-- A write of `w` to RST register `r`. -/
def rstWrite (d : Dev) (r : Nat) (w : Word) (porch : Bool) : Dev :=
  (List.range (rstWidth r)).foldl (fun d i => if bitOf w.toNat i then d.rstAssert r i porch else d.rstRelease r i) d

/-- RESET_BUSY_CLEAR: the port converter of master `m` has ended its drain (R502, step 4). -/
def busyClear (d : Dev) (m : Nat) : Dev :=
  match masterBlock m with
  | none => if d.clk.link.contains m then d.set (FAB_MSTR_STATUS.IN_RESET m) 1 else d
  | some (r, i) =>
    if !d.on (busyFld r i) then d
    else
      let d := ((d.set (busyFld r i) 0).set (FAB_MSTR_STATUS.IN_RESET m) 1).raise 216
      if d.on (rstFld r i) then d else d.blockRelease r i

/-- STALE_RESPONSE_ABSORB: a stale response arrives, is absorbed, and frees its ID (R502, R503). -/
def absorb (d : Dev) (m id t : Nat) : Dev :=
  match d.fab.outs.findIdx? (fun x => x.master == m && x.id == id && x.target == t && x.stale && x.ans.isSome) with
  | none => d
  | some i => { d with fab := { d.fab with outs := d.fab.outs.eraseIdx i } }

/-- What the porch link returns to reset values: TSK, the scrubber, DMC maintenance, the hall, GANG (R554). -/
def linkReset (d : Dev) (m : Nat) : Dev :=
  let d := d.masterDrop m
  match m with
  | 22 => (((d.setTsk .reset).resetBanks [33]).dropBlock 0x0050000 0x10000).level 58 false |>.level 59 false
  | 23 =>
    let d := (d.set ECC_SCRUB_CTRL.EN 0).set ECC_STATUS.SCRUB_RUNNING 0
    { d with ecc := { d.ecc with scrub := 0, since := d.now } }
  | 25 => (List.range 8).foldl (fun d c => d.setDmc c { d.dmcAt c with patrol := 0 }) d
  | 26 => (({ d with hall := .reset } : Dev).resetBanks [32]).dropBlock 0x01F0000 0x10000
  | _ => ((({ d with gang := .reset, lortis := [] } : Dev).resetBanks [48]).dropBlock 0x01D0000 0x10000).level 247 false

/-- RESET_MASTER (R554): assert or release the reset of master `m`, with no refusal. -/
def resetMaster (d : Dev) (m : Nat) (on : Bool) : Dev :=
  match masterBlock m with
  | some (r, i) => if !d.chipOn then d else if on then d.rstAssert r i true else d.rstRelease r i
  | none =>
    if m = mPe then
      if on then d.peStop .held
      else if d.pch.pe = .held then (d.setPch { d.pch with pe := .reload }).set PCH_FL_STATUS.LOCKED 1
      else d
    else if !d.chipOn || !(decide (22 ≤ m) && decide (m < 28)) then d
    else if on then
      if d.linkHeld m then d
      else
        let d := d.linkReset m
        { d with clk := { d.clk with link := d.clk.link ++ [m] } }
    else
      let d : Dev := { d with clk := { d.clk with link := d.clk.link.filter (· != m) } }
      d.set (FAB_MSTR_STATUS.IN_RESET m) 0

/-! ### Warm reset (R511, R512) -/

/-- Registers that a warm reset keeps: PCH, SAP0 and SAP1, the P0 wake registers, HIF_EVFAULT, RST_CAUSE (R512). -/
def warmKeeps (a : Nat) : Bool :=
  (decide (0x0180000 ≤ a) && decide (a < 0x0190000)) || (decide (0x0160000 ≤ a) && decide (a < 0x0162000))
  || (decide (0x0101000 ≤ a) && decide (a < 0x0104000)) || (decide (0x0060040 ≤ a) && decide (a < 0x006004C)) || a == Adr.RST_CAUSE

/-- The live bits of CLK_STATUS, which no reset of the chip domain changes (R520). -/
def clkLive : Nat := 0xFF

/-- DRAM channel `c` holds its contents in self-refresh (R484, R512). -/
def inSelfRefresh (d : Dev) (c : Nat) : Bool := d.dmcState c == dmcSref || (d.dmcState c == dmcOff && (d.dmcAt c).kept)

/-- Memory that a warm reset keeps: porch SRAM and the DRAM in self-refresh (R512). -/
def warmMem (d : Dev) (k : Nat) : Bool := if isDramKey k then d.inSelfRefresh (keyChan k) else isPorchKey k

/-- The chip domain returns to reset values and is held in reset; the watchdog channels stop (R512, R545). -/
def chipReset (d : Dev) : Dev :=
  let n := Dev.blank d.pch d.host d.hostBad d.msix d.fresh d.now
  let keep := fun (l : List (Nat × Word)) => l.filter (fun x => warmKeeps x.1)
  let n : Dev := { n with
    regs := keep d.regs
    act := keep d.act
    act1 := keep d.act1
    act2 := keep d.act2
    mem := d.mem.filter (fun x => d.warmMem x.1)
    ecc := { n.ecc with
      flips := d.ecc.flips.filter (fun x => d.warmMem x.1)
      tags := d.ecc.tags.filter (fun x => d.warmMem x.1)
      ceWb := d.ecc.ceWb.filter d.warmMem
      pscrub := d.ecc.pscrub }
    resp := d.resp
    asnCopy := d.asnCopy
    porch := d.porch
    porchSeq := d.porchSeq
    sap := vput (vput n.sap 0 (d.sapAt 0)) 1 (d.sapAt 1)
    fe := { n.fe with conc := d.fe.conc.filter (fun x => decide (512 ≤ x.1) && decide (x.1 < 516)) }
    dmc := { n.dmc with chan := Vector.ofFn (fun c : Fin 8 => .resetWith (d.inSelfRefresh c.val)) } }
  let n := n.setReg Adr.CLK_STATUS (BitVec.ofNat 32 ((d.reg Adr.CLK_STATUS).toNat % (clkLive + 1)))
  ((n.set PCH_STATUS.CHIP 0).set (PCH_WD_CFG.EN 0) 0).set (PCH_WD_CFG.EN 1) 0

/-- WARM_RESET: the porch forces the safe path, then resets the chip domain (R511, R543). In standby and after a thermal trip the
domain is in reset already and stays so. -/
def warmReset (d : Dev) (cause : Nat) : Dev :=
  if !d.pch.up || d.inStandby || d.on PCH_STATUS.TRIPPED then d
  else
    let d := d.force.chipReset
    let d := (d.set RST_CAUSE.CAUSE cause).set RST_CAUSE.WARM_CNT (min 0xFFFF (d.get RST_CAUSE.WARM_CNT + 1))
    d.setPch { d.pch with warmDue := true }

/-- CHIP_PG goes low (R511). -/
def chipPgFall (d : Dev) : Dev := if d.pch.chipPg then ({ d with pch := { d.pch with chipPg := false } } : Dev).warmReset 5 else d

/-- A fatal event of the chip domain: a missed landing acknowledgement raises event 7, and the porch resets the chip domain if
FATAL_RESET is 1 (R48, R543). -/
def fatal (d : Dev) : Dev :=
  let d := if d.chipOn then (d.set LND_STATUS.LANDING_FAULT 1).raise 7 else d
  if d.on PCH_CFG.FATAL_RESET then d.warmReset 6 else d.force

/-- CHIP_RESET_EXIT: the chip domain leaves reset, the engines begin their self-test, HIF has no link yet, and EVC takes the level
sources anew (R512, R526, R551). -/
def chipExit (d : Dev) : Dev :=
  if !d.pch.up || !d.pch.chipPg || !d.on CLK_STATUS.ROOT_LOCK || d.get PCH_STATUS.CHIP != 0 || d.on PCH_STATUS.TRIPPED then d
  else
    let d := (d.set PCH_STATUS.CHIP 1).setReg Adr.PCH_BOOT_STATUS 0
    let d := (List.range 17).foldl (fun d k => d.set (ENG_STATUS.STATE k) engSelftest) d
    let d := ((d.level 68 true).level 211 (d.on CLK_STATUS.ON_BACKUP)).level 214 (!d.on CLK_STATUS.PCIE_LOCK)
    let d := (d.level 227 (d.on PCH_STATUS.THERM_WARN)).sapLevel
    let d := if d.pch.warmDue then d.raise 218 (d.get RST_CAUSE.CAUSE) else d
    let d := if d.pch.wakeDue then d.raise 233 else d
    d.setPch { d.pch with warmDue := false, wakeDue := false }

/-! ### Clocks (R507 to R510) -/

/-- The root PLL loses lock: the four clocks stop (R507, R508). -/
def rootUnlock (d : Dev) : Dev :=
  if !d.on CLK_STATUS.ROOT_LOCK then d
  else
    let d := d.set CLK_STATUS.ROOT_LOCK 0
    if !d.chipOn then d else ((d.set CLK_STATUS.ROOT_UNLOCK 1).bump Adr.CLK_ROOT_UNLOCK_CNT).raise 212

/-- The crystal fails: AON moves to the backup oscillator, once (R508). -/
def xtalFail (d : Dev) : Dev :=
  let d := d.set CLK_STATUS.XTAL_OK 0
  if d.on CLK_STATUS.ON_BACKUP then d
  else
    let d := (d.set CLK_STATUS.ON_BACKUP 1).level 211 true
    let d := if d.chipOn then (d.set CLK_STATUS.XTAL_FAIL 1).bump Adr.CLK_XTAL_FAIL_CNT else d
    d.rootUnlock

/-- The crystal runs within its range again (R508). -/
def xtalOk (d : Dev) : Dev := d.set CLK_STATUS.XTAL_OK 1

/-- XTAL_RETRY: AON returns to the crystal while XTAL_OK is 1, with one relock (R508). -/
def xtalRetry (d : Dev) : Dev :=
  if !d.on CLK_STATUS.XTAL_OK || !d.on CLK_STATUS.ON_BACKUP then d
  else ((d.set CLK_STATUS.ON_BACKUP 0).level 211 false).rootUnlock

/-- The root PLL locks (R507); it is stopped in standby and after a thermal trip (R548, R549). -/
def rootLock (d : Dev) : Dev :=
  if !d.pch.up || d.inStandby || d.on PCH_STATUS.TRIPPED then d else d.set CLK_STATUS.ROOT_LOCK 1

/-- The PLL of port `p` is locked. -/
def netLocked (d : Dev) (p : Nat) : Bool := bitOf (d.get CLK_STATUS.NET_LOCK) p

/-- Source 213 is raised while an enabled port's PLL is unlocked (R509). -/
def netLevel (d : Dev) : Dev := d.level 213 ((List.range 4).any (fun p => d.on (MAC_CTRL.PORT_EN p) && !d.netLocked p))

/-- A SerDes PLL loses lock and takes its link down (R509). -/
def netUnlock (d : Dev) (p : Nat) : Dev :=
  ((d.set CLK_STATUS.NET_LOCK (withBits (d.get CLK_STATUS.NET_LOCK) p 1 0)).linkDown p false).netLevel

def netLock (d : Dev) (p : Nat) : Dev := (d.set CLK_STATUS.NET_LOCK (withBits (d.get CLK_STATUS.NET_LOCK) p 1 1)).netLevel

/-- The PCIe PLL loses lock and takes the link down (R509). -/
def pcieUnlock (d : Dev) : Dev := ((d.set CLK_STATUS.PCIE_LOCK 0).level 214 true).pcieDown

def pcieLock (d : Dev) : Dev := (d.set CLK_STATUS.PCIE_LOCK 1).level 214 false

/-- MEAS_GO starts a measurement of the selected domain; one that runs goes on (R510). -/
def measGo (d : Dev) : Dev :=
  if d.on CLK_STATUS.MEAS_BUSY then d
  else
    let d : Dev := { d with clk := { d.clk with meas := some (d.get CLK_CTRL.MEAS_SEL, d.get CLK_CTRL.MEAS_IDX) } }
    d.set CLK_STATUS.MEAS_BUSY 1

/-- The measurement ends with `khz` (R510). -/
def measDone (d : Dev) (khz : Nat) : Dev :=
  if !d.on CLK_STATUS.MEAS_BUSY then d
  else
    let d : Dev := { d with clk := { d.clk with meas := none } }
    ((d.set CLK_STATUS.MEAS_BUSY 0).setReg Adr.CLK_MEAS_RESULT (BitVec.ofNat 32 khz)).raise 215

end Dev
end Sys2Proof.Machine
end

