-- ==== Sys2Proof/Machine/EngCtl.lean ====
section
/-! DEFINITION. Sys2Proof/Machine/EngCtl.lean: the commands of ENG_CTRL, the end of the self-test, injections, and the debug access (R63, R95 to R97, R144, R439, R604, R605). -/
namespace Sys2Proof.Machine
namespace Dev

/-- ENG_CTRL.ENABLE: READY to ACTIVE, each context free with the accept mask 0b1111; ignored in every other state (R95, R99, R144). -/
def engEnable (d : Dev) (k : Nat) : Dev :=
  if d.engState k = engReady then
    let d := [0, 1].foldl (fun d c => d.setCtx k c { d.ctxAt k c with mode := .free, accept := 0b1111 }) d
    d.set (ENG_STATUS.STATE k) engActive
  else d

/-- A pre-emption switch is in progress: the pre-empting task has been handed over and has not issued (R86, R99). -/
def switching (d : Dev) (k : Nat) : Bool :=
  let x := d.ctxAt k (d.runCtx k)
  let o := d.ctxAt k (other (d.runCtx k))
  x.mode == .running && o.mode == .delivered && decide (o.cls ≤ 1) && decide (2 ≤ x.cls) && !x.wasParked
    && d.on (ENG_CFG.PREEMPT_EN k) && d.on (ENG_CFG.CTX1_EN k)

/-- The engine stops issuing at the bundle boundary, after a running REP and a switch in progress, and enters HALTED (R97, R99). -/
def engineHalted (d : Dev) (k : Nat) : Dev :=
  let c := d.runCtx k
  let x := d.ctxAt k c
  if d.engState k = engActive ∧ (d.engAt k).haltReq = true ∧ (x.rep = none ∨ x.mode ≠ .running) ∧ d.switching k = false then
    let d := d.closeOpen k c
    if d.engState k = engActive then
      (d.setEng k { d.engAt k with haltReq := false }).set (ENG_STATUS.STATE k) engHalted
    else d
  else d

/-- ENG_CTRL.HALT: an engine that issues nothing is at a bundle boundary at once (R97). -/
def engHalt (d : Dev) (k : Nat) : Dev :=
  if d.engState k = engActive then
    let d := d.setEng k { d.engAt k with haltReq := true }
    if (d.ctxAt k (d.runCtx k)).mode = .running then d else d.engineHalted k
  else d

/-- ENG_CTRL.RESUME: HALTED to ACTIVE; a HALT that has not taken effect is given up (R95, R605). -/
def engResume (d : Dev) (k : Nat) : Dev :=
  if d.engState k = engHalted then d.set (ENG_STATUS.STATE k) engActive
  else if d.engState k = engActive then d.setEng k { d.engAt k with haltReq := false }
  else d

/-- A write of ENG_CTRL: the action bits act in bit order (R605). ENABLE and HALT together halt the engine that has just been
enabled; HALT and RESUME together leave an ACTIVE engine ACTIVE. -/
def engCtrl (d : Dev) (k : Nat) (w : Word) : Dev :=
  let d := if w.getLsbD 0 then d.engEnable k else d
  let d := if w.getLsbD 1 then d.engHalt k else d
  let d := if w.getLsbD 2 then d.engResume k else d
  if w.getLsbD 3 then d.icinv k else d

/-- ENG_INJECT: a new write replaces an injection not yet taken (R604). Targets other than 1 to 4 arm nothing. -/
def engInject (d : Dev) (k : Nat) (w : Word) : Dev :=
  let t := bitsOf w.toNat 0 3
  d.setEng k { d.engAt k with inj := if 1 ≤ t ∧ t ≤ 4 then some (t, bitsOf w.toNat 3 1) else none }

/-- The self-test of engine `k` ends: the result of the register files and the arrays, the room banks that fail and their failing rows
(R95, R439). -/
def selftestEnd (d : Dev) (k : Nat) (pass : Bool) (fails : Nat) (rows : List Nat) : Dev :=
  if d.engState k = engSelftest then
    let d := d.bankResults (32 + 16 * k) 16 fails rows
    let ok := pass && fails % 65536 == 0
    (d.set (ENG_STATUS.SELFTEST_PASS k) (b2n ok)).set (ENG_STATUS.STATE k) (if ok then engReady else engFailed)
  else d

/-! ### Debug access (R97) -/

/-- Word `w` of a value of `n` bits. -/
def wordOf (v : Nat) (w : Nat) : Word := BitVec.ofNat 32 (v / 2 ^ (32 * w))

/-- The value `old` of `n` bits with its word `w` replaced. -/
def withWord (n old w : Nat) (x : Word) : Nat := withBits old (32 * w) 32 x.toNat % 2 ^ n

/-- An accumulator lane as three words: V80, and WC in bits 19 to 16 of word 2. -/
def accBits (x : Acc84) : Nat := x.v.toNat + 2 ^ 80 * x.wc.toNat

/-- The lane of those bits. -/
def accOf (n : Nat) : Acc84 := ⟨BitVec.ofNat 80 n, BitVec.ofNat 4 (n / 2 ^ 80)⟩

/-- The selected element's value and width; `none` where the selection names none. -/
def dbgElem (r : RegFile) (file ix ln : Nat) : Option (Nat × Nat) :=
  match file with
  | 0 => some ((r.getS ix).toNat, 64)
  | 1 => some ((lane (r.getV ix) ln).toNat, 32)
  | 2 => if ix < 8 then some (accBits (lane (r.getA ix) ln), 84) else none
  | 3 => if ix < 8 then some ((r.getK ix).toNat, 32) else none
  | 4 => if ix < 8 then some ((r.getC ix).toNat, 64) else none
  | 5 => if ix < 4 then some ((lane (r.getD ix) ln).toNat, 32) else none
  | 6 =>
    match ix with
    | 0 => some (r.pc.toNat, 23)
    | 1 => some (r.ovf.toNat, 32)
    | 2 => some (r.lost.toNat, 32)
    | 3 => some (r.wrap.toNat, 32)
    | _ => none
  | _ => none

/-- The registers with the selected element replaced. The PC keeps to a bundle's address. -/
def dbgPut (r : RegFile) (file ix ln v : Nat) : RegFile :=
  match file with
  | 0 => r.setS ix (BitVec.ofNat 64 v)
  | 1 => r.setV ix ((r.getV ix).set! ln (BitVec.ofNat 32 v))
  | 2 => r.setA ix ((r.getA ix).set! ln (accOf v))
  | 3 => r.setK ix (BitVec.ofNat 32 v)
  | 4 => r.setC ix (BitVec.ofNat 64 v)
  | 5 => r.setD ix ((r.getD ix).set! ln (BitVec.ofNat 32 v))
  | 6 =>
    match ix with
    | 0 => { r with pc := BitVec.ofNat 23 (v / 16 * 16) }
    | 1 => { r with ovf := BitVec.ofNat 32 v }
    | 2 => { r with lost := BitVec.ofNat 32 v }
    | 3 => { r with wrap := BitVec.ofNat 32 v }
    | _ => r
  | _ => r

/-- The element that ENG_DBG_SEL selects: context, file, number, lane, word. -/
def dbgSel (d : Dev) (k : Nat) : Nat × Nat × Nat × Nat × Nat :=
  (d.get (ENG_DBG_SEL.CTX k), d.get (ENG_DBG_SEL.FILE k), d.get (ENG_DBG_SEL.INDEX k), d.get (ENG_DBG_SEL.LANE k), d.get (ENG_DBG_SEL.WORD k))

/-- A read of ENG_DBG_DATA: 0 unless the engine is HALTED (R97). -/
def dbgRead (d : Dev) (k : Nat) : Word :=
  if d.engState k = engHalted then
    match d.dbgSel k with
    | (c, file, ix, ln, w) =>
      match dbgElem (d.ctxAt k c).r file ix ln with
      | some (v, _) => wordOf v w
      | none => 0
  else 0

/-- A write of ENG_DBG_DATA: ignored unless the engine is HALTED (R97). The element gets good parity. -/
def dbgWrite (d : Dev) (k : Nat) (x : Word) : Dev :=
  if d.engState k = engHalted then
    match d.dbgSel k with
    | (c, file, ix, ln, w) =>
      match dbgElem (d.ctxAt k c).r file ix ln with
      | some (v, n) =>
        let y := d.ctxAt k c
        let l := if file = 1 ∨ file = 2 ∨ file = 5 then ln else 0
        d.setCtx k c { y with
          r := dbgPut y.r file ix ln (withWord n v w x)
          bad := y.bad.filter (fun b => b != (⟨file, ix, l⟩ : BadParity)) }
      | none => d
  else d

/-- An access to ENG_DBG_DATA through ENG_DBG_SEL. -/
def dbgAccess (d : Dev) (k : Nat) (x : Option Word) : Dev :=
  match x with
  | some v => d.dbgWrite k v
  | none => { d with resp := .okay (d.dbgRead k).toNat }

end Dev
end Sys2Proof.Machine
end

