-- ==== Sys2Proof/Machine/Secure.lean ====
section
/-! DEFINITION. Sys2Proof/Machine/Secure.lean: SHA-384 (FIPS 180-4) and the ECDSA check over P-384 (FIPS 186-5), which the boot ROM uses (R538 to R540). -/
namespace Sys2Proof.Machine

/-! ### SHA-384 -/

/-- The integer part of the square root of `n`, below 2^b. -/
def sqrtBelow (n : Nat) : Nat → Nat → Nat
  | 0, x => x
  | b + 1, x => sqrtBelow n b (if (x + 2 ^ b) ^ 2 ≤ n then x + 2 ^ b else x)

/-- The integer part of the cube root of `n`, below 2^b. -/
def cbrtBelow (n : Nat) : Nat → Nat → Nat
  | 0, x => x
  | b + 1, x => cbrtBelow n b (if (x + 2 ^ b) ^ 3 ≤ n then x + 2 ^ b else x)

/-- The first 80 primes. -/
def primes80 : List Nat := ((List.range 410).filter (fun n => decide (2 ≤ n) && (List.range 21).all (fun i => decide (i < 2) || decide (n ≤ i) || n % i != 0)))

/-- The round constants: the first 64 bits of the fractions of the cube roots of the first 80 primes. -/
def shaK : List Nat := primes80.map (fun p => cbrtBelow (2 ^ 192 * p) 68 0 % 2 ^ 64)

/-- The initial values: the first 64 bits of the fractions of the square roots of the ninth to sixteenth primes. -/
def shaH : List Nat := ((primes80.drop 8).take 8).map (fun p => sqrtBelow (2 ^ 128 * p) 68 0 % 2 ^ 64)

/-- A 64-bit rotation right. -/
def rotr (x : BitVec 64) (n : Nat) : BitVec 64 := x.rotateRight n

/-- The message schedule: the last 16 words, newest first, and all words, newest first. -/
def schedule : Nat → List (BitVec 64) → List (BitVec 64)
  | 0, w => w
  | n + 1, w =>
    let a := w.getD 14 0
    let b := w.getD 1 0
    let s0 := rotr a 1 ^^^ rotr a 8 ^^^ (a >>> 7)
    let s1 := rotr b 19 ^^^ rotr b 61 ^^^ (b >>> 6)
    schedule n ((s1 + w.getD 6 0 + s0 + w.getD 15 0) :: w)

/-- One round of the compression over a to h. -/
def shaRound (v : List (BitVec 64)) (kw : Nat × BitVec 64) : List (BitVec 64) :=
  match v with
  | [a, b, c, d, e, f, g, h] =>
    let s1 := rotr e 14 ^^^ rotr e 18 ^^^ rotr e 41
    let t1 := h + s1 + ((e &&& f) ^^^ (~~~e &&& g)) + BitVec.ofNat 64 kw.1 + kw.2
    let s0 := rotr a 28 ^^^ rotr a 34 ^^^ rotr a 39
    let t2 := s0 + ((a &&& b) ^^^ (a &&& c) ^^^ (b &&& c))
    [t1 + t2, a, b, c, d + t1, e, f, g]
  | _ => v

/-- The compression of one 128 B block. -/
def shaBlock (h : List (BitVec 64)) (l : List Byte) : List (BitVec 64) :=
  let w := (List.range 16).map (fun i => BitVec.ofNat 64 (ofNet (slice l (8 * i) 8)))
  let ws := (schedule 64 w.reverse).reverse
  List.zipWith (· + ·) h ((shaK.zip ws).foldl shaRound h)

/-- The blocks of a padded message. -/
def shaBlocks : Nat → List (BitVec 64) → List Byte → List (BitVec 64)
  | 0, h, _ => h
  | n + 1, h, l => shaBlocks n (shaBlock h (l.take 128)) (l.drop 128)

/-- SHA-384 of a message: 48 B. -/
def sha384 (m : List Byte) : List Byte :=
  let l := m ++ [0x80] ++ List.replicate ((239 - m.length % 128) % 128) 0 ++ netOf 16 (8 * m.length)
  ((shaBlocks (l.length / 128) (shaH.map (BitVec.ofNat 64)) l).take 6).flatMap (fun x => netOf 8 x.toNat)

/-! ### P-384 -/

/-- The field prime, the group order, and the constant b of the curve. -/
def p384 : Nat := 2 ^ 384 - 2 ^ 128 - 2 ^ 96 + 2 ^ 32 - 1
def n384 : Nat := 0xffffffffffffffffffffffffffffffffffffffffffffffffc7634d81f4372ddf581a0db248b0a77aecec196accc52973
def b384 : Nat := 0xb3312fa7e23ee7e4988e056be3f82d19181d9c6efe8141120314088f5013875ac656398d8a2ed19d2a85c8edd3ec2aef

/-- The base point. -/
def g384 : Nat × Nat :=
  (0xaa87ca22be8b05378eb1c71ef320ad746e1d3b628ba79b9859f741e082542a385502f25dbf55296c3a545e3872760ab7,
    0x3617de4a96262c6f5d9e98bf9292dc29f8f41dbd289a147ce9da3113b5f0b8c00a60b1ce1d7e819d7a431d7c90ea0e5f)

/-- x^e modulo m, over the low `b` bits of e. -/
def powMod (m x e : Nat) : Nat → Nat
  | 0 => 1 % m
  | b + 1 =>
    let r := powMod m x (e / 2) b
    r * r * (if e % 2 = 1 then x else 1) % m

/-- The inverse modulo a prime below 2^384. -/
def invMod (m x : Nat) : Nat := powMod m x (m - 2) 384

/-- A point of the curve, `none` at infinity. -/
abbrev Point := Option (Nat × Nat)

/-- Addition on the curve. -/
def addPoint (s t : Point) : Point :=
  match s, t with
  | none, t => t
  | s, none => s
  | some (x1, y1), some (x2, y2) =>
    if x1 = x2 ∧ (y1 + y2) % p384 = 0 then none
    else
      let l := if x1 = x2 then (3 * x1 * x1 + (p384 - 3)) * invMod p384 (2 * y1) % p384
        else (y2 + p384 - y1) * invMod p384 ((x2 + p384 - x1) % p384) % p384
      let x := (l * l + 2 * p384 - x1 - x2) % p384
      some (x, (l * (x1 + p384 - x) + (p384 - y1)) % p384)

/-- Multiplication by the low `b` bits of `k`. -/
def mulPoint (t : Point) (k : Nat) : Nat → Point
  | 0 => none
  | b + 1 =>
    let r := mulPoint t (k / 2) b
    let r := addPoint r r
    if k % 2 = 1 then addPoint r t else r

/-- A public key on the curve. -/
def onCurve (x y : Nat) : Bool := decide (x < p384) && decide (y < p384) && y * y % p384 == (x * x * x + (p384 - 3) * x + b384) % p384

/-- The ECDSA check of (r, s) over a digest `e` with the public key (x, y) (FIPS 186-5). -/
def ecdsaOk (x y r s e : Nat) : Bool :=
  if onCurve x y && decide (1 ≤ r) && decide (r < n384) && decide (1 ≤ s) && decide (s < n384) then
    let w := invMod n384 s
    match addPoint (mulPoint (some g384) (e * w % n384) 384) (mulPoint (some (x, y)) (r * w % n384) 384) with
    | none => false
    | some (px, _) => px % n384 == r
  else false

end Sys2Proof.Machine
end

