-- ==== Sys2Proof/Machine/Pch.lean ====
section
/-! DEFINITION. Sys2Proof/Machine/Pch.lean: the stages of the start, secure boot, the watchdog, temperature, standby, flash and OTP, the management port (R522 to R526, R538 to R558). -/
namespace Sys2Proof.Machine

/-! ### The firmware image (R538) -/

/-- A segment: FLASH_OFS, LEN, LOAD_ADDR. -/
structure Segment where
  ofs : Nat
  len : Nat
  load : Nat
  deriving DecidableEq, Repr

/-- Bytes of the header and the largest segment table. -/
abbrev headMax : Nat := 768

/-- The segments of an image. -/
def segsOfImage (l : List Byte) : List Segment :=
  (entriesAt l 256 16 (ofBytes (slice l 6 2))).map (fun e => ⟨ofBytes (slice e 0 4), ofBytes (slice e 4 4), ofBytes (slice e 8 8)⟩)

/-- MAGIC, VERSION and NSEG are right. -/
def headOk (l : List Byte) : Bool :=
  ofBytes (slice l 0 4) == 0x57465754 && ofBytes (slice l 4 2) == 1 && decide (1 ≤ ofBytes (slice l 6 2) ∧ ofBytes (slice l 6 2) ≤ 32)

/-- No two segments overlap. -/
def apart : List Segment → Bool
  | [] => true
  | s :: t => t.all (fun u => decide (s.load + s.len ≤ u.load ∨ u.load + u.len ≤ s.load)) && apart t

/-- ENTRY. -/
def entryPoint (l : List Byte) : Nat := ofBytes (slice l 16 8)

/-- The rules of R538 for the segments of an image of `n` bytes. -/
def segsOk (l : List Byte) (n : Nat) : Bool :=
  let segs := segsOfImage l
  segs.all (fun s => s.len % 64 == 0 && decide (pantryBase ≤ s.load) && decide (s.load + s.len ≤ 0x12000000) && decide (s.ofs + s.len ≤ n))
    && apart segs && segs.any (fun s => decide (s.load ≤ entryPoint l) && decide (entryPoint l < s.load + s.len))
    && decide ((segs.map (fun s => s.len)).foldl (· + ·) 0 ≤ 0x2000000)

/-- What the digest covers: the header with SIG omitted, the table, the segments in order (R540). -/
def digestInput (l : List Byte) : List Byte :=
  l.take 120 ++ slice l 216 (256 + 16 * ofBytes (slice l 6 2) - 216) ++ (segsOfImage l).flatMap (fun s => slice l s.ofs s.len)

namespace Dev

/-! ### OTP (R539) -/

def otpWord (d : Dev) (i : Nat) : Nat := (sget (fun _ => (0 : Word)) d.pch.otp i).toNat
def secure (d : Dev) : Bool := bitOf (d.otpWord 1) 0
def svnMin (d : Dev) : Nat := ((List.range 8).map (fun i => popCount 32 (d.otpWord (2 + i)))).foldl (· + ·) 0

/-- The slot whose key hash is that of the public key and is not revoked (R540). A digest's first word lies in the lowest word, most
significant byte first. -/
def keySlot (d : Dev) (pubkey : List Byte) : Option Nat :=
  let h := sha384 pubkey
  (List.range 4).find? (fun k => (List.range 12).flatMap (fun i => netOf 4 (d.otpWord (16 + 12 * k + i))) == h && !bitOf (d.otpWord 1) (2 + k))

/-- A write to PCH that PCH does not take (R558). -/
def pchIgnored (d : Dev) : Dev := ((d.bump Adr.PCH_IGNORED_CNT).set PCH_STATUS.IGNORED 1).raise 236

/-- The bits of OTP word `i` that accept programming: once SECURE is 1, only KEY_REVOKE and SVN_MIN do (R539). -/
def otpMask (d : Dev) (i : Nat) : Nat :=
  if !d.secure then 0xFFFFFFFF else if i = 1 then 0x3C else if 2 ≤ i ∧ i < 10 then 0xFFFFFFFF else 0

/-- OTP_PROGRAM: the 1 bits of `w` go into the word that PCH_OTP_ADDR names; bits that take no programming are ignored under R558. -/
def otpProgram (d : Dev) (w : Word) : Dev :=
  let i := d.get PCH_OTP_ADDR.WORD
  let old := d.otpWord i
  let d := d.setPch { d.pch with otp := sset (fun _ => (0 : Word)) d.pch.otp i (BitVec.ofNat 32 (old ||| (w.toNat &&& d.otpMask i))) }
  if w.toNat &&& (0xFFFFFFFF - (old ||| d.otpMask i)) &&& 0xFFFFFFFF = 0 then d else d.pchIgnored

/-! ### Stage 0 (R522 to R525) -/

/-- PORCH_RESET_EXIT: the porch leaves reset with the straps SMB_ADDR, the flash bytes and OTP words that the system holds by now, and
the result of porch SRAM's self-test; the loader starts the safe path (R523, R524). -/
def porchExit (d : Dev) (straps : Nat) (flash : List (Nat × Byte)) (otp : List (Nat × Word)) (bist : Bool) : Dev :=
  if d.pch.up then d
  else
    let f := flash.foldl (fun m x => sset (fun _ => (0xFF : Byte)) m (x.1 % 2 ^ 32) x.2) d.pch.flash
    let o := otp.foldl (fun m x => sset (fun _ => (0 : Word)) m (x.1 % 256) x.2) d.pch.otp
    let d := d.setPch { d.pch with up := true, wakeOut := true, flash := f, otp := o }
    let d := (d.set PCH_SMB_CFG.ADDR straps).set PCH_SRAM_STATUS.BIST_PASS (b2n bist)
    d.loadSafe

/-- CHIP_PG_RISE (R526). -/
def chipPgRise (d : Dev) : Dev := d.setPch { d.pch with chipPg := true }

/-! ### Stage 1: the boot ROM (R540) -/

abbrev mSc0 : Nat := 17

/-- LAST_ERR is written (R540, R556). -/
def bootErr (d : Dev) (e : Nat) : Dev := (d.set PCH_BOOT_STATUS.LAST_ERR e).raise 229

/-- host_wait: the boot ROM opens BAR4 and waits for the host. -/
def hostWait (d : Dev) : Dev := ((d.set HIF_CTRL.BAR4_EN 1).set HIF_CTRL.BAR4_WR_EN 1).set PCH_BOOT_STATUS.CODE 9

/-- The segments are copied to LOAD_ADDR. -/
def copySegs (d : Dev) (l : List Byte) : Dev := (segsOfImage l).foldl (fun d s => d.memPut mSc0 s.load (slice l s.ofs s.len)) d

/-- Firmware starts at ENTRY (R540, R522). -/
def firmware (d : Dev) (l : List Byte) (key : Nat) : Dev :=
  let d := (d.set PCH_BOOT_STATUS.CODE 1).set PCH_BOOT_STATUS.UNSIGNED (b2n (!d.secure))
  ((d.set PCH_BOOT_STATUS.SVN (ofBytes (slice l 8 4))).set PCH_BOOT_STATUS.KEY key).set PCH_STATUS.CHIP 2

/-- The signature over the digest. -/
def signed (l : List Byte) : Bool :=
  ecdsaOk (ofNet (slice l 24 48)) (ofNet (slice l 72 48)) (ofNet (slice l 120 48)) (ofNet (slice l 168 48)) (ofNet (sha384 (digestInput l)))

/-- The boot ROM's checks of an image whose bytes are `l` and whose length is `n`, up to firmware's start; a failure leads to
host_wait (R540). -/
def bootImage (d : Dev) (l : List Byte) (n : Nat) : Dev :=
  if !headOk l then (d.bootErr 3).hostWait
  else if !segsOk l n then (d.bootErr 7).hostWait
  else if !d.secure then (d.copySegs l).firmware l 0
  else
    match d.keySlot (slice l 24 96) with
    | none => (d.bootErr 4).hostWait
    | some k =>
      if ofBytes (slice l 8 4) < d.svnMin then (d.bootErr 6).hostWait
      else
        let d := d.copySegs l
        if signed l then d.firmware l k else (d.bootErr 5).hostWait

/-- The boot ROM after pantry self-test (R540). -/
def boot (d : Dev) : Dev :=
  let d := d.zeroRange pantryBase 0x4000000
  if bitOf (d.otpWord 1) 1 then d.hostWait
  else
    match d.flashHeader with
    | none => (d.bootErr 2).hostWait
    | some h =>
      let n := ofBytes (slice h 28 4)
      if n = 0 then (d.bootErr 2).hostWait
      else
        let d := d.set PCH_FL_CFG.MODE (byteOf h 36)
        d.bootImage (d.flashAt (ofBytes (slice h 24 4)) (max n headMax)) n

/-- PANTRY_SELFTEST_END: bit b of `fails` is set for a bank that failed, and `rows` gives the rows that each bank mapped to spares
(R438, R439). -/
def pantryTested (d : Dev) (fails : Nat) (rows : List Nat) : Dev :=
  if d.get PCH_STATUS.CHIP != 1 || d.on (ECC_BANK_STATUS.BIST_DONE 0) then d
  else
    let d := d.bankResults 0 32 fails rows
    if fails % 2 ^ 32 = 0 then d.boot
    else ((((d.set ECC_STATUS.BIST_FAIL 1).level 184 true).set PCH_BOOT_STATUS.CODE 8)).raise 229

/-- HBOOT_GO: the boot ROM checks and starts the image at 0x00_1200_0000 (R540). -/
def hbootGo (d : Dev) : Dev :=
  if d.get PCH_BOOT_STATUS.CODE ≠ 9 then d
  else
    let n := d.get PCH_HBOOT_LEN.LEN
    if n = 0 then d.bootErr 2
    else
      let (d, l) := d.busRead0 mSc0 0x12000000 (max n headMax)
      d.bootImage l n

/-! ### Standby, temperature (R547 to R551) -/

/-- The chip domain is held in reset with the root PLL stopped and WAKE_OUT low. -/
def chipHold (d : Dev) (chip : Nat) : Dev :=
  let d := (d.chipReset.set PCH_STATUS.CHIP chip).set CLK_STATUS.ROOT_LOCK 0
  d.setPch { d.pch with wakeOut := false }

/-- STBY_ENTER (R549). -/
def standby (d : Dev) : Dev :=
  if !d.chipOn then d
  else
    let d := if d.on PCH_CFG.SAFE_IN_STBY then d.force
      else [0, 1].foldl (fun d p => (d.set (SAP_CTRL.EN p) 0).sapStop p) d
    (d.chipHold 3).set PCH_WAKE_CAUSE.CAUSE 0

/-- WAKE_OUT goes high, with the cause recorded, and stage 1 follows (R551). -/
def wake (d : Dev) (cause : Nat) : Dev :=
  let d := (d.set PCH_STATUS.CHIP 0).set PCH_WAKE_CAUSE.CAUSE (d.get PCH_WAKE_CAUSE.CAUSE ||| cause)
  d.setPch { d.pch with wakeOut := true, wakeDue := true }

/-- STANDBY_WAKE: a wake match of P0 ends standby (R551). -/
def standbyWake (d : Dev) : Dev :=
  let hits := (d.reg (Adr.MAC0_WAKE_STATUS 0)).toNat % 256
  let magic := d.on (MAC0_WAKE_STATUS.MAGIC_HIT 0)
  if !d.inStandby || (hits == 0 && !magic) then d else d.wake (b2n (hits != 0) + 2 * b2n magic)

/-- The SMBus command WAKE, ignored outside standby (R553). -/
def smbWake (d : Dev) : Dev := if d.inStandby then d.wake 4 else d

/-- THERMAL_SAMPLE: the eight readings, in signed 1/16 °C (R547, R548). -/
def thermalSample (d : Dev) (t : List (BitVec 16)) : Dev :=
  if !d.pch.up then d
  else
    let r := (List.range 8).map (fun i => (t.getD i 0).toInt)
    let maskAbove := fun (c : Int) => ((List.range 8).filter (fun i => decide (16 * c ≤ r.getD i 0))).foldl (fun m i => m + 2 ^ i) 0
    let d := (List.range 8).foldl (fun d i => d.set (PCH_TEMP.TEMP i) (unsignedOf 16 (r.getD i 0))) d
    let warn := maskAbove ((min (d.get PCH_THERM_CFG.WARN) 110 : Nat) : Int)
    let d := (d.set PCH_THERM_STATUS.SENSOR_WARN warn).set PCH_THERM_STATUS.MAX (unsignedOf 16 (r.foldl max (r.getD 0 0)))
    let d := (d.set PCH_STATUS.THERM_WARN (b2n (warn != 0))).level 227 (warn != 0)
    let hot := maskAbove 115
    let both := hot &&& d.pch.hot
    let d := d.setPch { d.pch with hot := hot }
    if both = 0 ∨ d.on PCH_STATUS.TRIPPED = true then d
    else ((d.force.chipHold 0).set PCH_STATUS.TRIPPED 1).set PCH_THERM_STATUS.TRIP_SENSOR both

/-- THERM_CLEAR, accepted only while every sensor reads below CLEAR_BELOW (R548). -/
def thermClear (d : Dev) : Dev :=
  let c : Int := 16 * (d.get PCH_THERM_CFG.CLEAR_BELOW : Nat)
  if !d.on PCH_STATUS.TRIPPED || !(List.range 8).all (fun i => decide (signedOf 16 (d.get (PCH_TEMP.TEMP i)) < c)) then d
  else
    let d := (d.set PCH_STATUS.TRIPPED 0).set PCH_THERM_STATUS.TRIP_SENSOR 0
    let d := d.set PCH_WAKE_CAUSE.CAUSE (d.get PCH_WAKE_CAUSE.CAUSE ||| 8)
    d.setPch { d.pch with wakeOut := true }

/-! ### The watchdog (R545, R546) -/

/-- WDc_EXP. -/
def wdExp (c : Nat) : Fld := ⟨Adr.PCH_WD_STATUS, c, 1⟩

/-- Channel `c` expires, and the other with it where `both` (R546). -/
def wdExpire (d : Dev) (c : Nat) (both : Bool) : Dev :=
  let n := if both then 2 else 1
  let d := d.set PCH_WD_STATUS.COUNT (min 255 (d.get PCH_WD_STATUS.COUNT + n))
  let live := !both && d.on (PCH_WD_CFG.EN (1 - c)) && !d.on (wdExp (1 - c))
  let d := (d.set (wdExp c) 1).setPch { d.pch with wd := vput d.pch.wd c d.now }
  let d := if both then d.set (wdExp (1 - c)) 1 else d
  if live then
    let d := d.raise 226
    let d := if d.get HIF_STATUS.FW_OWNER = c then d.fwMove else d
    if d.on PCH_CFG.WD_CORE_RESET then
      let d : Dev := { d with clk := { d.clk with wdHeld := d.clk.wdHeld ++ [c] } }
      d.rstAssert 1 c true
    else d
  else d.warmReset 4

/-- The count of channel `c` has reached TIMEOUT_MS. -/
def wdDue (d : Dev) (c : Nat) : Bool :=
  d.on (PCH_WD_CFG.EN c) && decide (max 1 (d.get (PCH_WD_CFG.TIMEOUT_MS c)) ≤ d.msSince (vat d.pch.wd c))

/-- WATCHDOG_EXPIRY: the channels of `mask` expire in one AON cycle; a channel whose count has not run out does not. -/
def wdExpiry (d : Dev) (mask : Nat) : Dev :=
  let a := bitOf mask 0 && d.wdDue 0
  let b := bitOf mask 1 && d.wdDue 1
  if a then d.wdExpire 0 b else if b then d.wdExpire 1 false else d

/-- WATCHDOG_KICK: a write of `w` to the KICK register of channel `c` by master `m` (R545, R558). -/
def wdKick (d : Dev) (c m : Nat) (w : Word) : Dev :=
  if m ≠ 17 + c then d.pchIgnored
  else if !d.on (PCH_WD_CFG.EN c) then d
  else if w = 0x5A5A#32 then d.setPch { d.pch with wd := vput d.pch.wd c d.now }
  else d.wdExpire c false

/-- EN of channel `c` is set: its count starts. -/
def wdStart (d : Dev) (c : Nat) : Dev := d.setPch { d.pch with wd := vput d.pch.wd c d.now }

/-- WD_CORE_RESET_RELEASE (R546). -/
def wdRelease (d : Dev) (c : Nat) : Dev :=
  if !d.clk.wdHeld.contains c then d
  else
    let d : Dev := { d with clk := { d.clk with wdHeld := d.clk.wdHeld.filter (· != c) } }
    d.rstRelease 1 c

/-! ### Flash (R557) -/

def inPantry (a n : Nat) : Bool := decide (pantryBase ≤ a) && decide (a + n ≤ pantryBase + 0x4000000)

/-- FL_CMD.GO with OP `op`: while the loader uses the flash, or with an address outside the pantry, ERR; while an operation runs, nothing. -/
def flashGo (d : Dev) (op : Nat) : Dev :=
  let f : FlashOp := ⟨op, (d.reg Adr.PCH_FL_ADDR).toNat, d.get PCH_FL_LEN.LEN, d.get64 Adr.PCH_FL_MEM_LO⟩
  if d.on PCH_FL_STATUS.LOCKED then d.set PCH_FL_STATUS.ERR 1
  else if d.on PCH_FL_STATUS.BUSY then d
  else if decide (op < 2) && !inPantry f.mem f.len then d.set PCH_FL_STATUS.ERR 1
  else (d.setPch { d.pch with flOp := some f }).set PCH_FL_STATUS.BUSY 1

/-- Flash bytes replaced. -/
def flashPut (d : Dev) (l : List (Nat × Byte)) : Dev :=
  d.setPch { d.pch with flash := l.foldl (fun m x => sset (fun _ => (0xFF : Byte)) m (x.1 % 2 ^ 32) x.2) d.pch.flash }

/-- The flash device's work on an operation: reads go to the pantry, a program clears bits within its 256 B page, an erase sets every
byte of its sector. False where the pantry answers with an error. -/
def flashWork (d : Dev) (f : FlashOp) : Dev × Bool :=
  match f.op with
  | 0 => d.busPut mPe f.mem (d.flashAt f.addr f.len)
  | 1 =>
    let n := min f.len 256
    match d.busRead mPe f.mem n with
    | (d, .okay, l) =>
      let at' := fun (i : Nat) => 256 * (f.addr / 256) + (f.addr + i) % 256
      (d.flashPut ((List.range n).map (fun i => (at' i, l.getD i 0 &&& (d.flashAt (at' i) 1).getD 0 0))), true)
    | (d, _, _) => (d, false)
  | 2 => (d.setPch { d.pch with flash := dropRange d.pch.flash (4096 * (f.addr / 4096)) 4096 }, true)
  | _ => (d.setPch { d.pch with flash := dropRange d.pch.flash (65536 * (f.addr / 65536)) 65536 }, true)

/-- FLASH_OP_DONE: the operation ends; `bad` is an error of the flash device. -/
def flashDone (d : Dev) (bad : Bool) : Dev :=
  match d.pch.flOp with
  | none => d
  | some f =>
    let d := (d.setPch { d.pch with flOp := none }).set PCH_FL_STATUS.BUSY 0
    if bad then d.set PCH_FL_STATUS.ERR 1
    else
      match d.flashWork f with
      | (d, true) => d.set PCH_FL_STATUS.DONE 1
      | (d, false) => d.set PCH_FL_STATUS.ERR 1

/-! ### The management port (R552 to R554) -/

/-- One byte into the packet error code, CRC-8 with polynomial 0x07. -/
def pecStep : Nat → Nat → Nat
  | 0, c => c
  | n + 1, c => pecStep n (if 128 ≤ c then (c * 2 % 256) ^^^ 7 else c * 2 % 256)

/-- The packet error code over the bytes of a transaction. -/
def pecOf (l : List Nat) : Nat := l.foldl (fun c b => pecStep 8 (c ^^^ b)) 0

/-- The address byte of a write to the target; of a read it is 1 more. -/
def smbAddr (d : Dev) : Nat := 2 * (0x58 + d.get PCH_SMB_CFG.ADDR)

/-- A read's answer: the bytes, with the PEC over what went before (R552). -/
def smbReply (d : Dev) (sent : List Nat) (l : List Byte) : Dev :=
  { d with resp := .bytes (l ++ [BitVec.ofNat 8 (pecOf (d.smbAddr :: sent ++ (d.smbAddr + 1) :: l.map BitVec.toNat))]) }

/-- A block read's answer: the count and the bytes. -/
def smbBlock (d : Dev) (sent : List Nat) (l : List Byte) : Dev := d.smbReply sent (BitVec.ofNat 8 l.length :: l)

/-- A discard or a NACK (R552). -/
def smbErr (d : Dev) : Dev := ((d.bump Adr.PCH_SMB_ERR_CNT).set PCH_STATUS.SMB_ERR 1).raise 232

/-- A write command: `f` acts unless PEC is required and is missing or wrong (R552). -/
def smbWrite (d : Dev) (sent : List Nat) (pec : Option Byte) (f : Dev → Dev) : Dev :=
  if !d.pch.up then d
  else
    let bad := d.on PCH_SMB_CFG.PEC_REQ && pec != some (BitVec.ofNat 8 (pecOf (d.smbAddr :: sent)))
    if bad then { d.smbErr with resp := .nack } else { f d with resp := .bytes [] }

/-- A read command. -/
def smbRead (d : Dev) (f : Dev → Dev) : Dev := if d.pch.up then f d else d

/-- GET_ID (R553). -/
def getId (d : Dev) : Dev :=
  d.smbRead (fun d => d.smbBlock [0x01]
    (bytesOf 2 (d.otpWord 0 % 65536) ++ bytesOf 2 0x1768 ++ bytesOf 1 (bitsOf (d.otpWord 0) 16 8) ++ [Config.porchVersion, 0, 0]))

/-- The bytes of GET_STATUS (R554). -/
def statusBytes (d : Dev) : List Byte :=
  bytesOf 2 (d.reg Adr.PCH_STATUS).toNat ++ bytesOf 1 (d.reg Adr.PCH_BOOT_STATUS).toNat ++ bytesOf 1 (d.get RST_CAUSE.CAUSE)
    ++ bytesOf 1 (d.get PCH_WAKE_CAUSE.CAUSE) ++ bytesOf 1 (d.get (PCH_SAFE_OWN.ACT 0) + 2 * d.get (PCH_SAFE_OWN.ACT 1))
    ++ bytesOf 2 (d.get PCH_THERM_STATUS.MAX) ++ bytesOf 2 (d.get PCH_PE_LOAD.CYCLES)
    ++ bytesOf 1 (d.porch.filter (fun r => r.unread)).length ++ bytesOf 1 (d.reg Adr.PCH_WD_STATUS).toNat ++ [0, 0, 0, 0]

/-- GET_STATUS. -/
def getStatus (d : Dev) : Dev := d.smbRead (fun d => d.smbBlock [0x02] d.statusBytes)

/-- GET_TEMP (R553). -/
def getTemp (d : Dev) : Dev := d.smbRead (fun d => d.smbBlock [0x03] ((List.range 8).flatMap (fun i => bytesOf 2 (d.get (PCH_TEMP.TEMP i)))))

/-- GET_ASN: the porch's copy of a ring's LAST_ACCEPTED and LAST_COMPLETED (R288, R553). -/
def getAsn (d : Dev) (r : Nat) : Dev :=
  d.smbRead (fun d => d.smbBlock [0x04, 1, r % 256]
    (if isAsnRing r then bytesOf 8 (vat d.asnCopy r).1 ++ bytesOf 8 (vat d.asnCopy r).2 else []))

/-- GET_EVENT: the oldest unread record, which is then read (R553). -/
def getEvent (d : Dev) : Dev :=
  d.smbRead (fun d =>
    match d.porch.find? (fun r => r.unread) with
    | none => d.smbBlock [0x05] []
    | some r =>
      let d := d.smbBlock [0x05] (evBytes r.seq r.ev)
      { d with porch := d.porch.map (fun x => if x.seq = r.seq then { x with unread := false } else x) })

/-- SMB_ALERT_N is low (R552). -/
def smbAlert (d : Dev) : Bool := (List.range 8).any (fun j => bitOf (d.get PCH_SMB_CFG.ALERT_MASK) j && bitOf (d.reg Adr.PCH_STATUS).toNat (5 + j))

/-- ALERT_RESPONSE: while it drives SMB_ALERT_N low the target answers address 0x0C with its own address (R552). -/
def alertResponse (d : Dev) : Dev :=
  if !d.pch.up then d
  else if !d.smbAlert then { d with resp := .nack }
  else
    let (f, d) := d.takeFree
    let b := d.smbAddr + f % 2
    { d with resp := .bytes [BitVec.ofNat 8 b, BitVec.ofNat 8 (pecOf [0x19, b])] }

/-- SMB_SCL_TIMEOUT: the target releases the bus and discards the transaction (R591). -/
def sclTimeout (d : Dev) : Dev := if d.pch.up then { d.smbErr with resp := .nack } else d

end Dev
end Sys2Proof.Machine
end

