-- ==== Sys2Proof/Machine/RegBus.lean ====
section
/-! DEFINITION. Sys2Proof/Machine/RegBus.lean: a 4 B write or read of the register space: the fields' access codes and Takes effect values, setup-only fields, armed banks, pairs, and what the registers of each block do (R5 to R8, R32, R41, R49, R96, R423, R514, R558, R571, R573). -/
namespace Sys2Proof.Machine

/-! ### Fields -/

/-- What a write makes of a register's word: the new word, whether a setup-only field was ignored, the armed banks that rejected one of
their fields. -/
structure FieldEval where
  v : Nat
  locked : Bool
  banks : List Nat
  deriving DecidableEq, Repr

/-- The value that the access code gives a field on a write of `y` over `o` (R7). -/
def Acc.written (x : Acc) (w o y : Nat) : Nat :=
  match x with
  | .rw => y
  | .rsv => y
  | .w1c => o &&& (2 ^ w - 1 - y)
  | .w1s => o ||| y
  | _ => o

/-- One field of a register in copy `u` of its block, index `i`: `stop` says whether a setup-only field takes the write, `busy` which
banks are armed (R8, R41). -/
def evalField (stop : FSpec → Bool) (busy : Nat → Bool) (i u : Nat) (x : Nat) (e : FieldEval) (f : FSpec) : FieldEval :=
  let o := bitsOf e.v f.lo f.w
  let n := f.acc.written f.w o (bitsOf x f.lo f.w)
  if n = o then e
  else
    let put : FieldEval := { e with v := withBits e.v f.lo f.w n }
    match f.eff with
    | .now => put
    | .stopped => if stop f then put else { e with locked := true }
    | .landing _ _ _ =>
      match f.bank i u with
      | some b => if busy b then { e with banks := e.banks ++ [b] } else put
      | none => put

/-- The bits that a read returns: write-only and reserved fields read 0 (R6, R7). -/
def readMask : List FSpec → Nat
  | [] => 0
  | f :: t => (match f.acc with
    | .wo => 0
    | .rsv => 0
    | _ => f.mask) + readMask t

/-- The bits that a read clears (R7). -/
def clearMask (l : List FSpec) : Nat := readMask (l.filter (fun f => f.acc == .rc))

/-- How a write ended: whether a field was rejected under R41, whether R423 refused it. -/
structure WriteEnd where
  busy : Bool
  priv : Bool
  deriving DecidableEq, Repr

namespace Dev

/-! ### Setup-only fields -/

/-- The ring of a HIF ring register. -/
def ringIdle (d : Dev) (r : Nat) : Bool := d.ringState r == stDisabled || d.ringState r == stStopped || d.ringState r == stError

/-- Whether a context of some engine holds a task (R237). -/
def tskHolds (d : Dev) : Bool := (List.range 17).any (fun k => !d.engIdle k)

/-- Whether a setup-only field of the register takes a write: its block counts as stopped (R8 and each chapter). -/
def fieldStopped (d : Dev) (f : Found) (s : FSpec) : Bool :=
  let u := f.pl.u
  match f.pl.blk with
  | .lnd | .hall => d.lndStopped
  | .eng => d.engState u == engReady || d.engState u == engFailed
  | .tsk => !d.on TSK_CTRL.RUN && !d.tskHolds
  | .gang => d.gangStopped
  | .hif => if f.spec.off < 0x800 then (List.range 41).all (fun r => d.ringState r == stDisabled) else d.ringIdle f.i
  | .mac => d.macStopped u
  | .fe => !d.on FE_CTRL.RUN && !d.on FE_STATUS.RUNNING
  | .mix => !d.on MIX_CTRL.RUN && !d.on MIX_STATUS.RUNNING
  | .sap => !d.on (SAP_CTRL.EN u) && !d.on (SAP_STATUS.RUNNING u)
  | .ecc => !d.on ECC_SCRUB_CTRL.EN && !d.on ECC_STATUS.SCRUB_RUNNING
  | .dmc =>
    if f.spec.off = 4 ∧ s.lo = 8 then u == 0 && (List.range 8).all (fun c => decide (d.dmcState c ≤ dmcInit0))
    else decide (d.dmcState u ≤ dmcInit0)
  | _ => true

/-- An ignored setup-only write: the block's CFG_LOCKED and its event. -/
def cfgLocked (d : Dev) (f : Found) : Dev :=
  let u := f.pl.u
  match f.pl.blk with
  | .lnd => (d.set LND_STATUS.CFG_LOCKED 1).raise 8
  | .hall => (d.set HALL_STATUS.CFG_LOCKED 1).raise 242
  | .eng => (d.set (ENG_EVENT.CFG_LOCKED u) 1).raise 49
  | .tsk => (d.set TSK_STATUS.CFG_LOCKED 1).raise 62
  | .gang => (d.set GANG_STATUS.CFG_LOCKED 1).raise 248
  | .hif => (d.set HIF_STATUS.CFG_LOCKED 1).raise 71
  | .mac => d.macCfgEvent u (MAC_STATUS.CFG_LOCKED u)
  | .fe => (d.set FE_STATUS.CFG_LOCKED 1).raise 118
  | .mix => (d.set MIX_STATUS.CFG_LOCKED 1).raise 162
  | .sap => (d.set (SAP_STATUS.CFG_LOCKED u) 1).raise 160
  | .ecc => (d.set ECC_STATUS.CFG_LOCKED 1).raise 186
  | .dmc => d.dmcCfg (DMC_STATUS.CFG_LOCKED u)
  | _ => d

/-- Armed banks rejected fields of one write: event 1 once (R41). -/
def shadowBusy (d : Dev) (l : List Nat) : Dev :=
  if l.isEmpty then d
  else ((d.set64 Adr.LND_BUSY_LO (d.get64 Adr.LND_BUSY_LO ||| maskOf l)).set LND_STATUS.SHADOW_BUSY 1).raise 1

/-- The outcome of the fields of one register word. -/
def evalWord (d : Dev) (f : Found) (a x : Nat) : FieldEval :=
  f.spec.fields.foldl (evalField (d.fieldStopped f) d.armed f.i f.pl.u x) ⟨(d.reg a).toNat, false, []⟩

/-- Record what a write ignored and rejected. -/
def notes (d : Dev) (f : Found) (locked : Bool) (banks : List Nat) : Dev :=
  let d := if locked then d.cfgLocked f else d
  d.shadowBusy banks

/-- The write of a register word by its fields' rules. -/
def writeWord (d : Dev) (f : Found) (a x : Nat) : Dev × Bool :=
  let e := d.evalWord f a x
  ((d.setReg a (BitVec.ofNat 32 e.v)).notes f e.locked e.banks, !e.banks.isEmpty)

/-- A write to _LO commits the buffered high half with it, and clears the buffer (R5). A pair is one field: it changes whole or not at
all. -/
def writePair (d : Dev) (f : Found) (a x hi : Nat) : Dev × Bool :=
  let lo := d.evalWord f a x
  match regAt (a + 4) with
  | none => d.writeWord f a x
  | some g =>
    let h := d.evalWord g (a + 4) hi
    let locked := lo.locked || h.locked
    let banks := (lo.banks ++ h.banks).eraseDups
    let d := if locked || !banks.isEmpty then d else (d.setReg a (BitVec.ofNat 32 lo.v)).setReg (a + 4) (BitVec.ofNat 32 h.v)
    (d.notes f locked banks, !banks.isEmpty)

/-- The buffered high half of the pair at `a`. -/
def heldHigh (d : Dev) (a : Nat) : Nat := (sget (fun _ => (0 : Word)) d.hbuf a).toNat

/-- Put a word in the pair's buffer. -/
def holdHigh (d : Dev) (a : Nat) (x : Word) : Dev := { d with hbuf := sset (fun _ => (0 : Word)) d.hbuf a x }

/-! ### What the registers of each block do on a write -/

/-- The result of a write that ended well. -/
def wrote (d : Dev) : Dev × WriteEnd := (d, ⟨false, false⟩)

/-- After a write of the registers of LND: RUN, ARM, DISARM (R29, R37, R42). -/
def lndHook (d0 d : Dev) (off x : Nat) : Dev :=
  match off with
  | 0x0 => d.lndRun (d0.on LND_CTRL.RUN)
  | 0x18 => (d.armMask x (d.get64 Adr.LND_TARGET_LO)).1
  | 0x20 => (d.disarmMask x).1
  | _ => d

/-- CLK_CTRL: XTAL_RETRY, MEAS_GO (R508, R510). -/
def clkHook (d : Dev) (off x : Nat) : Dev :=
  if off = 0 then
    let d := if bitOf x 0 then d.xtalRetry else d
    if bitOf x 1 then d.measGo else d
  else d

/-- EVC_SWTRIG (R566). -/
def swTrig (d : Dev) (x : Nat) : Dev := (bitList 4 x).foldl (fun d i => d.raise (252 + i) (bitsOf x 16 16)) d

/-- EVC: SWTRIG; RING stays 0 for source 250 (R560, R566, R575). -/
def evcHook (d : Dev) (f : Found) (x : Nat) : Dev :=
  match f.spec.off with
  | 0x4 => d.swTrig x
  | 0x400 => if f.i = 250 then d.set (EVC_SRC_CFG.RING 250) 0 else d
  | _ => d

/-- A write to PMC_CNTn_LO clears the counter (R571). -/
def cntClear (d : Dev) (n : Nat) : Dev := d.set64 (Adr.PMC_CNT_LO n) 0

/-- PMC_CLR_GRP clears a group; 24 to 31 are ignored (R571). -/
def clrGrp (d : Dev) (g : Nat) : Dev := if g < 24 then (List.range 16).foldl (fun d e => d.cntClear (16 * g + e)) d else d

/-- PMC_MIRROR: a base outside the pantry is refused (R572). -/
def mirrorCheck (d : Dev) : Dev :=
  if d.on PMC_MIRROR.EN && !inPantry (4096 * d.get PMC_MIRROR.BASE) 3072 then (d.set PMC_MIRROR.EN 0).set PMC_STATUS.MIRROR_ERR 1 else d

def pmcHook (d : Dev) (off x : Nat) : Dev :=
  match off with
  | 0x8 => d.mirrorCheck
  | 0xC => d.clrGrp (bitsOf x 0 5)
  | _ => d

/-- TSK_CTRL: ADD_SPARE, UNSHED_GO (R230, R234). -/
def tskHook (d : Dev) (off x : Nat) : Dev :=
  if off = 0 then
    let d := if bitOf x 13 then d.addSpare (bitsOf x 8 5) else d
    if bitOf x 21 then d.unshed (bitsOf x 16 5) else d
  else d

/-- The pool that a write to TSK_POOL_BASE or TSK_POOL_SIZE would give lies outside the pantry, or the size is 0 or above 16,384 (R208). -/
def poolBad (d : Dev) (off x : Nat) : Bool :=
  let base := if off = 0xC then x / 64 * 64 else d.poolBase
  let size := if off = 0x10 then bitsOf x 0 15 else d.poolSize
  size == 0 || decide (16384 < size) || !inPantry base (64 * size)

/-- HIF: FW_DONE, the ring controls, the MSI-X masks (R272 to R275, R290, R293, R562). -/
def hifHook (d : Dev) (f : Found) (m : Master) (x : Nat) : Dev :=
  match f.spec.off with
  | 0x20 => d.fwDone m.num (BitVec.ofNat 32 x)
  | 0x80C =>
    let d := if bitOf x 2 then d.bulkAbort f.i else d
    if d.hifReset then d else d.ringEn f.i (bitOf x 0) (bitOf x 1)
  | 0x800C => d.msixFlush
  | _ => d

/-- ECC: scrub control, fills (R435, R440). -/
def eccHook (d : Dev) (off x : Nat) : Dev :=
  match off with
  | 0x0 => d.scrubEn
  | 0x24 => if bitOf x 0 then d.fillGo else d
  | _ => d

/-- DMC: channel control and training control (R472 to R474, R480 to R484). -/
def dmcHook (d : Dev) (u off x : Nat) : Dev :=
  match off with
  | 0x0 => d.dmcCtrl u (BitVec.ofNat 32 x)
  | 0x80 => d.trnCtrl u (BitVec.ofNat 32 x)
  | _ => d

/-- FAB_REJOIN ends the isolation of the targets in the mask (R501). -/
def rejoin (d : Dev) (x : Nat) : Dev :=
  let d := d.set64 Adr.FAB_ISOLATED_LO (d.get64 Adr.FAB_ISOLATED_LO &&& (2 ^ 64 - 1 - x % 2 ^ 37))
  d.level 210 (d.get64 Adr.FAB_ISOLATED_LO != 0)

/-- MAC: PORT_EN, CNT_CLR, the VALID of a filter entry (R312, R313, R326, R349, R509). -/
def macHook (d0 d : Dev) (f : Found) (x : Nat) : Dev :=
  let p := f.pl.u
  match f.spec.off with
  | 0x0 =>
    let was := d0.on (MAC_CTRL.PORT_EN p)
    let d := if bitOf x 0 && !was then d.portStart p else if !bitOf x 0 && was then (d.macLinkLevel p).portStopped p else d
    let d := if bitOf x 1 then d.cntClr p else d
    d.netLevel
  | 0x403C => if d.on (MAC_FLT_ACTION.VALID p f.i) && !d0.on (MAC_FLT_ACTION.VALID p f.i) then d.fltValid p f.i else d
  | _ => d

/-- TB: LOAD, the offset, TIME_OUT, the PTP rings (R352, R357, R358, R365). -/
def tbHook (d : Dev) (f : Found) (x : Nat) : Dev :=
  match f.spec.off with
  | 0x100 => if bitOf x 1 then d.tbLoad f.i else d
  | 0x128 => d.tbOffset f.i x
  | 0x228 => d.ptpLevel
  | 0x238 => d.ptpSend f.i
  | 0x400 => d.toutConfig f.i
  | _ => d

/-- FE starts: the flows that are enabled begin as they do at a landing (R372, R381). -/
def feStart (d : Dev) : Dev :=
  let x := (d.period + 1) * d.perLen + 24
  let rx := (List.range 512).filter (fun i => d.aget (FE_RXF_CFG.EN i) != 0)
  let tx := (List.range 512).filter (fun i => d.aget (FE_TXF_CFG.EN i) != 0)
  let d := rx.foldl (fun d i => (d.setRxFlow i ⟨[], [], none⟩).setConc i Conceal.muted) (d.set FE_STATUS.RUNNING 1)
  (tx.foldl (fun d i => d.setTxFlow i (some ⟨d.firstPacket i x, d.aget (FE_TXF_SEQ.SEQ0 i), none⟩)) d).legLevel

/-- FE stops: it receives and sends nothing more. -/
def feStop (d : Dev) : Dev :=
  let d := d.set FE_STATUS.RUNNING 0
  ({ d with fe := { d.fe with inbox := [], rxf := [], txf := [], frozen := [] } } : Dev).legLevel

/-- FE_CTRL.RUN. -/
def feHook (d0 d : Dev) (off : Nat) : Dev :=
  if off = 0 then
    if d.on FE_CTRL.RUN && !d0.on FE_CTRL.RUN then d.feStart
    else if !d.on FE_CTRL.RUN && d0.on FE_CTRL.RUN then d.feStop
    else d
  else d

/-- SAP_CTRL.EN (R395, R403). -/
def sapHook (d0 d : Dev) (u off x : Nat) : Dev :=
  if off = 0 then (if !bitOf x 0 then d.sapStop u else if d0.on (SAP_CTRL.EN u) then d else d.sapStart u) else d

/-- MIX_CTRL.RUN and MIX_OUTRDY (R414, R427). -/
def mixHook (d : Dev) (off x : Nat) : Dev :=
  match off with
  | 0x0 => d.set MIX_STATUS.RUNNING (b2n (d.on MIX_CTRL.RUN))
  | 0x14 => d.outRdy (bitsOf x 0 4) (bitsOf x 16 16)
  | _ => d

/-- A write that R423 keeps for privileged masters: it changes a generator's register, or a route whose new value or shadow names a
generator. -/
def toneGuard (d : Dev) (f : Found) (m : Master) (a x : Nat) : Bool :=
  f.pl.blk == .mix && !m.priv && m.num != mPe &&
    ((decide (0x200 ≤ f.spec.off) && decide (f.spec.off < 0x1000) && (d.evalWord f a x).v != (d.reg a).toNat)
      || (f.spec.off == 0x4000 && x % 2 ^ 13 != (d.reg a).toNat && (srcTone (bitsOf x 0 12) || srcTone (bitsOf (d.reg a).toNat 0 12))))

/-- R423 refuses a write. -/
def toneRefuse (d : Dev) : Dev := ((d.bump Adr.MIX_PRIV_CNT).set MIX_STATUS.PRIV_REFUSED 1).raise 163

/-- PCH: its commands, in bit order (R537, R540, R543, R545, R548, R549, R557). -/
def pchHook (d0 d : Dev) (f : Found) (m : Master) (x : Nat) : Dev :=
  match f.spec.off with
  | 0x0 =>
    let d := if bitOf x 0 then d.force else d
    let d := if bitOf x 1 then d.safeReload else d
    let d := if bitOf x 2 then d.standby else d
    if bitOf x 3 then d.thermClear else d
  | 0x30 => if d.on (PCH_WD_CFG.EN f.i) && !d0.on (PCH_WD_CFG.EN f.i) then d.wdStart f.i else d
  | 0x34 => d.wdKick f.i m.num (BitVec.ofNat 32 x)
  | 0xA4 => if bitOf x 8 then d.flashGo (bitsOf x 0 2) else d
  | 0xD8 => if bitOf x 0 then d.hbootGo else d
  | _ => d

/-- ENG: the commands, the injection, and an event bit's level (R97, R100, R604, R605). -/
def engHook (d : Dev) (u off x : Nat) : Dev :=
  match off with
  | 0x0 => d.engCtrl u (BitVec.ofNat 32 x)
  | 0xC => d.level (32 + u) (d.on (ENG_EVENT.FAULT u))
  | 0x30 => d.engInject u (BitVec.ofNat 32 x)
  | _ => d

/-- The context registers that take W1C writes (R73, R81). -/
def ctxClear (d : Dev) (k c off x : Nat) : Dev :=
  let y := d.ctxAt k c
  let w := ~~~(BitVec.ofNat 32 x)
  match off with
  | 0x40 => if bitOf x 6 then d.setCtx k c { y with memerr := false } else d
  | 0x50 => d.setCtx k c { y with r := { y.r with ovf := y.r.ovf &&& w } }
  | 0x54 => d.setCtx k c { y with r := { y.r with lost := y.r.lost &&& w } }
  | 0x58 => d.setCtx k c { y with r := { y.r with wrap := y.r.wrap &&& w } }
  | _ => d

/-- What a write does after its fields have taken it; `x` is the word, of a pair the 64-bit value. -/
def afterWrite (d0 d : Dev) (f : Found) (m : Master) (x : Nat) : Dev :=
  let u := f.pl.u
  let off := f.spec.off
  match f.pl.blk with
  | .lnd => lndHook d0 d off x
  | .clk => d.clkHook off x
  | .rst => if off = 0 ∧ bitOf x 0 = true then d.warmReset 3 else d
  | .evc => d.evcHook f x
  | .pmc => d.pmcHook off x
  | .tsk => d.tskHook off x
  | .hif => d.hifHook f m x
  | .xlt => if off = 0x14 then d.xltInv (BitVec.ofNat 32 x) else d
  | .ecc => d.eccHook off x
  | .dmc => d.dmcHook u off x
  | .fab => if off = 0x10 then d.rejoin x else d
  | .mac => macHook d0 d f x
  | .tb => d.tbHook f x
  | .fe => feHook d0 d off
  | .sap => sapHook d0 d u off x
  | .mix => d.mixHook off x
  | .pch => pchHook d0 d f m x
  | .gang => d
  | .och => if off = 4 then d.ochRaise (bitsOf x 0 4) (bitsOf x 4 3) else d
  | .hall => d
  | .eng => d.engHook u off x

/-- A write of a register by its fields' rules and the effects of its block. -/
def plainWrite (d : Dev) (f : Found) (m : Master) (a : Nat) (v : Word) : Dev × WriteEnd :=
  match f.spec.half with
  | .high => (d.holdHigh (a - 4) v).wrote
  | .word =>
    let (e, busy) := d.writeWord f a v.toNat
    (afterWrite d e f m v.toNat, ⟨busy, false⟩)
  | .low =>
    let hi := d.heldHigh a
    let (e, busy) := (d.holdHigh a 0).writePair f a v.toNat hi
    (afterWrite d e f m (v.toNat + 2 ^ 32 * hi), ⟨busy, false⟩)

/-- Registers whose writes have a rule of their own in place of their fields'; `none` for the others. -/
def ownWrite (d : Dev) (f : Found) (a : Nat) (m : Master) (v : Word) : Option Dev :=
  let u := f.pl.u
  let off := f.spec.off
  match f.pl.blk with
  | .rst => if 0x10 ≤ off ∧ off < 0x28 then some (d.rstWrite ((off - 0x10) / 4) v (m.num == mPe)) else none
  | .evc => if off = 0x400 ∧ isReservedSource f.i = true then some d else none
  | .pmc => if off = 0x1000 then some (d.cntClear f.i) else if off = 0x1004 then some d else none
  | .tsk => if (off = 0xC ∨ off = 0x10) ∧ d.poolBad off v.toNat = true then some (d.cfgLocked f) else none
  | .xlt => if off = 0x108 then some (d.xltCtxValid f.i v) else none
  | .tb => if off = 0x104 then some (((d.holdHigh a 0)).tbIncrCommit f.i (d.heldHigh a) v.toNat) else none
  | .dmc =>
    if 0x100 ≤ off ∧ d.trains u = false ∧ (d.evalWord f a v.toNat).v ≠ (d.reg a).toNat then some (d.cfgLocked f) else none
  | .pch => if off = 0xC4 then some (d.otpProgram v) else none
  | .eng =>
    if d.engState u = engOff then some d
    else if off = 0x3C then some (d.dbgWrite u v)
    else if off = 0x40 ∨ off = 0x50 ∨ off = 0x54 ∨ off = 0x58 then some (d.ctxClear u f.i off v.toNat)
    else none
  | _ => none

/-- A write that RST, CLK or PCH ignores for want of privilege (R514, R558): what it does instead. -/
def unprivileged (d : Dev) (f : Found) (m : Master) : Option Dev :=
  let good := m.priv || m.num == mPe
  match f.pl.blk with
  | .rst => if good then none else some (((d.bump Adr.RST_IGNORED_CNT).set RST_STATUS.IGNORED 1).raise 217)
  | .clk => if good then none else some (((d.bump Adr.RST_IGNORED_CNT).set CLK_STATUS.IGNORED 1).raise 217)
  | .pch =>
    if f.spec.off = 0x34 then none
    else if (f.spec.off = 0xD4 ∨ f.spec.off = 0xD8) ∧ m.num = 20 ∧ d.get PCH_BOOT_STATUS.CODE = 9 then none
    else if good then none
    else some d.pchIgnored
  | _ => none

/-- A 4 B write at a register-space offset (R6, R7). -/
def regWrite (d : Dev) (m : Master) (a : Nat) (v : Word) : Dev × WriteEnd :=
  match regAt a with
  | none => d.wrote
  | some f =>
    match d.unprivileged f m with
    | some e => e.wrote
    | none =>
      if d.toneGuard f m a v.toNat then (d.toneRefuse, ⟨false, true⟩)
      else
        match d.ownWrite f a m v with
        | some e => e.wrote
        | none => d.plainWrite f m a v

/-! ### Reads -/

/-- The lowest source that is enabled, routed to core `c` and pending; 0x100 for none (R563). -/
def claim (d : Dev) (c : Nat) : Nat :=
  ((List.range 256).find? (fun n => bitOf (d.reg (Adr.EVC_SRC_CFG n)).toNat 0 && bitOf (d.reg (Adr.EVC_SRC_CFG n)).toNat (4 + c)
    && bitOf (d.reg (Adr.EVC_PEND (n / 32))).toNat (n % 32))).getD 0x100

/-- ENG_STATUS (R95, R98). -/
def engStatus (d : Dev) (k : Nat) : Nat :=
  d.engState k + d.runCtx k * 8 + b2n ((d.ctxAt k 0).mode != .free) * 16 + b2n ((d.ctxAt k 1).mode != .free) * 32
    + d.get (ENG_STATUS.SELFTEST_PASS k) * 64 + 256 * (d.xbarSlot k).getD 0x1F + 65536 * k

/-- ENG_CTXn_STATUS. -/
def ctxStatus (d : Dev) (k c : Nat) : Nat :=
  let x := d.ctxAt k c
  b2n (x.mode != .free) + b2n (x.mode == .parked) * 2 + b2n (x.mode == .running && d.engState k == engActive) * 4
    + b2n (x.r.ovf != 0) * 8 + b2n (x.r.lost != 0) * 16 + b2n (x.r.wrap != 0) * 32 + b2n x.memerr * 64 + 128 * b2n x.priv
    + 256 * x.stream.length

/-- The registers of an engine that show its contexts. -/
def engShown (d : Dev) (k i off : Nat) : Option Nat :=
  let x := d.ctxAt k i
  if d.engState k = engOff then some 0
  else
    match off with
    | 0x0 => some (b2n (d.engState k == engActive || d.engState k == engHalted))
    | 0x8 => some (d.engStatus k)
    | 0x3C => some (d.dbgRead k).toNat
    | 0x40 => some (d.ctxStatus k i)
    | 0x44 => some (x.task + 2 ^ 14 * x.cls)
    | 0x48 => some x.r.pc.toNat
    | 0x4C => some x.cycles
    | 0x50 => some x.r.ovf.toNat
    | 0x54 => some x.r.lost.toNat
    | 0x58 => some x.r.wrap.toNat
    | 0x60 => some (x.memAddr.toNat % 2 ^ 32)
    | 0x64 => some (x.memAddr.toNat / 2 ^ 32)
    | _ => none

/-- CORE cycles that the oldest ready task of class `c` has waited (R237). -/
def oldest (d : Dev) (c : Nat) : Nat :=
  match (d.readyAt c).map (fun t => t.since) with
  | [] => 0
  | s :: t => min 0xFFFFFFFF (2 * (d.now - t.foldl min s))

/-- Registers that show state kept elsewhere; `none` for the others. -/
def shown (d : Dev) (f : Found) : Option Nat :=
  let i := f.i
  match f.pl.blk, f.spec.off with
  | .eng, off => d.engShown f.pl.u i off
  | .evc, 0xC => some (d.claim i)
  | .tsk, 0x8 => some ((d.reg Adr.TSK_STATUS).toNat / 2 * 2 + b2n d.tskHolds)
  | .tsk, 0x50 => some (d.readyAt i).length
  | .tsk, 0x60 => some (d.oldest i)
  | .hall, 0x114 => some (d.aget (HALL_SLOT_CFG.HALF i) + 256 * ((d.hall.blocks.head?).map (fun b => commitsOf b i)).getD 0)
  | .och, 0x104 => some (bitsOf (sget resetValue d.act (Adr.OCH_SLOT_CFG i)).toNat 0 2)
  | .och, 0x108 => some (bitsOf (sget resetValue d.act1 (Adr.OCH_SLOT_CFG i)).toNat 0 2)
  | .och, 0x2000 => some (bitsOf (sget resetValue d.act (Adr.OCH_OUT i)).toNat 0 2)
  | .och, 0x3000 => some (bitsOf (sget resetValue d.act1 (Adr.OCH_OUT i)).toNat 0 2)
  | .fab, 0x100 =>
    let mine := d.fab.outs.filter (fun x => x.master == i)
    some ((mine.filter (fun x => !x.stale)).length + d.get (FAB_MSTR_STATUS.IN_RESET i) * 64
      + 256 * ((mine.filter (fun x => x.stale)).map (fun x => x.id)).eraseDups.length)
  | .pch, 0xC4 => some (d.otpWord (d.get PCH_OTP_ADDR.WORD))
  | _, _ => none

/-- Before a read: the reads that pop a queue or take a snapshot (R353, R362, R366, R448). -/
def popBefore (d : Dev) (f : Found) : Dev :=
  match f.pl.blk, f.spec.off with
  | .ecc, 0x38 => d.eccPop
  | .tb, 0x20C => d.tsqPop f.i
  | .tb, 0x488 => d.tinPop f.i
  | .tb, 0x10C => d.tbTimeRead f.i
  | _, _ => d

/-- The word that a read of the register at `a` returns. -/
def wordRead (d : Dev) (f : Found) (a : Nat) : Nat := (d.shown f).getD (d.reg a).toNat &&& readMask f.spec.fields

/-- The high half of the pair at `a`. -/
def highRead (d : Dev) (a : Nat) : Nat :=
  match regAt (a + 4) with
  | some g => d.wordRead g (a + 4)
  | none => 0

/-- The host user page (R573). -/
def userPage (d : Dev) (a : Nat) : Option Word :=
  let o := a % 0x1000
  if 0x48000 ≤ a ∧ a < 0x49000 then
    some (if o / 8 < 384 ∧ bitOf (d.reg Adr.PMC_PERM_HOST).toNat (o / 128) = true then
        (if o % 8 = 0 then d.reg (Adr.PMC_CNT_LO (o / 8)) else d.reg (Adr.PMC_CNT_LO (o / 8) + 4))
      else 0)
  else none

/-- A 4 B read at a register-space offset (R5, R6, R7). A read of _LO latches the high half; a read of _HI returns the latched half,
but for the time of a time base, which the read of TBn_TIME_FRAC latches (R353). -/
def regRead (d : Dev) (a : Nat) : Dev × Word :=
  match d.userPage a with
  | some w => (d, w)
  | none =>
    match regAt a with
    | none => (d, 0)
    | some f =>
      if f.pl.blk = .eng ∧ d.engState f.pl.u = engOff then (d, 0)
      else
        let d := d.popBefore f
        let v := d.wordRead f a
        match f.spec.half with
        | .word =>
          let c := clearMask f.spec.fields
          let d := if c = 0 then d else d.setReg a (d.reg a &&& ~~~(BitVec.ofNat 32 c))
          (d, BitVec.ofNat 32 v)
        | .low => ({ d with latch := sset (fun _ => (0 : Word)) d.latch a (BitVec.ofNat 32 (d.highRead a)) }, BitVec.ofNat 32 v)
        | .high => (d, if f.pl.blk = .tb ∧ f.spec.off = 0x118 then BitVec.ofNat 32 v else sget (fun _ => (0 : Word)) d.latch (a - 4))

end Dev
end Sys2Proof.Machine
end

