-- ==== Sys2Proof/Machine/Fabric.lean ====
section
/-! DEFINITION. Sys2Proof/Machine/Fabric.lean: requests and responses of the fabric: port converters, service by the targets, the completion of an engine's far loads and stores, timeouts (R125, R488 to R496, R500 to R505). -/
namespace Sys2Proof.Machine
namespace Dev

/-! ### The register bus as a target (R4, R492, R505) -/

/-- The porch registers and SAP0 and SAP1, which PE reaches past the gate (R505). -/
def pastGate (m a : Nat) : Bool :=
  m == mPe && (match placeOf a with
    | some p => p.blk == .pch || (p.blk == .sap && decide (p.u < 2))
    | none => false)

/-- The offset of the one naturally aligned 4 B group of strobes of a write, if it has exactly one (R492). -/
def oneGroup (a : Nat) (cells : List (Nat × Byte)) : Option Nat :=
  let o := (cells.map (fun c => c.1)).foldl min ((cells.headD (0, 0)).1)
  if cells.length = 4 ∧ (a + o) % 4 = 0 ∧ (List.range 4).all (fun i => cells.any (fun c => c.1 == o + i)) = true then some o else none

/-- The word that the strobed group carries. -/
def groupWord (cells : List (Nat × Byte)) (o : Nat) : Word :=
  BitVec.ofNat 32 (ofBytes ((List.range 4).map (fun i => ((cells.find? (fun c => c.1 == o + i)).map (fun c => c.2)).getD 0)))

/-- A request at the register bus: the address first, then size and alignment. -/
def regServe (d : Dev) (q : FabReq) : Dev × RCode × List Byte :=
  let a := q.addr % regBase
  let m : Master := ⟨q.master, q.priv⟩
  if (placeOf a).isNone then (d.fabDecode q.master q.addr q.write, .decode, [])
  else if !d.chipOn && !pastGate q.master a then (d.gateRefuse, .error, [])
  else if d.isolated 33 then (d, .error, [])
  else if q.write then
    match oneGroup q.addr q.cells with
    | some o => ((d.regWrite m (a + o) (groupWord q.cells o)).1, .okay, [])
    | none => (d, .error, [])
  else if q.n = 4 ∧ q.addr % 4 = 0 then
    let (d, w) := d.regRead a
    (d, .okay, bytesOf 4 w.toNat)
  else (d, .error, [])

/-! ### Requests -/

/-- The number of the target of an address, as a response carries it (R489). -/
def targetNum (d : Dev) (a : Nat) : Nat :=
  match d.targetOf a with
  | .regs => if (placeOf (a % regBase)).isNone then 0x3F else 33
  | t => t.num

/-- A request becomes outstanding, with its response if its target has served it. -/
def outstand (d : Dev) (q : FabReq) (t : Nat) (ans : Option (RCode × List Byte)) : Dev :=
  { d with fab := { d.fab with
    outs := d.fab.outs ++ [(⟨q.master, q.id, t, q.addr, q.write, if q.write then q.cells.length else q.n, q.what, ans, false⟩ : Xact)] } }

/-- A request passes its converter: it is decoded and served, or queued at its DRAM channel (R463, R490). -/
def fabricGo (d : Dev) (q : FabReq) : Dev :=
  let t := d.targetNum q.addr
  match d.targetOf q.addr with
  | .regs =>
    let (d, c, l) := d.regServe q
    d.outstand q t (some (c, l))
  | .dram c _ =>
    if d.chipOn && !d.isolated t && d.dmcServes c && !(q.write && q.cells.isEmpty) then
      let k := d.memKey q.addr
      (d.outstand q t none).enqueue c
        ⟨q.master, q.id, q.cls, q.write, k, q.n, q.cells.map (fun x => (k + x.1, x.2)), q.flags.map (k + ·), q.close, d.now⟩
    else if q.write then
      let (d, r) := d.busWrite q.master q.addr q.cells q.flags
      d.outstand q t (some (r, []))
    else
      let (d, r, l) := d.busRead q.master q.addr q.n
      d.outstand q t (some (r, l))
  | _ =>
    if q.write then
      let (d, r) := d.busWrite q.master q.addr q.cells q.flags
      d.outstand q t (some (r, []))
    else
      let (d, r, l) := d.busRead q.master q.addr q.n
      d.outstand q t (some (r, l))

/-- The converter holds a request: 32 are outstanding, or its ID is still discard-pending (R493, R503). -/
def convHolds (d : Dev) (q : FabReq) : Bool :=
  let mine := d.fab.outs.filter (fun x => x.master == q.master)
  decide (32 ≤ mine.length) || mine.any (fun x => x.stale && x.id == q.id)

/-- The converters let held requests go, in each master's order. -/
def pumpList (d : Dev) : List FabReq → List FabReq → Dev
  | [], kept => { d with fab := { d.fab with held := kept } }
  | q :: t, kept =>
    if kept.any (fun x => x.master == q.master) || d.convHolds q then pumpList d t (kept ++ [q])
    else pumpList (d.fabricGo q) t kept

/-- The converters let held requests go (R493, R503). -/
def fabPump (d : Dev) : Dev := d.pumpList d.fab.held []

/-- The master is held in reset (R502, R554). -/
def masterHeld (d : Dev) (m : Nat) : Bool :=
  match masterBlock m with
  | some (r, i) => d.on (rstFld r i) || d.on (busyFld r i) || d.linkHeld m
  | none => d.linkHeld m

/-- A request that the fabric's rules allow: at most 16 beats, inside 4 KiB, an ID below 64 (R490, R493). -/
def requestOk (q : FabReq) : Bool :=
  let last := if q.write then q.cells.foldl (fun n c => max n (c.1 + 1)) 0 else q.n
  decide (q.master < 28) && decide (q.id < 64) && decide (q.addr < 2 ^ 40) && decide (q.addr % 4096 + last ≤ 4096)
    && decide (q.addr % 64 + last ≤ 1024) && (q.write || decide (0 < q.n))

/-- A master issues a request (R491). A master in reset issues none. -/
def fabricIssue (d : Dev) (q : FabReq) : Dev :=
  if !requestOk q || d.masterHeld q.master then d
  else if d.fab.held.any (fun x => x.master == q.master) || d.convHolds q then
    { d with fab := { d.fab with held := d.fab.held ++ [q] } }
  else d.fabricGo q

/-! ### Responses -/

/-- MEMERR, and the first failing address (R81). -/
def memErr (d : Dev) (k c a : Nat) : Dev :=
  let x := d.ctxAt k c
  if x.memerr then d else d.setCtx k c { x with memerr := true, memAddr := BitVec.ofNat 40 a }

/-- What a load makes of its bytes: sign or zero extension (R121). -/
def loadValue (l : List Byte) (sgn : Bool) : BitVec 64 :=
  if sgn then BitVec.ofInt 64 (signedOf (8 * l.length) (ofBytes l)) else BitVec.ofNat 64 (ofBytes l)

/-- A response reaches its master (R125, R496). -/
def respond (d : Dev) (x : Xact) (c : RCode) (l : List Byte) : Dev :=
  match x.what with
  | .outside =>
    { d with resp := match c with
      | .okay => .okay (ofBytes l)
      | .error => .error
      | .decode => .decode
      | .timeout => .timeout }
  | .farLoad k i r sgn =>
    let y := d.ctxAt k i
    if y.farLoad = some x.id then
      let v := if c = .okay then loadValue l sgn else 0
      let d := d.setCtx k i { y with farLoad := none, r := y.r.setS r v }
      if c = .okay then d else d.memErr k i x.addr
    else d
  | .farStore k i => if c = .okay then d else d.memErr k i x.addr

/-- The response of the oldest request of master `m` with this ID at target `t` returns, once the target has served it (R494). -/
def fabricResponse (d : Dev) (m id t : Nat) : Dev :=
  match d.fab.outs.findIdx? (fun x => x.master == m && x.id == id && x.target == t && !x.stale) with
  | none => d
  | some i =>
    match d.fab.outs[i]? with
    | none => d
    | some x =>
      match x.ans with
      | none => d
      | some (c, l) =>
        (({ d with fab := { d.fab with outs := d.fab.outs.eraseIdx i } } : Dev).respond x c l).fabPump

/-- A stale response is absorbed, which frees its ID (R502, R503). -/
def staleAbsorb (d : Dev) (m id t : Nat) : Dev := (d.absorb m id t).fabPump

/-- A transaction has waited at target `t` past its limit: every transaction outstanding there completes with TIMEOUT, and the target is
isolated (R500). What its channel had queued for them is discarded. -/
def targetTimeout (d : Dev) (t : Nat) : Dev :=
  match d.fab.outs.find? (fun x => x.target == t && x.ans.isNone) with
  | none => d
  | some x =>
    let d := (d.fabErr x.master x.addr t 3 x.write)
    let d := (((d.set FAB_STATUS.TIMEOUT 1).bump Adr.FAB_TIMEOUT_CNT).raise 209).pmc (16 * 22 + 9) 1
    let d := d.set64 Adr.FAB_ISOLATED_LO (d.get64 Adr.FAB_ISOLATED_LO ||| 2 ^ t)
    let d := d.level 210 true
    let d := if 8 ≤ t ∧ t < 16 then d.setDmc (t - 8) { d.dmcAt (t - 8) with queue := [], wait := [], drain := false } else d
    { d with fab := { d.fab with
      outs := d.fab.outs.map (fun x => if x.target = t ∧ x.ans = none then { x with ans := some (.timeout, []) } else x) } }

end Dev
end Sys2Proof.Machine
end

