-- ==== Sys2Proof/Machine/EngMem.lean ====
section
/-! DEFINITION. Sys2Proof/Machine/EngMem.lean: LD and ST with their far forms, and the stream unit (R78 to R81, R84, R121, R123 to R125). -/
namespace Sys2Proof.Machine
namespace Dev

/-- An address in the register space. -/
def inRegSpace (a : Nat) : Bool := decide (regBase ≤ a) && decide (a < regBase + 0x10000000)

/-- Whether the task of the context may make a far access: below 2^40; the pantry and fitted DRAM, in a user task only inside a window;
the register space for a system task, at any size (R78, R84, R123, R124). -/
def farOk (d : Dev) (k c a n : Nat) (write : Bool) : Bool :=
  let x := d.ctxAt k c
  decide (a < 2 ^ 40) && ((x.priv && inRegSpace a) || (a % n == 0 && d.inFar a n && (x.priv || d.inRegion k a n write)))

/-- The lowest fabric ID that no request of master `m` uses. -/
def freeId (d : Dev) (m : Nat) : Nat :=
  ((List.range 64).find? (fun i => !(d.fab.outs.any (fun x => x.master == m && x.id == i) || d.fab.held.any (fun x => x.master == m && x.id == i)))).getD 0

/-- The bytes of a far access that lie in its first 4 KiB: a register-space access that leaves it is one the fabric refuses. -/
def farSize (a n : Nat) : Nat := if a % 4096 + n ≤ 4096 then n else 1

/-- LD with FAR (R124). -/
def ldFar (d : Dev) (k c : Nat) (old : RegFile) (w : SlotWord) : BRes Dev :=
  let a := scalarAddr old (f2 w) w
  let n := ldSize w
  let x := d.ctxAt k c
  if !d.farOk k c a n false then .fault d (violation a)
  else if d.fab.held.any (fun q => q.master == k) then .stall
  else
    let id := d.freeId k
    let d := d.setCtx k c { x with farLoad := some id }
    .done (d.fabricIssue (⟨k, id, a, false, farSize a n, [], [], x.cls, x.priv, true, .farLoad k c (f1 w) (!xb w 26)⟩ : FabReq))

/-- ST with FAR: posted (R124). -/
def stFar (d : Dev) (k c : Nat) (old : RegFile) (w : SlotWord) : BRes Dev :=
  let a := scalarAddr old (f1 w) w
  let n := ldSize w
  let x := d.ctxAt k c
  if !d.farOk k c a n true then .fault d (violation a)
  else if d.fab.held.any (fun q => q.master == k) then .stall
  else
    let cells := ((List.range n).zip (bytesOf n (old.getS (f2 w)).toNat)).take (farSize a n)
    .done (d.fabricIssue (⟨k, d.freeId k, a, true, 0, cells, [], x.cls, x.priv, true, .farStore k c⟩ : FabReq))

/-- LD (R121). -/
def ld (d : Dev) (k c : Nat) (old : RegFile) (w : SlotWord) : BRes Dev :=
  if xb w 27 then d.ldFar k c old w else d.ldRoom k c old w

/-- ST (R121). -/
def st (d : Dev) (k c : Nat) (old : RegFile) (w : SlotWord) : BRes Dev :=
  if xb w 27 then d.stFar k c old w else d.stRoom k old w

/-! ### The stream unit (R80, R81) -/

/-- A granule from the far side to the room: a far read that fails writes zeros. -/
def granuleIn (d : Dev) (k c room far : Nat) : Dev :=
  match d.busRead k far 64 with
  | (d, r, l) =>
    let d := d.memPut k (roomAddr k room) (if r = .okay then l else List.replicate 64 0)
    if r = .okay then d else d.memErr k c far

/-- A granule from the room to the far side: a bad room word goes with its poison flag. -/
def granuleOut (d : Dev) (k c room far : Nat) : Dev :=
  let (d, bad) := d.readUnits k (unitsOf (roomAddr k room) 64)
  let d := match bad with
    | [] => d
    | w :: _ => d.memErr k c (w - roomAddr k 0)
  let cells := (List.range 64).map (fun i => (i, d.byteAt (roomAddr k (room + i))))
  let (d, r) := d.busWrite k far cells (bad.map (fun w => w - roomAddr k room))
  if r = .okay then d else d.memErr k c far

/-- The oldest stream entry of a context completes (R80). -/
def streamEntryDone (d : Dev) (k c : Nat) : Dev :=
  let x := d.ctxAt k c
  match x.stream with
  | [] => d
  | e :: t =>
    let d := (List.range (e.len / 64)).foldl (fun d i =>
      if e.toFar then d.granuleOut k c (e.room + 64 * i) (e.far + 64 * i) else d.granuleIn k c (e.room + 64 * i) (e.far + 64 * i)) d
    let d := d.setCtx k c { d.ctxAt k c with stream := t }
    if x.mode = .draining ∧ x.fault = none ∧ t = [] then d.freeContext k c else d

end Dev
end Sys2Proof.Machine
end

