-- ==== Sys2Proof/Machine/Pe.lean ====
section
/-! DEFINITION. Sys2Proof/Machine/Pe.lean: PE, the porch engine: its instruction subset, its registers and its address space (R148, R149, R496, R527, R532). -/
namespace Sys2Proof.Machine
namespace Dev

/-! ### PE's address space (R527) -/

/-- A block of words, 64 of them, as bytes. -/
def wordsAt (l : List Int) (o n : Nat) : List Byte := slice (bytesOf 4 (unsignedOf 32 (l.getD (o / 4) 0)) ++ bytesOf 4 (unsignedOf 32 (l.getD (o / 4 + 1) 0))) (o % 4) n

/-- The words with bytes from offset `o` replaced. -/
def wordsPut (l : List Int) (o : Nat) (b : List Byte) : List Int :=
  let all := (List.range 64).flatMap (fun i => bytesOf 4 (unsignedOf 32 (l.getD i 0)))
  bytesWords 64 (patch all o b)

/-- The part of PE's address space that holds an access, with the offset inside it. -/
inductive PeArea where
  | sram
  | receive (p o : Nat)
  | transmit (p o : Nat)
  | frame (o : Nat)
  | porch (o : Nat)
  deriving DecidableEq, Repr

/-- Where an access of `n` bytes at `a` lies; `none` is an access violation. -/
def peArea (a n : Nat) : Option PeArea :=
  let p := a / 0x1000 % 2
  let o := a % 0x1000
  if a % n ≠ 0 then none
  else if a + n ≤ 0x80000 then some .sram
  else if a / 0x2000 = 0x200 ∧ o + n ≤ 0x100 then some (.receive p o)
  else if a / 0x2000 = 0x200 ∧ 0x400 ≤ o ∧ o + n ≤ 0x500 then some (.transmit p (o % 0x100))
  else if 0x402000 ≤ a ∧ a + n ≤ 0x402004 then some (.frame (a % 0x1000))
  else if 0x600000 ≤ a ∧ a + n ≤ 0x610000 then some (.porch (a % 0x10000))
  else none

/-- PE reads `n` bytes. A register access that is not 4 B gets an error response: it reads 0 (R4, R125, R496). -/
def peRead (d : Dev) (a n : Nat) : Dev × Except FaultInfo (List Byte) :=
  match peArea a n with
  | none => (d, .error (violation a))
  | some .sram =>
    match d.memRead mPe (porchBase + a) n with
    | (d, .error x) => (d, .error (roomUe (x % porchBase)))
    | (d, .ok l) => (d, .ok l)
  | some (.receive p o) => (d, .ok (wordsAt (d.sapAt p).rxPrev o n))
  | some (.transmit p o) => (d, .ok (wordsAt (d.sapAt p).pe o n))
  | some (.frame o) => (d, .ok (slice (bytesOf 4 d.pch.frame) o n))
  | some (.porch o) =>
    if n = 4 then
      let (d, w) := d.regRead (0x0180000 + o)
      (d, .ok (bytesOf 4 w.toNat))
    else (d, .ok (List.replicate n 0))

/-- PE writes bytes. The porch records are the porch's only; the receive words and FRAME are read-only, and a write to them is ignored. -/
def peWrite (d : Dev) (a : Nat) (l : List Byte) : Dev × Option FaultInfo :=
  match peArea a l.length with
  | none => (d, some (violation a))
  | some .sram =>
    if 0xE000 ≤ a ∧ a < 0x10000 then (d, some (violation a))
    else
      let (d, ok) := d.memWrite mPe (porchBase + a) l
      (d, if ok then none else some (roomUe a))
  | some (.receive _ _) => (d, none)
  | some (.transmit p o) => (d.setSap p { d.sapAt p with pe := wordsPut (d.sapAt p).pe o l }, none)
  | some (.frame _) => (d, none)
  | some (.porch o) => (if l.length = 4 then (d.regWrite ⟨mPe, true⟩ (0x0180000 + o) (BitVec.ofNat 32 (ofBytes l))).1 else d, none)

/-! ### Issue -/

/-- PE runs (R529, R532). -/
def peRuns (d : Dev) : Bool := d.pch.up && d.on PCH_STATUS.SAFE_RUN

/-- Replace PE's registers. PE has no flag masks. -/
def setPeRegs (d : Dev) (r : RegFile) : Dev := d.setPch { d.pch with regs := noFlags r }

/-- PE goes on to the next bundle, or repeats this one (R145). -/
def peAdvance (d : Dev) : Dev :=
  match d.pch.rep with
  | some (n + 2) => d.setPch { d.pch with rep := some (n + 1) }
  | _ =>
    let r := d.pch.regs
    d.setPch { d.pch with rep := none, regs := { r with pc := r.pc + 16 } }

/-- Issue an instruction on PE: `legal` says whether PE has it and may repeat it; `op` acts from the registers before the bundle, on the
device with PE gone on. Slot A must hold NOP. -/
def peIssue (d : Dev) (w : SlotWord) (legal : RegFile → SlotWord → Option Bool) (op : Dev → RegFile → SlotWord → BRes Dev) : Dev :=
  if !d.peRuns then d
  else
    let r := d.pch.regs
    let pc := r.pc.toNat
    match d.memRead mPe (porchBase + pc) 16 with
    | (d, .error _) => d.peFault 2 pc
    | (d, .ok _) =>
      match (if w.slot = .b then legal r w else none) with
      | none => d.peFault 3 pc
      | some inRep =>
        if d.pch.rep.isSome && !inRep then d.peFault 3 pc
        else
          let last := decide (0x80000 ≤ d.peAdvance.pch.regs.pc.toNat)
          match op d.peAdvance r w with
          | .stall => d
          | .fault d f => d.peFault f.code pc
          | .done d1 => if last then d.peFault 4 pc else d1
          | .jump d1 t =>
            if 0 ≤ t ∧ t < 0x80000 then d1.setPeRegs { d1.pch.regs with pc := BitVec.ofInt 23 t } else d.peFault 4 pc
          | .stay d1 => d1
          | .rep d1 n => if last then d.peFault 4 pc else d1.setPch { d1.pch with rep := some n }

/-- An opcode that PE does not implement (R148). -/
def peIllegal (d : Dev) (w : SlotWord) : Dev := d.peIssue w (fun _ _ => none) (fun d _ _ => .done d)

/-- Whether a register operand is one that PE has: accumulator a0, lane 0 (R149). -/
def peHas (l : List RegRef) : Bool := l.all (fun x => x.file == 0 || (x.file == 2 && x.ix == 0 && x.lanes == 1))

/-- An instruction on PE's registers alone. -/
def peReg (d : Dev) (w : SlotWord) (plan : RegFile → SlotWord → Option Plan) : Dev :=
  d.peIssue w (fun r w => match plan r w with
    | some p => if peHas p.src && peHas p.dst then some true else none
    | none => none) (fun d old w =>
      match plan old w with
      | none => .done d
      | some p => .done (d.setPeRegs (p.run old (noFlags d.pch.regs))))

/-- What a memory or control instruction needs to be legal on PE. -/
def peLegal (plan : RegFile → SlotWord → Option BPlan) (ok : SlotWord → Bool) (r : RegFile) (w : SlotWord) : Option Bool :=
  match plan r w with
  | some p => if ok w && peHas p.src && peHas p.dst then some p.inRep else none
  | none => none

/-- NOP: in slot A it is part of PE's bundle. -/
def peNop (d : Dev) (w : SlotWord) : Dev :=
  if w.slot = .a ∧ (planNop d.pch.regs w).isSome = true then d else d.peReg w planNop

/-- LD with FAR = 0. -/
def peLd (d : Dev) (w : SlotWord) : Dev :=
  d.peIssue w (peLegal planLd (fun w => !xb w 27)) (fun d old w =>
    match d.peRead (scalarAddr old (f2 w) w) (ldSize w) with
    | (d, .error f) => .fault d f
    | (d, .ok l) => .done (d.setPeRegs (d.pch.regs.setS (f1 w) (ldValue w l))))

/-- ST with FAR = 0. -/
def peSt (d : Dev) (w : SlotWord) : Dev :=
  d.peIssue w (peLegal planSt (fun w => !xb w 27)) (fun d old w =>
    match d.peWrite (scalarAddr old (f1 w) w) (bytesOf (ldSize w) (old.getS (f2 w)).toNat) with
    | (d, some f) => .fault d f
    | (d, none) => .done d)

/-- TAPMOVE (R137). -/
def peTapmove (d : Dev) (w : SlotWord) : Dev :=
  d.peIssue w (peLegal planTapmove (fun _ => true)) (fun d old w =>
    let sx := (old.getS (f2 w)).toNat
    let sh := (old.getS (f3 w)).toNat
    if sx % 4 ≠ 0 then .fault d (violation sx)
    else
      match d.peRead sx 4 with
      | (d, .error f) => .fault d f
      | (d, .ok x) =>
        match d.peRead sh 4 with
        | (d, .error f) => .fault d f
        | (d, .ok h) =>
          match d.peWrite (sx + 4) x with
          | (d, some f) => .fault d f
          | (d, none) =>
            let r := noFlags d.pch.regs
            let p := signedOf 32 (ofBytes x) * signedOf 32 (ofBytes h)
            let r := accLane r 0 0 ((lane (old.getA 0) 0).add p)
            .done (d.setPeRegs ((r.setS (f2 w) (old.getS (f2 w) - 4)).setS (f3 w) (old.getS (f3 w) + 4))))

/-- A branch target on PE. -/
def peTarget (old : RegFile) (w : SlotWord) : Int := (old.pc.toNat : Int) + 16 * ximm w

/-- BR (R142). -/
def peBr (d : Dev) (w : SlotWord) : Dev := d.peIssue w (peLegal planBr (fun _ => true)) (fun d old w => .jump d (peTarget old w))

/-- BCOND (R142). -/
def peBcond (d : Dev) (w : SlotWord) : Dev :=
  d.peIssue w (peLegal planBcond (fun _ => true)) (fun d old w =>
    if bcondHolds (xf w 24 3) (old.getS (f1 w)) (old.getS (f2 w)) then .jump d (peTarget old w) else .done d)

/-- JAL (R142). -/
def peJal (d : Dev) (w : SlotWord) : Dev :=
  d.peIssue w (peLegal planJal (fun _ => true)) (fun d old w =>
    .jump (d.setPeRegs (d.pch.regs.setS (f1 w) (BitVec.ofNat 64 (old.pc.toNat + 16)))) (peTarget old w))

/-- JR (R142). -/
def peJr (d : Dev) (w : SlotWord) : Dev :=
  d.peIssue w (peLegal planJr (fun _ => true)) (fun d old w => .jump d (((old.getS (f1 w)).toNat % 2 ^ 23 / 16 * 16 : Nat) : Int))

/-- REP (R145). -/
def peRep (d : Dev) (w : SlotWord) : Dev :=
  d.peIssue w (peLegal planRep (fun _ => true)) (fun d old w =>
    .rep d ((if xb w 8 then (old.getS (f1 w)).toNat % 256 else xf w 0 8) + 1))

end Dev
end Sys2Proof.Machine
end

