-- ==== Sys2Proof/Machine/HifShadow.lean ====
section
/-! DEFINITION. Sys2Proof/Machine/HifShadow.lean: register accesses that come through HIF and the management port: SHADOW_WRITE, BAR0, READ_REG (R263, R278 to R280, R496, R553). -/
namespace Sys2Proof.Machine
namespace Dev

/-- The host, as a master of the register space: HIF's requests have PRIV 0 (R491). -/
def hostMaster : Master := ⟨20, false⟩

/-- The pairs of a SHADOW_WRITE payload: register-space offset and value. -/
def shadowPairs (l : List Byte) : List (Nat × Word) :=
  (List.range (l.length / 8)).map (fun i => (ofBytes (slice l (8 * i) 4), BitVec.ofNat 32 (ofBytes (slice l (8 * i + 4) 4))))

/-- An offset that SHADOW_WRITE may name (R279). -/
def shadowTarget (a : Nat) : Bool :=
  a % 4 == 0 && (match placeOf a with
    | none => false
    | some p => !(p.blk == .hif || p.blk == .xlt || p.blk == .clk || p.blk == .rst || p.blk == .pch))

/-- Whether the descriptor has SHADOW_WRITE's form: TARGET and the mask only with ARM (R276, R278). -/
def shadowForm (l : List Byte) : Bool :=
  flagsOf l / 4 == 0 && payloadOf l % 8 == 0 && zeros l 32 32 && (bitOf (flagsOf l) 0 || (targetField l == 0 && zeros l 24 8))

/-- The register writes in payload order: writes applied, writes rejected, whether one was rejected under R41. -/
def shadowWrites (d : Dev) : List (Nat × Word) → Dev × Nat × Nat × Bool
  | [] => (d, 0, 0, false)
  | (a, v) :: t =>
    let (d, e) := d.regWrite hostMaster a v
    let (d, ok, bad, busy) := shadowWrites d t
    if e.busy || e.priv then (d, ok, bad + 1, busy || e.busy) else (d, ok + 1, bad, busy)

/-- SHADOW_WRITE (R278 to R280). -/
def shadowWrite (d : Dev) (r : Nat) : Dev :=
  d.withOp r (· == 1) (fun d e l =>
    let pairs := shadowPairs (slice l 64 (payloadOf l))
    if !shadowForm l then d.complete r e 0x101 0
    else if pairs.any (fun p => !shadowTarget p.1) then d.complete r e 0x102 0
    else
      let (d, ok, bad, busy) := d.shadowWrites pairs
      let res := ok + 2 ^ 16 * bad
      if busy then d.complete r e 0x104 res
      else if bitOf (flagsOf l) 0 = false then d.complete r e 0 res
      else
        let (d, refused, late) := d.armMask (ofBytes (slice l 24 8)) (targetField l)
        if refused ≠ 0 then d.complete r e 0x106 (refused ||| late)
        else if late ≠ 0 then d.complete r e 0x105 late
        else d.complete r e 0 res)

/-! ### BAR0 (R263, R496) -/

/-- AER holds an error (R263, R308). -/
def aer (d : Dev) : Dev := d.level 75 true

/-- A host read of `n` bytes at BAR0 offset `o`. -/
def bar0Read (d : Dev) (o n : Nat) : Dev :=
  if (placeOf o).isNone then { d.fabDecode reqHif (regBase + o) false with resp := .unsupported }
  else if n ≠ 4 ∨ o % 4 ≠ 0 then { d.aer with resp := .abort }
  else if d.isolated 33 then { d with resp := .poisoned }
  else
    let (d, w) := d.regRead o
    { d with resp := .bytes (bytesOf 4 w.toNat) }

/-- A host write at BAR0 offset `o`. -/
def bar0Write (d : Dev) (o : Nat) (l : List Byte) : Dev :=
  if (placeOf o).isNone then d.fabDecode reqHif (regBase + o) true
  else if l.length ≠ 4 ∨ o % 4 ≠ 0 then d.aer
  else if d.isolated 33 then d
  else (d.regWrite hostMaster o (BitVec.ofNat 32 (ofBytes l))).1

/-- Whether a host request reaches HIF. -/
def hostReaches (d : Dev) : Bool := d.on HIF_STATUS.LINK_UP && !d.hifReset

/-- A host access to BAR0: a write of bytes, or a read of `n`. -/
def bar0Access (d : Dev) (o : Nat) (w : Option (List Byte)) (n : Nat) : Dev :=
  if !d.hostReaches then d
  else
    match w with
    | some l => d.bar0Write o l
    | none => d.bar0Read o n

/-- A host access to BAR4 (R264). -/
def bar4Access (d : Dev) (o : Nat) (w : Option (List Byte)) (n : Nat) : Dev :=
  if !d.hostReaches then d
  else
    match w with
    | some l => d.bar4Write o l
    | none => d.bar4Read o n

/-! ### READ_REG (R553) -/

/-- SMBus 0x06: a Process Call that returns the PCH register at an offset. An offset that is not a multiple of 4 is not acknowledged. -/
def readReg (d : Dev) (o : Nat) : Dev :=
  d.smbRead (fun d =>
    if o % 4 ≠ 0 then { d.smbErr with resp := .nack }
    else
      let (d, w) := d.regRead (0x0180000 + o % 0x10000)
      d.smbReply [0x06, o % 256, o / 256 % 256] (bytesOf 4 w.toNat))

end Dev
end Sys2Proof.Machine
end

