-- ==== Sys2Proof/Machine/Landing.lean ====
section
/-! DEFINITION. Sys2Proof/Machine/Landing.lean: the landing: what every block does at the boundary that opens a period (R16, R30, R40, R46, R47, R572). -/
namespace Sys2Proof.Machine
namespace Dev

/-! ### The counter mirror (R572) -/

/-- PMC writes the counters of the permitted groups into the mirror. -/
def pmcMirror (d : Dev) (m : Nat) : Dev :=
  if !d.on PMC_MIRROR.EN then d
  else
    (bitList 24 (d.get PMC_PERM_ENG.GROUPS)).foldl (fun d g => (List.range 16).foldl (fun d e =>
      let n := 16 * g + e
      d.memPut reqTsk (4096 * d.get PMC_MIRROR.BASE + 8 * n) (bytesOf 6 (d.get64 (Adr.PMC_CNT_LO n)) ++ bytesOf 2 m)) d) d

/-! ### The landing -/

/-- The counters at the landing that begins period `m` (R26, R30). -/
def countersAt (d : Dev) (f : Frozen) : Dev :=
  let d := d.set64 Adr.LND_PERIOD_LO f.period
  match f.resync with
  | some s =>
    let d := (d.set64 Adr.LND_SAMPLE_LO s).setLnd { d.lnd with media := (d.tbAt d.tbSel).t }
    ((d.set LND_STATUS.RESYNC 1).pmc 3 1).raise 5
  | none => d.set64 Adr.LND_SAMPLE_LO (f.period * d.perLen % 2 ^ 64)

/-- The arms of the banks that landed or were refused are cleared; the copies and the records are made (R40). -/
def landBanks (d : Dev) (f : Frozen) : Dev :=
  let gone := f.due ||| f.refused
  let d := d.setArmed (d.get64 Adr.LND_ARMED_LO &&& (2 ^ 64 - 1 - gone))
  let d := d.copyBanks (bitList 64 f.due)
  (d.landed (bitList 64 f.due) f.period).pmc 0 1

/-- The audio path at a landing: FE releases the block that ended, MIX takes it with the serial ports' halves, and hands on (R16, R409). -/
def mediaLanding (d : Dev) (m : Nat) (first resync : Bool) : Dev :=
  let d := d.ochLand m
  let (d, flows) := d.feRelease (wrap64 ((m : Int) - 1))
  let d := (d.feRxLand).feTxLand m (resync || first)
  let (d, ports) := (List.range 8).foldl (fun (acc : Dev × List (List (List Int))) p =>
    let (d, l) := acc.1.sapRxTake p
    (d, acc.2 ++ [l])) (d, [])
  let d := (List.range 8).foldl sapLand d
  d.mixLanding m flows ports

/-- LND stops at the instant of the landing that does not occur: the last sample counted is the one before it (R602). -/
def stopAtLanding (d : Dev) : Dev := (d.set64 Adr.LND_SAMPLE_LO (d.period * d.perLen + d.perLen - 1)).lndStop

/-- The landing, `ticks` FABRIC ticks from now; it needs its freeze point. -/
def landing (d : Dev) (ticks : Nat) : Dev :=
  let d := d.elapse ticks
  match d.lnd.frozen with
  | none => d
  | some f =>
    if f.stop then d.stopAtLanding
    else
      let m := f.period
      let first := !d.on LND_STATUS.RUNNING
      let d := drainDone (d.tsk.done.length + 65536) d
      let d := if d.linkHeld 26 then d else d.hallDeadlines m
      let d := d.setLnd { d.lnd with frozen := none }
      let d := (d.set LND_STATUS.RUNNING 1).countersAt f
      let d := d.landBanks f
      let d := if f.resync.isSome then d.missSweep else d
      let d := if d.linkHeld 26 then d.gangLand else (d.gangLand).hallStart m
      let d := d.gangRelease m
      let d := d.gangDigest m
      let d := if d.linkHeld 22 then d else (d.tskLanding m).xbarRetry
      let d := d.mediaLanding m first f.resync.isSome
      (d.pmcMirror m).waitsDone

end Dev
end Sys2Proof.Machine
end

