-- ==== Sys2Proof/Machine/Cmd.lean ====
section
/-! DEFINITION. Sys2Proof/Machine/Cmd.lean: what a command does around the operation of its block: the clock it needs, a master's access to a register, the host's own memory, and the few commands that have no other home (R90, R83, R211, R212, R268, R303, R488, R505, R507, R554, R570). -/
namespace Sys2Proof.Machine
namespace Dev

/-! ### Clocks -/

/-- The chip domain runs: it is out of reset and the root PLL, which all its clocks come from, is locked (R506, R507). -/
def chipRuns (d : Dev) : Bool := d.chipOn && d.on CLK_STATUS.ROOT_LOCK

/-- A command of the chip domain: without a clock nothing happens. -/
def inChip (d : Dev) (f : Dev → Dev) : Dev := if d.chipRuns then f d else d

/-- A command of a unit that the porch can hold in reset through its link (R554). -/
def inUnit (d : Dev) (m : Nat) (f : Dev → Dev) : Dev := if d.chipRuns && !d.linkHeld m then f d else d

/-- A command of the porch, once it is out of reset (R523). -/
def inPorch (d : Dev) (f : Dev → Dev) : Dev := if d.pch.up then f d else d

/-- A command of a serial port: SAP0 and SAP1 belong to the porch (R406). -/
def inSap (d : Dev) (p : Nat) (f : Dev → Dev) : Dev := if (decide (p < 2) && d.pch.up) || d.chipRuns then f d else d

/-- Whether the fabric serves master `m`: PE reaches the porch registers without the chip domain (R505). -/
def inFabric (d : Dev) (m : Nat) : Bool := d.chipRuns || (m == mPe && d.pch.up)

/-! ### Register accesses -/

/-- A 4 B access of master `m` to the register space, a write of `w` or a read, and its response (R4, R6, R491, R492, R496, R505).
A master that has no clock or is held in reset makes none. -/
def regCmd (d : Dev) (m : Master) (a : Nat) (w : Option Word) : Dev :=
  if decide (28 ≤ m.num) || !d.inFabric m.num || d.masterHeld m.num then d
  else if (placeOf a).isNone then { d.fabDecode m.num (regBase + a) w.isSome with resp := .decode }
  else if !d.chipOn && !pastGate m.num a then { d.gateRefuse with resp := .error }
  else if d.isolated 33 || a % 4 != 0 then { d with resp := .error }
  else
    match w with
    | some v => { (d.regWrite m a v).1 with resp := .okay 0 }
    | none =>
      let r := d.regRead a
      { r.1 with resp := .okay r.2.toNat }

/-- A request of a master at the fabric (R491). -/
def fabricRequest (d : Dev) (q : FabReq) : Dev := if d.inFabric q.master then d.fabricIssue q else d

/-! ### Engines -/

/-- A task whose cycle count passes its limit takes fault 0x05; `stalls` are CORE cycles that the context has stalled in and that no
bundle has counted (R90, R91). A TDONE that completes in the cycle in which the limit passes ends the task without a fault (R99). -/
def cycleLimit (d : Dev) (k c stalls : Nat) : Dev :=
  let m := (d.ctxAt k c).mode
  if d.engState k = engActive ∧ (m = .running ∨ (m = .ending ∧ stalls ≠ 0)) then
    let d := if stalls = 0 then d else d.runCycles k c stalls
    let x := d.ctxAt k c
    if x.limit ≠ 0 ∧ x.limit < x.cycles then d.fault k c ⟨5, 0, 0, 0, 0⟩ else d
  else d

/-- The next fetch meets bad parity in a resident line: the line is invalidated, and fetched again (R83). -/
def parityFetch (d : Dev) (k n : Nat) : Dev :=
  let c := d.runCtx k
  if (d.engAt k).icache.contains n && d.canIssue k && d.on (ENG_CFG.ICACHE_EN k) then
    match (d.icacheParity k n).icacheFill k n with
    | (d, some f) => d.fault k c f
    | (d, none) => d
  else d

/-! ### The descriptor pool (R211, R212) -/

/-- A master's write of the 64 bytes of pool entry `ix`. -/
def poolSet (d : Dev) (m : Master) (ix : Nat) (l : List Byte) : Dev :=
  if !d.inFabric m.num || d.masterHeld m.num then d
  else (d.busWrite m.num (d.poolBase + 64 * ix) ((List.range 64).zip l) []).1

/-- A master's write of SUCC_CTRL of pool entry `ix` that clears VALID. -/
def poolClear (d : Dev) (m : Master) (ix : Nat) : Dev :=
  if !d.inFabric m.num || d.masterHeld m.num then d
  else (d.busWrite m.num (d.poolBase + 64 * ix) [(11, d.byteAt (d.poolBase + 64 * ix + 11) &&& 0x7F)] []).1

/-! ### The host -/

/-- A host write of a doorbell page's index (R268). -/
def doorbellWrite (d : Dev) (r : Nat) (h : Word) : Dev := if d.hostReaches then d.doorbell r h.toNat else d

/-- A host write of a doorbell page's resume register, at offset 0x8: FSEQ and ABORT (R303). -/
def resumeWrite (d : Dev) (r fseq : Nat) (abort : Bool) : Dev :=
  if !d.hostReaches then d
  else if abort then d.xltResumeAbort r fseq else d.xltResume r fseq

/-- A command before which the host has changed its own memory. -/
def withHost (d : Dev) (u : HostUpd) (f : Dev → Dev) : Dev := (d.hostUpdate u).inChip f

/-! ### Ports -/

/-- The port's link comes up, once its SerDes PLL is locked and the port is out of reset (R311, R509). -/
def linkRises (d : Dev) (p : Nat) : Dev := if d.macOn p && d.netLocked p then d.linkUp p else d

/-- A frame at a port, with the codewords that its FEC corrected and could not correct (R316, R320). In standby P0 watches for its
wake patterns (R346). -/
def frameReceive (d : Dev) (p : Nat) (l : List Byte) (symbol align : Option Nat) (corr uncorr : Nat) : Dev :=
  if !d.chipRuns && !d.inStandby then d
  else
    let d := if d.macOn p && d.on (MAC_STATUS.LINK p) then (d.bumpBy (Adr.MAC_FEC_CORR p) corr).bumpBy (Adr.MAC_FEC_UNCORR p) uncorr else d
    d.macReceive p l symbol align

/-! ### Resets, the management port, counters -/

/-- A cold reset's cause as RST_CAUSE gives it (R521). -/
def coldCause : ColdPin → Nat
  | .porchPg => 1
  | .resetIn => 2

/-- A warm reset by its cause (R511). -/
def warmBy (d : Dev) : WarmWhy → Dev
  | .rstCtrl m v => d.regCmd m Adr.RST_CTRL (some v)
  | .chipPg => d.chipPgFall
  | .fatal => d.inChip fatal

/-- RESET_MASTER's data: the master, and 1 to assert or 0 to release (R553, R554). -/
def smbReset (d : Dev) (target on : Nat) : Dev :=
  if on = 1 then d.resetMaster target true else if on = 0 then d.resetMaster target false else d

/-- An increment of weight `w` on counter `n` that takes it past 2^48 − 1 (R569, R570). -/
def counterWrap (d : Dev) (n w : Nat) : Dev :=
  let c := d.get64 (Adr.PMC_CNT_LO n) + (if bitOf (d.reg (Adr.PMC_MODE (n / 32))).toNat (n % 32) then w else 1)
  if 0 < w ∧ 2 ^ 48 ≤ c then d.pmc n w else d

/-- The write-back of a word in memory that has a clock (R431). -/
def writeBack (d : Dev) (a : Nat) : Dev := if d.chipRuns || (isPorchKey (d.memKey a) && d.pch.up) then d.ceWriteback a else d

/-! ### Idle time -/

/-- One FABRIC tick in which no command comes: time passes, and the time bases and the media clock go on while they have a clock. -/
def idle (d : Dev) : Dev := if d.chipRuns then d.elapse 1 else { d with now := d.now + 1 }

end Dev
end Sys2Proof.Machine
end

