-- ==== Sys2Proof/Machine/State.lean ====
section
/-! DEFINITION. Sys2Proof/Machine/State.lean: the state of the block: the device and the queue of the commands that wait; the state after reset; why a step can stop. -/
namespace Sys2Proof.Machine

/-- The block: the commands that wait, first in first out, and the device. -/
structure State where
  pending : List Instr
  dev : Dev
  deriving DecidableEq, Repr

/-- The block right after a cold reset by PORCH_PG (R511, R521): no command waits, the porch and the chip domain are in reset, the pins
CHIP_PG and PCIE_PERST_N are low, the flash device is erased and no OTP word is programmed. -/
def State.reset : State :=
  ⟨[], (Dev.blank (.cold [] [] false false) [] [] [] 0 0).set RST_CAUSE.CAUSE 1⟩

/-- Why a step stops with a fault: the spec stops the block on no command, so there is no such reason. -/
inductive Fault where
  deriving DecidableEq, Repr

/-- Why a step refuses a command. -/
inductive Refusal where
  /-- raised by exec's arm of a row that has no meaning yet (no row now): the run stops there, which is safe -/
  | notModelled (mnemonic : String)
  deriving DecidableEq, Repr

end Sys2Proof.Machine
end

