-- ==== Sys2Proof/Machine/Fire.lean ====
section
/-! DEFINITION. Sys2Proof/Machine/Fire.lean: how a command's operation on the device becomes an outcome: at its end EVC has acted on what occurred (R561). -/
namespace Sys2Proof.Machine

/-- The outcome of a command. -/
abbrev Out := Host.Outcome State Fault Refusal

/-- The device after a command whose operation is `f`. -/
def after (s : State) (f : Dev → Dev) : State := { s with dev := (f s.dev).settle }

/-- A command whose operation is `f`. -/
def fire (s : State) (f : Dev → Dev) : Out := .next (after s f)

/-- An instruction on a core: `re` on a render engine, which is in the chip domain, `pe` on PE. -/
def fireOn (s : State) (u : Core) (re : Nat → Dev → Dev) (pe : Dev → Dev) : Out :=
  match u with
  | .re k => fire s (fun d => d.inChip (re k))
  | .pe => fire s (fun d => d.inPorch pe)

end Sys2Proof.Machine
end

