-- ==== Sys2Proof/Machine/ExecAccess.lean ====
section
/-! DEFINITION. Sys2Proof/Machine/ExecAccess.lean: the meanings of register accesses (R5, R7, R601), one per command. -/
namespace Sys2Proof.Machine
open Dev

/-- REGISTER_WRITE: A write to a register that has no row of its own sets, clears or ignores each field by its access code and takes effect as its Takes effect value gives (R7). -/
def execRegisterWrite (m : Master) (a : Nat) (v : Word) (s : State) : Out :=
  fire s (fun d => d.regCmd m a (some v))

/-- READ_LO_LATCH: A read of a _LO register returns the low half and latches the high half for the next read of _HI (R5). -/
def execReadLoLatch (m : Master) (a : Nat) (s : State) : Out :=
  fire s (fun d => d.regCmd m a none)

/-- WRITE_HI_BUFFER: A write to a _HI register is held in the pair's buffer without changing the value (R5). -/
def execWriteHiBuffer (m : Master) (a : Nat) (v : Word) (s : State) : Out :=
  fire s (fun d => d.regCmd m a (some v))

/-- WRITE_LO_COMMIT: A write to a _LO register commits the buffered high half together with the low half and clears the buffer (R5). -/
def execWriteLoCommit (m : Master) (a : Nat) (v : Word) (s : State) : Out :=
  fire s (fun d => d.regCmd m a (some v))

/-- RC_COUNTER_READ: A read of a read-to-clear count returns its value and restarts it from 0 (R601). -/
def execRcCounterRead (m : Master) (a : Nat) (s : State) : Out :=
  fire s (fun d => d.regCmd m a none)

end Sys2Proof.Machine
end

