-- ==== Sys2Proof/Machine/ExecDram.lean ====
section
/-! DEFINITION. Sys2Proof/Machine/ExecDram.lean: the meanings of the DRAM controller (R463 to R484), one per command. -/
namespace Sys2Proof.Machine
open Dev

/-- DMC_INIT: DMC_CTRL.INIT checks the channel's setup and starts power-up, or sets CFG_BAD (R481). -/
def execDmcInit (m : Master) (c : ChanIx) (v : Word) (s : State) : Out :=
  fire s (fun d => d.regCmd m (Adr.DMC_CTRL c) (some v))

/-- DMC_INIT_KEEP: INIT with KEEP exits self-refresh instead of resetting the DRAM (R481). -/
def execDmcInitKeep (m : Master) (c : ChanIx) (v : Word) (s : State) : Out :=
  fire s (fun d => d.regCmd m (Adr.DMC_CTRL c) (some v))

/-- DMC_POWERUP_DONE: Power-up, ZQ calibration and mode-register writes complete and the channel enters INIT (R480). -/
def execDmcPowerupDone (c : ChanIx) (s : State) : Out :=
  fire s (fun d => d.inChip (fun d => d.dmcPowerup c))

/-- DMC_FILL: DMC_CTRL.FILL in INIT starts writing every line with zero data and correct check bytes (R482). -/
def execDmcFill (m : Master) (c : ChanIx) (v : Word) (s : State) : Out :=
  fire s (fun d => d.regCmd m (Adr.DMC_CTRL c) (some v))

/-- DMC_FILL_DONE: The channel fill completes and FILL_BUSY clears (R482). -/
def execDmcFillDone (c : ChanIx) (s : State) : Out :=
  fire s (fun d => d.inChip (fun d => d.dmcFillDone c))

/-- DMC_ENABLE: DMC_CTRL.EN takes the channel from INIT to ONLINE (R480). -/
def execDmcEnable (m : Master) (c : ChanIx) (v : Word) (s : State) : Out :=
  fire s (fun d => d.regCmd m (Adr.DMC_CTRL c) (some v))

/-- DMC_FENCE: FENCE written 1 fences the channel and error-completes its queued requests (R476). -/
def execDmcFence (m : Master) (c : ChanIx) (v : Word) (s : State) : Out :=
  fire s (fun d => d.regCmd m (Adr.DMC_CTRL c) (some v))

/-- DMC_UNFENCE: FENCE written 0 returns the channel to ONLINE unless OOR is 1 (R478). -/
def execDmcUnfence (m : Master) (c : ChanIx) (v : Word) (s : State) : Out :=
  fire s (fun d => d.regCmd m (Adr.DMC_CTRL c) (some v))

/-- DMC_SREF_ENTER: SREF written 1 repays the refresh debt and places every rank in self-refresh (R484). -/
def execDmcSrefEnter (m : Master) (c : ChanIx) (v : Word) (s : State) : Out :=
  fire s (fun d => d.regCmd m (Adr.DMC_CTRL c) (some v))

/-- DMC_SREF_EXIT: SREF written 0 returns the channel to ONLINE (R480). -/
def execDmcSrefExit (m : Master) (c : ChanIx) (v : Word) (s : State) : Out :=
  fire s (fun d => d.regCmd m (Adr.DMC_CTRL c) (some v))

/-- DRAM_REQUEST: A channel schedules a queued read or write by class, row hit and age (R463). -/
def execDramRequest (c : ChanIx) (s : State) : Out :=
  fire s (fun d => d.inChip (fun d => d.dramRequest c))

/-- REFRESH_DUE: A refresh unit falls due and is issued or postponed by the debt rule (R466). -/
def execRefreshDue (c : ChanIx) (r : RankIx) (s : State) : Out :=
  fire s (fun d => d.inChip (fun d => d.refreshDue c r))

/-- REFRESH_REPAY: With both queues empty the controller issues one postponed REFab (R466). -/
def execRefreshRepay (c : ChanIx) (s : State) : Out :=
  fire s (fun d => d.inChip (fun d => d.refreshRepay c))

/-- MR4_POLL: Every 4 ms the controller reads MR4 of each rank and sets its refresh step (R467). -/
def execMr4Poll (c : ChanIx) (v0 : Byte) (v1 : Byte) (r0 : RefRate) (r1 : RefRate) (s : State) : Out :=
  fire s (fun d => d.inChip (fun d => d.mr4Poll c v0 v1 r0 r1))

/-- WCK2CK_LEVELING: Training OP 1 runs WCK pulse trains and samples CK (R472). -/
def execWck2ckLeveling (m : Master) (c : ChanIx) (v : Word) (s : State) : Out :=
  fire s (fun d => d.regCmd m (Adr.DMC_TRN_CTRL c) (some v))

/-- READ_DQ_CALIBRATION: Training OP 2 reads the mode-register pattern and compares it bit by bit (R472). -/
def execReadDqCalibration (m : Master) (c : ChanIx) (v : Word) (s : State) : Out :=
  fire s (fun d => d.regCmd m (Adr.DMC_TRN_CTRL c) (some v))

/-- WRITE_READ_COMPARE: Training OP 3 writes and reads back a PRBS pattern in the training line (R472). -/
def execWriteReadCompare (m : Master) (c : ChanIx) (v : Word) (s : State) : Out :=
  fire s (fun d => d.regCmd m (Adr.DMC_TRN_CTRL c) (some v))

/-- CA_BUS_TRAINING: Training OP 4 drives CA patterns and checks their echo (R472). -/
def execCaBusTraining (m : Master) (c : ChanIx) (v : Word) (s : State) : Out :=
  fire s (fun d => d.regCmd m (Adr.DMC_TRN_CTRL c) (some v))

/-- TRAINING_OP_DONE: A training operation ends, setting DONE and its result (R472). -/
def execTrainingOpDone (c : ChanIx) (fails : Word) (s : State) : Out :=
  fire s (fun d => d.inChip (fun d => d.trainDone c fails.toNat))

/-- SLOT_REQ: TRN_CTRL.SLOT_REQ requests a training slot (R473). -/
def execSlotReq (m : Master) (c : ChanIx) (v : Word) (s : State) : Out :=
  fire s (fun d => d.regCmd m (Adr.DMC_TRN_CTRL c) (some v))

/-- TRAINING_SLOT_OPEN: When its conditions hold the controller completes queued requests, saves delays and enters SLOT (R473). -/
def execTrainingSlotOpen (c : ChanIx) (s : State) : Out :=
  fire s (fun d => d.inChip (fun d => d.slotOpen c))

/-- COMMIT: TRN_CTRL.COMMIT ends the slot keeping the delays (R474). -/
def execCommit (m : Master) (c : ChanIx) (v : Word) (s : State) : Out :=
  fire s (fun d => d.regCmd m (Adr.DMC_TRN_CTRL c) (some v))

/-- END: TRN_CTRL.END ends the slot restoring the saved delays (R474). -/
def execTrnEnd (m : Master) (c : ChanIx) (v : Word) (s : State) : Out :=
  fire s (fun d => d.regCmd m (Adr.DMC_TRN_CTRL c) (some v))

/-- SLOT_OVERRUN: 20 µs after the slot began the controller restores the delays and sets SLOT_OVERRUN (R474). -/
def execSlotOverrun (c : ChanIx) (s : State) : Out :=
  fire s (fun d => d.inChip (fun d => d.slotOverrun c))

/-- PATROL_SCRUB: DMC maintenance reads its next line, writing back CEs and poisoning UEs (R483). -/
def execPatrolScrub (c : ChanIx) (l : List (Nat × Nat)) (s : State) : Out :=
  fire s (fun d => d.inUnit 25 (fun d => d.patrolScrub c l))

/-- POWER_DOWN_ENTRY: A rank idle for PD.IDLE cycles enters power-down (R484). -/
def execPowerDownEntry (c : ChanIx) (r : RankIx) (s : State) : Out :=
  fire s (fun d => d.inChip (fun d => d.powerDown c r))

end Sys2Proof.Machine
end

