-- ==== Sys2Proof/Machine/ExecEcc.lean ====
section
/-! DEFINITION. Sys2Proof/Machine/ExecEcc.lean: the meanings of ECC, fills, scrubbing (R431 to R449), one per command. -/
namespace Sys2Proof.Machine
open Dev

/-- CE_WRITEBACK: In the bank's next idle cycle the corrected word is written back (R431). -/
def execCeWriteback (a : Nat) (s : State) : Out :=
  fire s (fun d => d.writeBack a)

/-- FILL_GO: ECC_FILL_CTRL.GO starts a fill of zero words or sets FILL_BAD (R435). -/
def execFillGo (m : Master) (v : Word) (s : State) : Out :=
  fire s (fun d => d.regCmd m (Adr.ECC_FILL_CTRL) (some v))

/-- FILL_DONE: A fill completes and FILL_BUSY clears (R435). -/
def execFillDone (s : State) : Out :=
  fire s (fun d => d.inChip (fun d => d.fillDone))

/-- SCRUB_LINE: The scrubber reads its next line, writes back CEs and poisons or zero-fills UEs by region class (R443). -/
def execScrubLine (l : List (Nat × Nat)) (s : State) : Out :=
  fire s (fun d => d.inUnit 23 (fun d => d.scrubLine l))

/-- ROW_SPARE_DONE: The row copy ends, the row is redirected to the spare and the sparing is logged (R445). -/
def execRowSpareDone (b : Fin 304) (s : State) : Out :=
  fire s (fun d => d.inChip (fun d => d.rowSpareDone b))

/-- ECC_LOG_POP: A read of ECC_LOG_POP moves the oldest log entry into the log registers (R448). -/
def execEccLogPop (m : Master) (s : State) : Out :=
  fire s (fun d => d.regCmd m (Adr.ECC_LOG_POP) none)

/-- ECC_INJECT_ARM: A write of ECC_INJ_CTRL with ARM arms an injection on an ECC word (R449). -/
def execEccInjectArm (m : Master) (v : Word) (s : State) : Out :=
  fire s (fun d => d.regCmd m (Adr.ECC_INJ_CTRL) (some v))

/-- PANTRY_SELFTEST_END: Pantry self-test ends after chip reset and reports per bank, setting BIST_FAIL on failure (R439). -/
def execPantrySelftestEnd (fails : Word) (rows : List Nat) (s : State) : Out :=
  fire s (fun d => d.inChip (fun d => d.pantryTested fails.toNat rows))

end Sys2Proof.Machine
end

