-- ==== Sys2Proof/Machine/ExecEngineTask.lean ====
section
/-! DEFINITION. Sys2Proof/Machine/ExecEngineTask.lean: the meanings of dispatch to the engines, what their units do, their control, the hall and OCH (R80 to R97, R128 to R143, R173, R207, R215, R604), one per command. -/
namespace Sys2Proof.Machine
open Dev

/-- TASK_DISPATCH: TSK delivers the most urgent ready task to a qualifying free context and the engine clears the context and loads its arguments (R215). -/
def execTaskDispatch (s : State) : Out :=
  fire s (fun d => d.inUnit 22 (fun d => d.dispatch))

/-- PREEMPT_SWITCH: At the first bundle boundary after hand-over the engine parks the running class-2 or 3 task and starts the pre-empting task (R86). -/
def execPreemptSwitch (k : EngIx) (latency : Nat) (s : State) : Out :=
  fire s (fun d => d.inChip (fun d => d.preemptSwitch k latency))

/-- PSTEP_LOAD_DONE: A queued pair-buffer load completes and releases stalled GATHERs (R129). -/
def execPstepLoadDone (k : EngIx) (c : CtxIx) (s : State) : Out :=
  fire s (fun d => d.inChip (fun d => d.pstepLoadDone k c))

/-- HALL_INPUT_PASS: Every 4 cycles the engine's hall input passes its oldest HSEND to the hall (R136). -/
def execHallInputPass (k : EngIx) (s : State) : Out :=
  fire s (fun d => d.inChip (fun d => d.hallPass k))

/-- STREAM_ENTRY_DONE: A stream entry completes with every granule visible, setting MEMERR on error responses (R80). -/
def execStreamEntryDone (k : EngIx) (c : CtxIx) (s : State) : Out :=
  fire s (fun d => d.inChip (fun d => d.streamEntryDone k c))

/-- TDONE_COMMIT: Once the drains end the task commits its staged hall partials, reports its flags and signals TSK (R143). -/
def execTdoneCommit (k : EngIx) (c : CtxIx) (s : State) : Out :=
  fire s (fun d => d.inChip (fun d => d.tdoneCommit k c))

/-- CYCLE_LIMIT: A task whose cycle count passes its limit takes fault 0x05 (R90). -/
def execCycleLimit (k : EngIx) (c : CtxIx) (stalls : Nat) (s : State) : Out :=
  fire s (fun d => d.inChip (fun d => d.cycleLimit k c stalls))

/-- ICACHE_PARITY: A cache line with bad parity is invalidated and fetched again with event 50 (R83). -/
def execIcacheParity (k : EngIx) (line : Nat) (s : State) : Out :=
  fire s (fun d => d.inChip (fun d => d.parityFetch k line))

/-- ENG_ENABLE: ENG_CTRL.ENABLE takes a READY engine to ACTIVE (R95). -/
def execEngEnable (m : Master) (k : EngIx) (v : Word) (s : State) : Out :=
  fire s (fun d => d.regCmd m (Adr.ENG_CTRL k) (some v))

/-- ENG_HALT: ENG_CTRL.HALT requests a stop of issue at the next bundle boundary (R97). -/
def execEngHalt (m : Master) (k : EngIx) (v : Word) (s : State) : Out :=
  fire s (fun d => d.regCmd m (Adr.ENG_CTRL k) (some v))

/-- ENGINE_HALTED: After any running REP the engine stops issuing and enters HALTED (R97). -/
def execEngineHalted (k : EngIx) (s : State) : Out :=
  fire s (fun d => d.inChip (fun d => d.engineHalted k))

/-- ENG_RESUME: ENG_CTRL.RESUME takes a HALTED engine to ACTIVE (R95). -/
def execEngResume (m : Master) (k : EngIx) (v : Word) (s : State) : Out :=
  fire s (fun d => d.regCmd m (Adr.ENG_CTRL k) (some v))

/-- ENG_ICINV: ENG_CTRL.ICINV invalidates the whole instruction cache (R82). -/
def execEngIcinv (m : Master) (k : EngIx) (v : Word) (s : State) : Out :=
  fire s (fun d => d.regCmd m (Adr.ENG_CTRL k) (some v))

/-- SELFTEST_END: An engine's room and register-file self-test ends and the engine enters READY or FAILED (R95). -/
def execSelftestEnd (k : EngIx) (pass : Bool) (fails : BitVec 16) (rows : List Nat) (s : State) : Out :=
  fire s (fun d => d.inChip (fun d => d.selftestEnd k pass fails.toNat rows))

/-- ENG_INJECT: A write to ENG_INJECT arms bad parity on the next write to a named register file or cache fill (R604). -/
def execEngInject (m : Master) (k : EngIx) (v : Word) (s : State) : Out :=
  fire s (fun d => d.regCmd m (Adr.ENG_INJECT k) (some v))

/-- ENG_DBG_DATA_ACCESS: An access to ENG_DBG_DATA reads or writes the selected architectural word while the engine is HALTED (R97). -/
def execEngDbgDataAccess (m : Master) (k : EngIx) (v : Option Word) (s : State) : Out :=
  fire s (fun d => d.regCmd m (Adr.ENG_DBG_DATA k) v)

/-- HALL_BLOCK_COMPLETE: When every slot has committed SENDERS tasks the hall narrows the block into reduction staging and signals TSK (R173). -/
def execHallBlockComplete (s : State) : Out :=
  fire s (fun d => d.inUnit 26 (fun d => d.hallComplete))

/-- OCH_RAISE_LATE_JOB: OCH_RAISE WHAT 0 counts a late level job and raises event 243 (R207). -/
def execOchRaiseLateJob (m : Master) (slot : Fin 16) (s : State) : Out :=
  fire s (fun d => d.regCmd m Adr.OCH_RAISE (some (BitVec.ofNat 32 (slot.val + 0))))

/-- OCH_RAISE_LATE_SWITCH: OCH_RAISE WHAT 1 counts a late switch and raises event 243 (R207). -/
def execOchRaiseLateSwitch (m : Master) (slot : Fin 16) (s : State) : Out :=
  fire s (fun d => d.regCmd m Adr.OCH_RAISE (some (BitVec.ofNat 32 (slot.val + 16))))

/-- OCH_RAISE_FIR_SAT: OCH_RAISE WHAT 2 counts FIR saturation and raises event 244 (R207). -/
def execOchRaiseFirSat (m : Master) (slot : Fin 16) (s : State) : Out :=
  fire s (fun d => d.regCmd m Adr.OCH_RAISE (some (BitVec.ofNat 32 (slot.val + 32))))

/-- OCH_RAISE_BIQUAD_SAT: OCH_RAISE WHAT 3 counts biquad saturation and raises event 244 (R207). -/
def execOchRaiseBiquadSat (m : Master) (slot : Fin 16) (s : State) : Out :=
  fire s (fun d => d.regCmd m Adr.OCH_RAISE (some (BitVec.ofNat 32 (slot.val + 48))))

/-- OCH_RAISE_LIMIT: OCH_RAISE WHAT 4 counts a limiting period (R207). -/
def execOchRaiseLimit (m : Master) (slot : Fin 16) (s : State) : Out :=
  fire s (fun d => d.regCmd m Adr.OCH_RAISE (some (BitVec.ofNat 32 (slot.val + 64))))

end Sys2Proof.Machine
end

