-- ==== Sys2Proof/Machine/ExecEthernet.lean ====
section
/-! DEFINITION. Sys2Proof/Machine/ExecEthernet.lean: the meanings of the Ethernet ports (R311 to R349, R363), one per command. -/
namespace Sys2Proof.Machine
open Dev

/-- PORT_START: PORT_EN written 1 checks the port's setup and starts it or sets CFG_BAD (R312). -/
def execPortStart (m : Master) (p : PortIx) (v : Word) (s : State) : Out :=
  fire s (fun d => d.regCmd m (Adr.MAC_CTRL p) (some v))

/-- PORT_STOP: PORT_EN written 0 stops the port after the frames on the wire (R313). -/
def execPortStop (m : Master) (p : PortIx) (v : Word) (s : State) : Out :=
  fire s (fun d => d.regCmd m (Adr.MAC_CTRL p) (some v))

/-- PORT_STOPPED: When the frames on the wire end RUNNING clears and waiting frames complete LINK_DOWN (R313). -/
def execPortStopped (p : PortIx) (s : State) : Out :=
  fire s (fun d => d.inChip (fun d => d.portStopped p))

/-- CNT_CLR: MAC_CTRL.CNT_CLR clears every counter of the port (R349). -/
def execCntClr (m : Master) (p : PortIx) (v : Word) (s : State) : Out :=
  fire s (fun d => d.regCmd m (Adr.MAC_CTRL p) (some v))

/-- LINK_UP: The port's link comes up (R311). -/
def execLinkUp (p : PortIx) (s : State) : Out :=
  fire s (fun d => d.inChip (fun d => d.linkRises p))

/-- LINK_DOWN: The port's link goes down and queued frames complete LINK_DOWN (R334). -/
def execLinkDown (p : PortIx) (hiBer : Bool) (s : State) : Out :=
  fire s (fun d => d.inChip (fun d => d.linkDown p hiBer))

/-- AN_COMPLETE: Clause 37 negotiation completes and resolves pause directions (R314). -/
def execAnComplete (p : PortIx) (fd : Bool) (sym : Bool) (asm : Bool) (rf : Fin 4) (s : State) : Out :=
  fire s (fun d => d.inChip (fun d => d.anComplete p fd sym asm rf))

/-- MAC_FRAME_RECEIVE: A received frame is checked, then consumed as MAC control or filtered to queues (R320). -/
def execMacFrameReceive (p : PortIx) (l : List Byte) (symbol : Option Nat) (align : Option Nat) (corr : Nat) (uncorr : Nat) (s : State) : Out :=
  fire s (fun d => d.frameReceive p l symbol align corr uncorr)

/-- PAUSE_EXPIRY: A received pause's quanta run out and the held queues are released (R338). -/
def execPauseExpiry (p : PortIx) (cls : Option (Fin 8)) (s : State) : Out :=
  fire s (fun d => d.inChip (fun d => d.pauseExpiry p cls))

/-- XOFF_REFRESH: While occupancy stays at or above LOW XOFF is repeated every 32,768 quanta (R336). -/
def execXoffRefresh (p : PortIx) (s : State) : Out :=
  fire s (fun d => d.inChip (fun d => d.xoffRefresh p))

/-- FILTER_VALID_SET: Setting a filter entry's VALID checks it and refuses it with MAC_FLT_VERR on failure (R326). -/
def execFilterValidSet (m : Master) (p : PortIx) (n : Fin 128) (v : Word) (s : State) : Out :=
  fire s (fun d => d.regCmd m (Adr.MAC_FLT_ACTION p n) (some v))

/-- TX_FRAME_START: The MAC starts the next eligible frame by priority, respecting the guard band (R333). -/
def execTxFrameStart (p : PortIx) (s : State) : Out :=
  fire s (fun d => d.inChip (fun d => d.txStart p))

/-- TX_FRAME_DONE: A transmitted frame's write-back is written with its status (R296). -/
def execTxFrameDone (p : PortIx) (s : State) : Out :=
  fire s (fun d => d.inChip (fun d => d.txFrameDone p))

/-- LAUNCH_TIME_REACHED: The time base reaches a held frame's launch time, or the late window ends and the frame is dropped or sent late (R363). -/
def execLaunchTimeReached (p : PortIx) (q : Fin 33) (s : State) : Out :=
  fire s (fun d => d.inChip (fun d => d.launchReached p q))

end Sys2Proof.Machine
end

