-- ==== Sys2Proof/Machine/ExecEvents.lean ====
section
/-! DEFINITION. Sys2Proof/Machine/ExecEvents.lean: the meanings of events and counters (R565 to R571), one per command. -/
namespace Sys2Proof.Machine
open Dev

/-- EVENT_RING_FLUSH: When ring 20 can take records again EVC writes an OVERFLOW record and then the waiting records (R565). -/
def execEventRingFlush (u : HostUpd) (s : State) : Out :=
  fire s (fun d => d.withHost u (fun d => d.evFlush))

/-- SWTRIG: A write to EVC_SWTRIG pulses software sources 252–255 with DETAIL (R566). -/
def execSwtrig (m : Master) (v : Word) (s : State) : Out :=
  fire s (fun d => d.regCmd m (Adr.EVC_SWTRIG) (some v))

/-- COUNTER_WRAP: A PMC counter passes 2^48 − 1 to 0, setting its WRAP bit and raising source 251 (R570). -/
def execCounterWrap (n : PmcIx) (weight : Nat) (s : State) : Out :=
  fire s (fun d => d.inChip (fun d => d.counterWrap n weight))

/-- PMC_CNT_CLEAR: A write to PMC_CNTn_LO clears counter n (R571). -/
def execPmcCntClear (m : Master) (n : PmcIx) (v : Word) (s : State) : Out :=
  fire s (fun d => d.regCmd m (Adr.PMC_CNT_LO n) (some v))

/-- PMC_CLR_GRP: A write to PMC_CLR_GRP clears the 16 counters of a group at one instant (R571). -/
def execPmcClrGrp (m : Master) (v : Word) (s : State) : Out :=
  fire s (fun d => d.regCmd m (Adr.PMC_CLR_GRP) (some v))

end Sys2Proof.Machine
end

