-- ==== Sys2Proof/Machine/ExecFabric.lean ====
section
/-! DEFINITION. Sys2Proof/Machine/ExecFabric.lean: the meanings of the fabric (R491 to R502), one per command. -/
namespace Sys2Proof.Machine
open Dev

/-- FABRIC_REQUEST: A master's request is decoded, arbitrated and served by its target or completed with DECODE or ERROR (R491). -/
def execFabricRequest (m : Master) (id : Fin 64) (a : Nat) (write : Bool) (n : Nat) (cells : List (Nat × Byte)) (flags : List Nat) (cls : Fin 4) (close : Bool) (s : State) : Out :=
  fire s (fun d => d.fabricRequest ⟨m.num, id, a, write, n, cells, flags, cls, m.priv, close, .outside⟩)

/-- FABRIC_RESPONSE: A target's response returns to its master, completing a far load or store (R494). -/
def execFabricResponse (m : Fin 28) (id : Fin 64) (t : Fin 64) (s : State) : Out :=
  fire s (fun d => if d.inFabric m then d.fabricResponse m id t else d)

/-- TARGET_TIMEOUT: A transaction waiting past its limit completes with TIMEOUT and isolates the target (R500). -/
def execTargetTimeout (t : Fin 37) (s : State) : Out :=
  fire s (fun d => d.inChip (fun d => d.targetTimeout t))

/-- FAB_REJOIN: A write to FAB_REJOIN ends a target's isolation (R501). -/
def execFabRejoin (m : Master) (v : Word) (s : State) : Out :=
  fire s (fun d => d.regCmd m (Adr.FAB_REJOIN_LO) (some v))

/-- STALE_RESPONSE_ABSORB: A response for a discard-pending ID is absorbed and frees the ID (R502). -/
def execStaleResponseAbsorb (m : Fin 28) (id : Fin 64) (t : Fin 64) (s : State) : Out :=
  fire s (fun d => if d.inFabric m then d.staleAbsorb m id t else d)

end Sys2Proof.Machine
end

