-- ==== Sys2Proof/Machine/ExecHost.lean ====
section
/-! DEFINITION. Sys2Proof/Machine/ExecHost.lean: the meanings of the host rings, the translations and PCIe (R261 to R310, R593), one per command. -/
namespace Sys2Proof.Machine
open Dev

/-- DOORBELL_WRITE: A write of the host index to a doorbell page records it and fetches, consumes or enters ERROR on an INDEX error (R268). -/
def execDoorbellWrite (u : HostUpd) (r : RingIx) (h : Word) (s : State) : Out :=
  fire s (fun d => d.withHost u (fun d => d.doorbellWrite r h))

/-- DESCRIPTOR_FETCH: HIF fetches descriptors of a host-produced ring from the device index up to the host index (R268). -/
def execDescriptorFetch (u : HostUpd) (r : RingIx) (s : State) : Out :=
  fire s (fun d => d.withHost u (fun d => d.descriptorFetch r))

/-- COMMAND_ACCEPT: A fetched descriptor held in both journal copies with a reserved completion slot is accepted with the next ASN (R284). -/
def execCommandAccept (r : RingIx) (s : State) : Out :=
  fire s (fun d => d.inChip (fun d => d.commandAccept r))

/-- HIF_NOP: Command 0x000 completes with no effect (R278). -/
def execHifNop (r : RingIx) (s : State) : Out :=
  fire s (fun d => d.inChip (fun d => d.hifNop r))

/-- SHADOW_WRITE: Command 0x001 applies register writes in order and, with ARM, arms banks through LND's private port (R279). -/
def execShadowWrite (r : RingIx) (s : State) : Out :=
  fire s (fun d => d.inChip (fun d => d.shadowWrite r))

/-- DISARM: Command 0x003 disarms a bank mask as LND_DISARM does (R278). -/
def execDisarm (r : RingIx) (s : State) : Out :=
  fire s (fun d => d.inChip (fun d => d.hifDisarm r))

/-- COPY_IN: Command 0x010 copies host memory into the device (R278). -/
def execCopyIn (u : HostUpd) (r : RingIx) (granules : Nat) (s : State) : Out :=
  fire s (fun d => d.withHost u (fun d => d.hifCopy r granules false))

/-- COPY_OUT: Command 0x011 copies device memory to the host (R278). -/
def execCopyOut (u : HostUpd) (r : RingIx) (granules : Nat) (s : State) : Out :=
  fire s (fun d => d.withHost u (fun d => d.hifCopy r granules true))

/-- FENCE: Command 0x020 completes when another ring's LAST_COMPLETED reaches an ASN (R278). -/
def execFence (r : RingIx) (s : State) : Out :=
  fire s (fun d => d.inChip (fun d => d.hifFence r))

/-- HIF_BARRIER: Command 0x021 completes when every ring has completed what it accepted before it (R278). -/
def execHifBarrier (r : RingIx) (s : State) : Out :=
  fire s (fun d => d.inChip (fun d => d.hifBarrier r))

/-- XLT_INVAL: Command 0x030 invalidates translation entries as XLT_INV does (R278). -/
def execXltInval (r : RingIx) (s : State) : Out :=
  fire s (fun d => d.inChip (fun d => d.hifXltInval r))

/-- WAIT_PERIOD: Command 0x040 waits for the landing that begins a period (R278). -/
def execWaitPeriod (r : RingIx) (s : State) : Out :=
  fire s (fun d => d.inChip (fun d => d.hifWait r))

/-- FW_COMMAND_PRESENT: HIF presents a firmware command to the owning supervisor core with HIF_FW_PEND and event 69 (R290). -/
def execFwCommandPresent (r : RingIx) (s : State) : Out :=
  fire s (fun d => d.inChip (fun d => d.fwPresent r))

/-- FW_DONE: A write of HIF_FW_DONE by the owner completes the firmware command, or is counted as stray (R290). -/
def execFwDone (m : Master) (v : Word) (s : State) : Out :=
  fire s (fun d => d.regCmd m (Adr.HIF_FW_DONE) (some v))

/-- COMPLETION_POST: HIF writes a completion record into the completion ring when a slot is free (R282). -/
def execCompletionPost (u : HostUpd) (r : RingIx) (s : State) : Out :=
  fire s (fun d => d.withHost u (fun d => d.completionPost r))

/-- READ_HOST: A bulk descriptor moves host memory into the device in 64 B granules (R293). -/
def execReadHost (u : HostUpd) (r : RingIx) (granules : Nat) (s : State) : Out :=
  fire s (fun d => d.withHost u (fun d => d.bulk r granules 1))

/-- WRITE_HOST: A bulk descriptor moves device memory to the host in 64 B granules (R293). -/
def execWriteHost (u : HostUpd) (r : RingIx) (granules : Nat) (s : State) : Out :=
  fire s (fun d => d.withHost u (fun d => d.bulk r granules 2))

/-- BULK_ABORT: HIF_RINGr_CTRL.ABORT completes the transfer in progress as ABORTED (R293). -/
def execBulkAbort (m : Master) (r : RingIx) (v : Word) (s : State) : Out :=
  fire s (fun d => d.regCmd m (Adr.HIF_RING_CTRL r) (some v))

/-- RING_ENABLE: EN written 1 with RESUME 0 starts a ring, draining accepted commands first when needed (R275). -/
def execRingEnable (m : Master) (r : RingIx) (v : Word) (s : State) : Out :=
  fire s (fun d => d.regCmd m (Adr.HIF_RING_CTRL r) (some v))

/-- RING_RESUME: EN written 1 with RESUME 1 restarts a stopped ring from a new base and reposts unconsumed records (R274). -/
def execRingResume (m : Master) (r : RingIx) (v : Word) (s : State) : Out :=
  fire s (fun d => d.regCmd m (Adr.HIF_RING_CTRL r) (some v))

/-- RING_STOP: EN written 0 stops a ring in place (R272). -/
def execRingStop (m : Master) (r : RingIx) (v : Word) (s : State) : Out :=
  fire s (fun d => d.regCmd m (Adr.HIF_RING_CTRL r) (some v))

/-- RING_DRAIN_END: When draining commands complete HIF discards their records, resets the ASN and starts the ring (R275). -/
def execRingDrainEnd (r : RingIx) (s : State) : Out :=
  fire s (fun d => d.inChip (fun d => d.drainEnd r))

/-- XLT_RESUME: A doorbell write at offset 0x8 with matching FSEQ retranslates the faulting granule (R303). -/
def execXltResume (u : HostUpd) (r : RingIx) (fseq : BitVec 16) (s : State) : Out :=
  fire s (fun d => d.withHost u (fun d => d.resumeWrite r fseq.toNat false))

/-- XLT_RESUME_ABORT: A resume write with ABORT set ends the faulting access as ABORTED or ERROR (R303). -/
def execXltResumeAbort (u : HostUpd) (r : RingIx) (fseq : BitVec 16) (s : State) : Out :=
  fire s (fun d => d.withHost u (fun d => d.resumeWrite r fseq.toNat true))

/-- XLT_INV: XLT_INV.GO starts an invalidation of a range or context (R300). -/
def execXltInv (m : Master) (v : Word) (s : State) : Out :=
  fire s (fun d => d.regCmd m (Adr.XLT_INV) (some v))

/-- XLT_INV_ALL: XLT_INV.GO with ALL invalidates every context (R300). -/
def execXltInvAll (m : Master) (v : Word) (s : State) : Out :=
  fire s (fun d => d.regCmd m (Adr.XLT_INV) (some v))

/-- XLT_INV_DONE: An invalidation completes once no cached copy remains and INV_BUSY clears (R300). -/
def execXltInvDone (s : State) : Out :=
  fire s (fun d => d.inChip (fun d => d.xltInvDone))

/-- XLT_CTX_VALID: Setting a context's VALID checks it and refuses it with XLT_VERR on failure (R310). -/
def execXltCtxValid (m : Master) (c : Fin 16) (v : Word) (s : State) : Out :=
  fire s (fun d => d.regCmd m (Adr.XLT_CTX_CFG c) (some v))

/-- BAR0_ACCESS: A host access to BAR0 reaches the register space or completes with an abort or UR (R263). -/
def execBar0Access (o : Nat) (l : Option (List Byte)) (n : Nat) (s : State) : Out :=
  fire s (fun d => d.inChip (fun d => d.bar0Access o l n))

/-- BAR4_ACCESS: A host access to BAR4 reads or writes the pantry, subject to enables and journal protection (R264). -/
def execBar4Access (o : Nat) (l : Option (List Byte)) (n : Nat) (s : State) : Out :=
  fire s (fun d => d.inChip (fun d => d.bar4Access o l n))

/-- PCIE_LINK_UP: The PCIe link trains and LINK_UP becomes 1 (R261). -/
def execPcieLinkUp (width : Nat) (speed : Nat) (s : State) : Out :=
  fire s (fun d => d.inChip (fun d => d.pcieUp width speed))

/-- PCIE_LINK_DOWN: The PCIe link drops and every ring stops in place (R272). -/
def execPcieLinkDown (s : State) : Out :=
  fire s (fun d => d.inChip (fun d => d.pcieDown))

/-- PCIE_FLR: A function-level reset stops every ring in place (R272). -/
def execPcieFlr (s : State) : Out :=
  fire s (fun d => d.inChip (fun d => d.stopRings))

/-- PCIE_HOT_RESET: A hot reset stops every ring in place (R272). -/
def execPcieHotReset (s : State) : Out :=
  fire s (fun d => d.inChip (fun d => d.stopRings))

/-- PCIE_PERST: PCIE_PERST_N low holds HIF in block reset (R593). -/
def execPciePerst (s : State) : Out :=
  fire s (fun d => d.perst)

/-- CAPTURE_BLOCK_WRITE: HIF writes a MIX capture block into the next capture descriptor or drops it (R295). -/
def execCaptureBlockWrite (u : HostUpd) (c : Fin 4) (s : State) : Out :=
  fire s (fun d => d.withHost u (fun d => d.captureWrite c))

/-- FRAME_TX_DESCRIPTOR: HIF hands a host frame to its port's transmit queue (R296). -/
def execFrameTxDescriptor (u : HostUpd) (r : RingIx) (s : State) : Out :=
  fire s (fun d => d.withHost u (fun d => d.frameTx r))

/-- FRAME_RX_DELIVER: A frame waiting in a host queue is written into a free receive descriptor (R297). -/
def execFrameRxDeliver (u : HostUpd) (r : RingIx) (s : State) : Out :=
  fire s (fun d => d.withHost u (fun d => d.frameRx r))

/-- MSIX_MOD_EXPIRY: When a ring's MOD interval ends with a record or write-back still awaiting its interrupt, HIF sends the ring's MSI-X vector (R271). -/
def execMsixModExpiry (r : RingIx) (s : State) : Out :=
  fire s (fun d => d.inChip (fun d => d.modExpiry r))

end Sys2Proof.Machine
end

