-- ==== Sys2Proof/Machine/ExecLanding.lean ====
section
/-! DEFINITION. Sys2Proof/Machine/ExecLanding.lean: the meanings of LND and the media PLL (R28 to R42, R603), one per command. -/
namespace Sys2Proof.Machine
open Dev

/-- LND_RUN: Setting LND_CTRL.RUN makes LND wait for media PLL lock with WAIT_LOCK set (R29). -/
def execLndRun (m : Master) (v : Word) (s : State) : Out :=
  fire s (fun d => d.regCmd m (Adr.LND_CTRL) (some v))

/-- LND_COUNTER_LOAD: Once the media PLL is locked LND loads its render sample counter from the time base and schedules the first landing at the next multiple of P (R29). -/
def execLndCounterLoad (s : State) : Out :=
  fire s (fun d => d.inChip (fun d => d.lndLoad))

/-- FREEZE_POINT: 512 FABRIC cycles before a landing LND fixes the due banks and owners check their shadows (R38). -/
def execFreezePoint (ticks : Nat) (s : State) : Out :=
  fire s (fun d => d.inChip (fun d => d.freezePoint ticks))

/-- LANDING: At the period boundary LND copies the shadow to the active copy of every due bank, clears their arms, records the landing and raises event 0 (R40). -/
def execLanding (ticks : Nat) (s : State) : Out :=
  fire s (fun d => d.inChip (fun d => d.landing ticks))

/-- MPLL_LOCK: The media PLL reaches lock on the selected time base and LOCK becomes 1 (R603). -/
def execMpllLock (s : State) : Out :=
  fire s (fun d => d.inChip (fun d => d.mpllLock))

/-- MPLL_UNLOCK: The media PLL loses lock, holds its last control word and raises event 6 (R31). -/
def execMpllUnlock (s : State) : Out :=
  fire s (fun d => d.inChip (fun d => d.mpllUnlock))

/-- LND_ARM: A write to LND_ARM_LO arms the banks in the mask with the current target (R37). -/
def execLndArm (m : Master) (v : Word) (s : State) : Out :=
  fire s (fun d => d.regCmd m (Adr.LND_ARM_LO) (some v))

/-- LND_DISARM: A write to LND_DISARM_LO disarms the banks in the mask, or sets DISARM_LATE for banks already due (R42). -/
def execLndDisarm (m : Master) (v : Word) (s : State) : Out :=
  fire s (fun d => d.regCmd m (Adr.LND_DISARM_LO) (some v))

end Sys2Proof.Machine
end

