-- ==== Sys2Proof/Machine/ExecMedia.lean ====
section
/-! DEFINITION. Sys2Proof/Machine/ExecMedia.lean: the meanings of the media flows and concealment (R371 to R384), one per command. -/
namespace Sys2Proof.Machine
open Dev

/-- MEDIA_PACKET_RECEIVE: FE matches a media packet to a flow, checks it and places its samples in the jitter buffer (R371). -/
def execMediaPacketReceive (s : State) : Out :=
  fire s (fun d => d.inChip (fun d => d.mediaReceive))

/-- LEG_TIMEOUT: A leg with no packet for LEG_TIMEOUT ms goes down (R378). -/
def execLegTimeout (f : FlowIx) (g : Fin 2) (s : State) : Out :=
  fire s (fun d => d.inChip (fun d => d.legTimeout f g))

/-- MEDIA_PACKET_SEND: FE builds a transmit packet from the output staging and its template and hands it to the MAC with a launch time (R382). -/
def execMediaPacketSend (f : FlowIx) (s : State) : Out :=
  fire s (fun d => d.inChip (fun d => d.mediaSend f))

/-- CONCEAL_HOLD_END: A channel in HOLD for H × P samples enters RAMP (R384). -/
def execConcealHoldEnd (x : Fin 1312) (s : State) : Out :=
  fire s (fun d => d.inChip (fun d => d.concHoldEnd x))

/-- CONCEAL_RAMP_END: A channel in RAMP for P samples enters MUTE (R384). -/
def execConcealRampEnd (x : Fin 1312) (s : State) : Out :=
  fire s (fun d => d.inChip (fun d => d.concRampEnd x))

/-- CONCEAL_RESUME_END: A channel in RESUME for 16 samples enters PLAY (R384). -/
def execConcealResumeEnd (x : Fin 1312) (s : State) : Out :=
  fire s (fun d => d.inChip (fun d => d.concResumeEnd x))

end Sys2Proof.Machine
end

