-- ==== Sys2Proof/Machine/ExecPorch.lean ====
section
/-! DEFINITION. Sys2Proof/Machine/ExecPorch.lean: the meanings of the porch (R450, R523 to R557), one per command. -/
namespace Sys2Proof.Machine
open Dev

/-- PORCH_RESET_EXIT: After PORCH_PG rises the porch leaves reset and the loader tests porch SRAM, loads the flash image and starts SAP0, SAP1 and PE (R523). -/
def execPorchResetExit (straps : Fin 4) (flash : List (Nat × Byte)) (otp : List (Nat × Word)) (bist : Bool) (s : State) : Out :=
  fire s (fun d => d.porchExit straps flash otp bist)

/-- CHIP_PG_RISE: CHIP_PG rising lets the chip domain leave reset once the porch and root PLL allow (R526). -/
def execChipPgRise (s : State) : Out :=
  fire s (fun d => d.chipPgRise)

/-- HBOOT_GO: PCH_HBOOT_CTRL.GO checks and starts a host-loaded firmware image (R540). -/
def execHbootGo (m : Master) (v : Word) (s : State) : Out :=
  fire s (fun d => d.regCmd m (Adr.PCH_HBOOT_CTRL) (some v))

/-- SAFE_FRAME: PE computes the safe mix for one frame of the safe clock, repeating the last words on overrun (R529). -/
def execSafeFrame (cycles : Nat) (s : State) : Out :=
  fire s (fun d => d.inPorch (fun d => d.safeFrame cycles))

/-- PE_FAULT: A PE fault silences PE-owned slots and starts a reload, or leaves PE stopped after the third fault (R532). -/
def execPeFault (code : BitVec 8) (pc : BitVec 23) (s : State) : Out :=
  fire s (fun d => d.inPorch (fun d => d.peFault code.toNat pc.toNat))

/-- PE_RESTART: After reloading the safe-mix block and kernel PE restarts (R532). -/
def execPeRestart (s : State) : Out :=
  fire s (fun d => d.inPorch (fun d => d.peRestart))

/-- PCH_FORCE_SAFE: PCH_CTRL.FORCE_SAFE returns MIX-owned safe ports to PE over 48 frames (R543). -/
def execPchForceSafe (m : Master) (v : Word) (s : State) : Out :=
  fire s (fun d => d.regCmd m (Adr.PCH_CTRL) (some v))

/-- SAFE_RELOAD: PCH_CTRL.SAFE_RELOAD re-reads and checks the safe-mix block and restarts PE with it (R537). -/
def execSafeReload (m : Master) (v : Word) (s : State) : Out :=
  fire s (fun d => d.regCmd m (Adr.PCH_CTRL) (some v))

/-- STBY_ENTER: PCH_CTRL.STBY_ENTER forces or stops the safe ports, holds the chip in reset and drops WAKE_OUT (R549). -/
def execStbyEnter (m : Master) (v : Word) (s : State) : Out :=
  fire s (fun d => d.regCmd m (Adr.PCH_CTRL) (some v))

/-- STANDBY_WAKE: A wake match or SMBus WAKE ends standby, raising WAKE_OUT and starting stage 1 (R551). -/
def execStandbyWake (s : State) : Out :=
  fire s (fun d => d.inPorch (fun d => d.standbyWake))

/-- PCH_THERM_CLEAR: PCH_CTRL.THERM_CLEAR releases a thermal trip when every sensor reads below CLEAR_BELOW (R548). -/
def execPchThermClear (m : Master) (v : Word) (s : State) : Out :=
  fire s (fun d => d.regCmd m (Adr.PCH_CTRL) (some v))

/-- WATCHDOG_KICK: A core's write to its KICK register restarts its count or expires it on a wrong key (R545). -/
def execWatchdogKick (m : Master) (c : CoreIx) (v : Word) (s : State) : Out :=
  fire s (fun d => d.regCmd m (Adr.PCH_WD_KICK c) (some v))

/-- WATCHDOG_EXPIRY: A watchdog channel expires and the porch moves command ownership, resets the core or forces and warm-resets (R546). -/
def execWatchdogExpiry (chans : BitVec 2) (s : State) : Out :=
  fire s (fun d => d.inPorch (fun d => d.wdExpiry chans.toNat))

/-- THERMAL_SAMPLE: Every 250 µs each sensor is sampled and warnings are updated (R547). -/
def execThermalSample (t : List (BitVec 16)) (s : State) : Out :=
  fire s (fun d => d.inPorch (fun d => d.thermalSample t))

/-- OTP_PROGRAM: A privileged write of PCH_OTP_DATA programs the 1 bits of an OTP word (R539). -/
def execOtpProgram (m : Master) (v : Word) (s : State) : Out :=
  fire s (fun d => d.regCmd m (Adr.PCH_OTP_DATA) (some v))

/-- FLASH_READ: PCH_FL_CMD OP 0 with GO reads flash into the pantry (R557). -/
def execFlashRead (m : Master) (v : Word) (s : State) : Out :=
  fire s (fun d => d.regCmd m (Adr.PCH_FL_CMD) (some v))

/-- FLASH_PROGRAM: PCH_FL_CMD OP 1 with GO programs a flash page (R557). -/
def execFlashProgram (m : Master) (v : Word) (s : State) : Out :=
  fire s (fun d => d.regCmd m (Adr.PCH_FL_CMD) (some v))

/-- FLASH_ERASE_4K: PCH_FL_CMD OP 2 with GO erases 4 KiB of flash (R557). -/
def execFlashErase4k (m : Master) (v : Word) (s : State) : Out :=
  fire s (fun d => d.regCmd m (Adr.PCH_FL_CMD) (some v))

/-- FLASH_ERASE_64K: PCH_FL_CMD OP 3 with GO erases 64 KiB of flash (R557). -/
def execFlashErase64k (m : Master) (v : Word) (s : State) : Out :=
  fire s (fun d => d.regCmd m (Adr.PCH_FL_CMD) (some v))

/-- FLASH_OP_DONE: A flash operation ends, setting DONE or ERR (R557). -/
def execFlashOpDone (bad : Bool) (s : State) : Out :=
  fire s (fun d => d.inPorch (fun d => d.flashDone bad))

/-- WD_CORE_RESET_RELEASE: 1 ms after a watchdog expiry with WD_CORE_RESET = 1, the porch releases the supervisor core from its block reset and the core restarts at its boot ROM (R546). -/
def execWdCoreResetRelease (c : CoreIx) (s : State) : Out :=
  fire s (fun d => d.inPorch (fun d => d.wdRelease c))

/-- PORCH_SCRUB_LINE: The porch's own scrubber reads its next porch SRAM line on its fixed 30 s pass, writes back CEs and poisons UEs in its own log and counters (R450). -/
def execPorchScrubLine (l : List (Nat × Nat)) (s : State) : Out :=
  fire s (fun d => d.inPorch (fun d => d.porchScrub l))

end Sys2Proof.Machine
end

