-- ==== Sys2Proof/Machine/ExecReset.lean ====
section
/-! DEFINITION. Sys2Proof/Machine/ExecReset.lean: the meanings of clocks and resets (R502 to R514, R593), one per command. -/
namespace Sys2Proof.Machine
open Dev

/-- RESET_BUSY_CLEAR: A resetting master's port converter finishes its drain and clears the busy bit (R502). -/
def execResetBusyClear (m : Fin 28) (s : State) : Out :=
  fire s (fun d => d.inChip (fun d => d.busyClear m))

/-- XTAL_FAIL: A failed crystal moves AON to the backup oscillator and the root PLL loses lock (R508). -/
def execXtalFail (s : State) : Out :=
  fire s (fun d => d.xtalFail)

/-- ROOT_PLL_LOCK: The root PLL locks and CORE, FABRIC, DMC and PERIPH run again (R507). -/
def execRootPllLock (s : State) : Out :=
  fire s (fun d => d.rootLock)

/-- XTAL_RETRY: CLK_CTRL.XTAL_RETRY returns AON to the crystal with one relock (R508). -/
def execXtalRetry (m : Master) (v : Word) (s : State) : Out :=
  fire s (fun d => d.regCmd m (Adr.CLK_CTRL) (some v))

/-- MEAS_GO: CLK_CTRL.MEAS_GO starts counting a domain's cycles over 1 ms of AON (R510). -/
def execMeasGo (m : Master) (v : Word) (s : State) : Out :=
  fire s (fun d => d.regCmd m (Adr.CLK_CTRL) (some v))

/-- MEAS_DONE: The measurement ends and writes CLK_MEAS_RESULT (R510). -/
def execMeasDone (khz : Nat) (s : State) : Out :=
  fire s (fun d => d.inChip (fun d => d.measDone khz))

/-- NET_PLL_UNLOCK: A port's SerDes PLL loses lock and its link goes down (R509). -/
def execNetPllUnlock (p : PortIx) (s : State) : Out :=
  fire s (fun d => d.netUnlock p)

/-- PCIE_PLL_UNLOCK: The PCIe PLL loses lock and the link goes down (R509). -/
def execPciePllUnlock (s : State) : Out :=
  fire s (fun d => d.pcieUnlock)

/-- COLD_RESET: PORCH_PG low or RESET_IN_N low resets the whole device including the porch (R511). -/
def execColdReset (pin : ColdPin) (s : State) : Out :=
  fire s (fun d => d.coldReset (coldCause pin))

/-- WARM_RESET: RST_CTRL.WARM, CHIP_PG low or porch fatal handling resets the chip domain and forces the safe path (R511). -/
def execWarmReset (why : WarmWhy) (s : State) : Out :=
  fire s (fun d => d.warmBy why)

/-- CHIP_RESET_EXIT: With the porch up, CHIP_PG high and the root PLL locked the chip domain leaves reset and SC0 starts the boot ROM (R512). -/
def execChipResetExit (s : State) : Out :=
  fire s (fun d => d.chipExit)

/-- ENG_BLOCK_RESET: An RST_ENG bit resets an engine to OFF, refused while the engine is mapped to a slot (R513). -/
def execEngBlockReset (m : Master) (v : Word) (s : State) : Out :=
  fire s (fun d => d.regCmd m (Adr.RST_ENG) (some v))

/-- SC_BLOCK_RESET: An RST_SC bit resets a supervisor core and moves firmware command ownership if it held it (R513). -/
def execScBlockReset (m : Master) (v : Word) (s : State) : Out :=
  fire s (fun d => d.regCmd m (Adr.RST_SC) (some v))

/-- MAC_BLOCK_RESET: An RST_MAC bit stops a port at once and clears its counters and filters (R513). -/
def execMacBlockReset (m : Master) (v : Word) (s : State) : Out :=
  fire s (fun d => d.regCmd m (Adr.RST_MAC) (some v))

/-- DMC_BLOCK_RESET: An RST_DMC bit takes a channel to OFF with its delays reset (R513). -/
def execDmcBlockReset (m : Master) (v : Word) (s : State) : Out :=
  fire s (fun d => d.regCmd m (Adr.RST_DMC) (some v))

/-- SAP_BLOCK_RESET: An RST_SAP bit stops a serial port at once, refused for a safe-path port (R513). -/
def execSapBlockReset (m : Master) (v : Word) (s : State) : Out :=
  fire s (fun d => d.regCmd m (Adr.RST_SAP) (some v))

/-- HIF_BLOCK_RESET: RST_MISC bit 0 stops every ring and keeps journals and ASNs (R513). -/
def execHifBlockReset (m : Master) (v : Word) (s : State) : Out :=
  fire s (fun d => d.regCmd m (Adr.RST_MISC) (some v))

/-- FE_BLOCK_RESET: RST_MISC bit 1 stops every flow and clears FE counters (R513). -/
def execFeBlockReset (m : Master) (v : Word) (s : State) : Out :=
  fire s (fun d => d.regCmd m (Adr.RST_MISC) (some v))

/-- MIX_BLOCK_RESET: RST_MISC bit 2 returns routes, gains and meters to reset values (R513). -/
def execMixBlockReset (m : Master) (v : Word) (s : State) : Out :=
  fire s (fun d => d.regCmd m (Adr.RST_MISC) (some v))

/-- BLOCK_RESET_RELEASE: A write of 0 to a reset bit releases the block once its busy bit has cleared (R514). -/
def execBlockResetRelease (m : Master) (b : RstIx) (v : Word) (s : State) : Out :=
  fire s (fun d => d.regCmd m (Adr.RST_ENG + 4 * b.val) (some v))

/-- XTAL_OK_RETURN: The crystal runs again within ±5 % of the backup oscillator and CLK_STATUS.XTAL_OK becomes 1, which XTAL_RETRY requires (R508). -/
def execXtalOkReturn (s : State) : Out :=
  fire s (fun d => d.xtalOk)

/-- NET_PLL_LOCK: A port's SerDes PLL regains lock, NET_LOCK sets and level event 213 deasserts (R509). -/
def execNetPllLock (p : PortIx) (s : State) : Out :=
  fire s (fun d => d.netLock p)

/-- PCIE_PLL_LOCK: The PCIe PLL regains lock, PCIE_LOCK sets and level event 214 deasserts (R509). -/
def execPciePllLock (s : State) : Out :=
  fire s (fun d => d.pcieLock)

/-- PCIE_PERST_N_RISE: PCIE_PERST_N rising releases HIF from the block reset that PERST held, after which the link trains and configuration is answered within 20 ms (R593). -/
def execPciePerstNRise (s : State) : Out :=
  fire s (fun d => d.perstRise)

end Sys2Proof.Machine
end

