-- ==== Sys2Proof/Machine/ExecScalar.lean ====
section
/-! DEFINITION. Sys2Proof/Machine/ExecScalar.lean: the meanings of the scalar instructions (R120), one per command. -/
namespace Sys2Proof.Machine
open Dev

/-- ADD: 64-bit scalar add (R120). -/
def execAdd (u : Core) (w : SlotWord) (s : State) : Out :=
  fireOn s u (fun k d => d.issueBReg k w planAdd) (fun d => d.peReg w planAdd)

/-- SUB: 64-bit scalar subtract (R120). -/
def execSub (u : Core) (w : SlotWord) (s : State) : Out :=
  fireOn s u (fun k d => d.issueBReg k w planSub) (fun d => d.peReg w planSub)

/-- AND: 64-bit scalar AND (R120). -/
def execAnd (u : Core) (w : SlotWord) (s : State) : Out :=
  fireOn s u (fun k d => d.issueBReg k w planAnd) (fun d => d.peReg w planAnd)

/-- OR: 64-bit scalar OR (R120). -/
def execOr (u : Core) (w : SlotWord) (s : State) : Out :=
  fireOn s u (fun k d => d.issueBReg k w planOr) (fun d => d.peReg w planOr)

/-- XOR: 64-bit scalar XOR (R120). -/
def execXor (u : Core) (w : SlotWord) (s : State) : Out :=
  fireOn s u (fun k d => d.issueBReg k w planXor) (fun d => d.peReg w planXor)

/-- SLL: Scalar logical left shift (R120). -/
def execSll (u : Core) (w : SlotWord) (s : State) : Out :=
  fireOn s u (fun k d => d.issueBReg k w planSll) (fun d => d.peReg w planSll)

/-- SRL: Scalar logical right shift (R120). -/
def execSrl (u : Core) (w : SlotWord) (s : State) : Out :=
  fireOn s u (fun k d => d.issueBReg k w planSrl) (fun d => d.peReg w planSrl)

/-- SRA: Scalar arithmetic right shift (R120). -/
def execSra (u : Core) (w : SlotWord) (s : State) : Out :=
  fireOn s u (fun k d => d.issueBReg k w planSra) (fun d => d.peReg w planSra)

/-- MUL: Low 64 bits of a scalar product (R120). -/
def execMul (u : Core) (w : SlotWord) (s : State) : Out :=
  fireOn s u (fun k d => d.issueBReg k w planMul) (fun d => d.peReg w planMul)

/-- MULH: High 64 bits of a signed scalar product (R120). -/
def execMulh (u : Core) (w : SlotWord) (s : State) : Out :=
  fireOn s u (fun k d => d.issueBReg k w planMulh) (fun d => d.peReg w planMulh)

/-- SLT: Sets a scalar to 1 when signed less than (R120). -/
def execSlt (u : Core) (w : SlotWord) (s : State) : Out :=
  fireOn s u (fun k d => d.issueBReg k w planSlt) (fun d => d.peReg w planSlt)

/-- SLTU: Sets a scalar to 1 when unsigned less than (R120). -/
def execSltu (u : Core) (w : SlotWord) (s : State) : Out :=
  fireOn s u (fun k d => d.issueBReg k w planSltu) (fun d => d.peReg w planSltu)

/-- SEQ: Sets a scalar to 1 when equal (R120). -/
def execSeq (u : Core) (w : SlotWord) (s : State) : Out :=
  fireOn s u (fun k d => d.issueBReg k w planSeq) (fun d => d.peReg w planSeq)

/-- ADDI: Adds a sign-extended immediate to a scalar (R120). -/
def execAddi (u : Core) (w : SlotWord) (s : State) : Out :=
  fireOn s u (fun k d => d.issueBReg k w planAddi) (fun d => d.peReg w planAddi)

/-- LI: Replaces a 24-bit field of a scalar with an immediate (R120). -/
def execLi (u : Core) (w : SlotWord) (s : State) : Out :=
  fireOn s u (fun k d => d.issueBReg k w planLi) (fun d => d.peReg w planLi)

/-- SHI: Shifts a scalar by an immediate (R120). -/
def execShi (u : Core) (w : SlotWord) (s : State) : Out :=
  fireOn s u (fun k d => d.issueBReg k w planShi) (fun d => d.peReg w planShi)

/-- CSET: Writes a circular pointer from a scalar (R120). -/
def execCset (u : Core) (w : SlotWord) (s : State) : Out :=
  fireOn s u (fun k d => d.issueBReg k w planCset) (fun d => d.peIllegal w)

/-- CGET: Reads a circular pointer into a scalar (R120). -/
def execCget (u : Core) (w : SlotWord) (s : State) : Out :=
  fireOn s u (fun k d => d.issueBReg k w planCget) (fun d => d.peIllegal w)

/-- CADD: Advances a circular pointer's INDEX without faulting (R120). -/
def execCadd (u : Core) (w : SlotWord) (s : State) : Out :=
  fireOn s u (fun k d => d.issueBReg k w planCadd) (fun d => d.peIllegal w)

/-- KSET: Writes a lane mask from a scalar (R120). -/
def execKset (u : Core) (w : SlotWord) (s : State) : Out :=
  fireOn s u (fun k d => d.issueBReg k w planKset) (fun d => d.peIllegal w)

/-- KGET: Reads a lane mask into a scalar (R120). -/
def execKget (u : Core) (w : SlotWord) (s : State) : Out :=
  fireOn s u (fun k d => d.issueBReg k w planKget) (fun d => d.peIllegal w)

/-- VEXT: Extracts one lane into a scalar (R120). -/
def execVext (u : Core) (w : SlotWord) (s : State) : Out :=
  fireOn s u (fun k d => d.issueBReg k w planVext) (fun d => d.peIllegal w)

/-- VINS: Inserts a scalar into one lane (R120). -/
def execVins (u : Core) (w : SlotWord) (s : State) : Out :=
  fireOn s u (fun k d => d.issueBReg k w planVins) (fun d => d.peIllegal w)

/-- VCLS: Counts the smallest headroom over enabled lanes (R120). -/
def execVcls (u : Core) (w : SlotWord) (s : State) : Out :=
  fireOn s u (fun k d => d.issueBReg k w planVcls) (fun d => d.peIllegal w)

/-- DGET: Reads one lane of a decision register (R120). -/
def execDget (u : Core) (w : SlotWord) (s : State) : Out :=
  fireOn s u (fun k d => d.issueBReg k w planDget) (fun d => d.peIllegal w)

/-- DCLR: Clears a decision register (R120). -/
def execDclr (u : Core) (w : SlotWord) (s : State) : Out :=
  fireOn s u (fun k d => d.issueBReg k w planDclr) (fun d => d.peIllegal w)

end Sys2Proof.Machine
end

