-- ==== Sys2Proof/Machine/ExecScheduler.lean ====
section
/-! DEFINITION. Sys2Proof/Machine/ExecScheduler.lean: the meanings of the scheduler and the gang (R200, R211 to R234, R248 to R255), one per command. -/
namespace Sys2Proof.Machine
open Dev

/-- FILTER_PREPARE: Firmware command 0x140 checks filter-set images and loads their head taps and exponents (R200). -/
def execFilterPrepare (r : RingIx) (s : State) : Out :=
  fire s (fun d => d.inChip (fun d => d.filterPrepare r))

/-- TASK_VALID_SET: A pool write that takes VALID from 0 to 1 checks the descriptor and refuses it with TSK_VERR on failure (R211). -/
def execTaskValidSet (m : Master) (ix : Fin 16384) (l : List Byte) (s : State) : Out :=
  fire s (fun d => d.inChip (fun d => d.poolSet m ix l))

/-- TASK_VALID_CLEAR: A pool write that takes VALID from 1 to 0 removes a ready task unrun (R212). -/
def execTaskValidClear (m : Master) (ix : Fin 16384) (s : State) : Out :=
  fire s (fun d => d.inChip (fun d => d.poolClear m ix))

/-- TASK_COMPLETE: TSK handles a task completion, releases successors when OK or SKIPPED and writes a completion record (R213). -/
def execTaskComplete (s : State) : Out :=
  fire s (fun d => d.inUnit 22 (fun d => d.taskComplete))

/-- TASK_FAULT_REPORT: On a task-class fault TSK re-dispatches the task once or completes it as FAULT (R226). -/
def execTaskFaultReport (k : EngIx) (c : CtxIx) (s : State) : Out :=
  fire s (fun d => d.inUnit 22 (fun d => d.taskFaultReport k c))

/-- ENGINE_FAULT_REPORT: On an engine-class fault TSK starts a takeover onto the spare or orphans the slot (R227). -/
def execEngineFaultReport (k : EngIx) (s : State) : Out :=
  fire s (fun d => d.inUnit 22 (fun d => d.engineFaultReport k))

/-- TAKEOVER_COMPLETE: When TASK_A completes TSK arms B32, re-dispatches phase-A work and releases TASK_B (R227). -/
def execTakeoverComplete (s : State) : Out :=
  fire s (fun d => d.inUnit 22 (fun d => d.takeoverComplete))

/-- TASK_B_COMPLETE: When TASK_B completes TSK re-dispatches the interrupted phase-B tasks (R227). -/
def execTaskBComplete (s : State) : Out :=
  fire s (fun d => d.inUnit 22 (fun d => d.taskBComplete))

/-- ADD_SPARE: TSK_CTRL.ADD_SPARE names an engine as spare and takes over any orphaned slot onto it (R230). -/
def execAddSpare (m : Master) (v : Word) (s : State) : Out :=
  fire s (fun d => d.regCmd m (Adr.TSK_CTRL) (some v))

/-- UNSHED: TSK_CTRL.UNSHED_GO returns the shed step to a lower value at the next landing (R234). -/
def execUnshed (m : Master) (v : Word) (s : State) : Out :=
  fire s (fun d => d.regCmd m (Adr.TSK_CTRL) (some v))

/-- LORTIS_PARTIAL_SEND: Once its hall has the device sum a member sends each peer's share in PARTIAL segments (R248). -/
def execLortisPartialSend (s : State) : Out :=
  fire s (fun d => d.inUnit 27 (fun d => d.partialSend))

/-- LORTIS_FRAME_RECEIVE: GANG checks a received Lortis frame and accepts, drops or counts it (R249). -/
def execLortisFrameReceive (s : State) : Out :=
  fire s (fun d => d.inUnit 27 (fun d => d.lortisReceive))

/-- DIGEST_COMPARE: When both twins' digests of a block are present GANG compares them and records mismatches (R255). -/
def execDigestCompare (s : State) : Out :=
  fire s (fun d => d.inUnit 27 (fun d => d.digestCompare))

end Sys2Proof.Machine
end

