-- ==== Sys2Proof/Machine/ExecSerial.lean ====
section
/-! DEFINITION. Sys2Proof/Machine/ExecSerial.lean: the meanings of the serial ports and MIX (R395 to R416), one per command. -/
namespace Sys2Proof.Machine
open Dev

/-- SAP_START: SAP_CTRL.EN written 1 checks the port and starts its silent start or sets CFG_BAD (R395). -/
def execSapStart (m : Master) (p : SapIx) (v : Word) (s : State) : Out :=
  fire s (fun d => d.regCmd m (Adr.SAP_CTRL p) (some v))

/-- SAP_SILENT_START_END: After FRAMES silent frames data follows from the next landing (R403). -/
def execSapSilentStartEnd (p : SapIx) (s : State) : Out :=
  fire s (fun d => d.inSap p (fun d => d.sapSilentEnd p))

/-- SAP_STOP: SAP_CTRL.EN written 0 ramps transmit data to zero and drives silence (R403). -/
def execSapStop (m : Master) (p : SapIx) (v : Word) (s : State) : Out :=
  fire s (fun d => d.regCmd m (Adr.SAP_CTRL p) (some v))

/-- SAP_STOPPED: After FRAMES silent frames a master stops its clocks, DOUT goes high-impedance and RUNNING clears (R403). -/
def execSapStopped (p : SapIx) (s : State) : Out :=
  fire s (fun d => d.inSap p (fun d => d.sapStopped p))

/-- SAP_PORT_FRAME: A port frame is received and transmitted, with the direct-path sum and landed masks applied (R404). -/
def execSapPortFrame (p : SapIx) (rx : List Word) (s : State) : Out :=
  fire s (fun d => d.inSap p (fun d => d.sapFrame p rx))

/-- SAP_RATE_MEASURE: After 2^GATE frames the port writes SAP_RATE and updates RATE_OOB and FAMILY (R396). -/
def execSapRateMeasure (p : SapIx) (rate : BitVec 26) (s : State) : Out :=
  fire s (fun d => d.inSap p (fun d => d.sapRate p rate.toNat))

/-- SAP_CLOCK_LOSS: No FSYNC edge for 4 nominal frames clears CLK_OK (R397). -/
def execSapClockLoss (p : SapIx) (s : State) : Out :=
  fire s (fun d => d.inSap p (fun d => d.sapClockLoss p))

/-- ASRC_LOCK: The ASRC locks within 8192 frames after the clock returns inside its range (R397). -/
def execAsrcLock (p : SapIx) (s : State) : Out :=
  fire s (fun d => d.inSap p (fun d => d.asrcLock p))

/-- MIX_OUTRDY: A write of MIX_OUTRDY marks a slot's block complete in the output staging, or is discarded as late (R414). -/
def execMixOutrdy (m : Master) (v : Word) (s : State) : Out :=
  fire s (fun d => d.regCmd m (Adr.MIX_OUTRDY) (some v))

/-- GAIN_STEP_TIMEOUT: With no zero crossing for TIMEOUT_MS a gain stage steps its code toward the target (R416). -/
def execGainStepTimeout (j : Fin 1280) (s : State) : Out :=
  fire s (fun d => d.inChip (fun d => d.gainTimeoutStep j))

end Sys2Proof.Machine
end

