-- ==== Sys2Proof/Machine/ExecSlotA.lean ====
section
/-! DEFINITION. Sys2Proof/Machine/ExecSlotA.lean: the meanings of NOP and the slot-A instructions (R105, R113 to R119), one per command. -/
namespace Sys2Proof.Machine
open Dev

/-- NOP: Opcode 0x00 does nothing in either slot (R105). -/
def execNop (u : Core) (w : SlotWord) (s : State) : Out :=
  fireOn s u (fun k d => if w.slot = .a then d.issueA k w planNop else d.issueBReg k w planNop) (fun d => d.peNop w)

/-- VADD: Adds two vectors lane by lane modulo 2^32 (R113). -/
def execVadd (u : Core) (w : SlotWord) (s : State) : Out :=
  fireOn s u (fun k d => d.issueA k w planVadd) (fun d => d.peIllegal w)

/-- VADDS: Adds two vectors with saturation and OVF (R113). -/
def execVadds (u : Core) (w : SlotWord) (s : State) : Out :=
  fireOn s u (fun k d => d.issueA k w planVadds) (fun d => d.peIllegal w)

/-- VSUB: Subtracts two vectors lane by lane modulo 2^32 (R113). -/
def execVsub (u : Core) (w : SlotWord) (s : State) : Out :=
  fireOn s u (fun k d => d.issueA k w planVsub) (fun d => d.peIllegal w)

/-- VSUBS: Subtracts two vectors with saturation and OVF (R113). -/
def execVsubs (u : Core) (w : SlotWord) (s : State) : Out :=
  fireOn s u (fun k d => d.issueA k w planVsubs) (fun d => d.peIllegal w)

/-- VMULQ: Multiplies Q1.31 lanes with rounding and saturation (R113). -/
def execVmulq (u : Core) (w : SlotWord) (s : State) : Out :=
  fireOn s u (fun k d => d.issueA k w planVmulq) (fun d => d.peIllegal w)

/-- VAND: Bitwise AND of two vectors (R113). -/
def execVand (u : Core) (w : SlotWord) (s : State) : Out :=
  fireOn s u (fun k d => d.issueA k w planVand) (fun d => d.peIllegal w)

/-- VOR: Bitwise OR of two vectors (R113). -/
def execVor (u : Core) (w : SlotWord) (s : State) : Out :=
  fireOn s u (fun k d => d.issueA k w planVor) (fun d => d.peIllegal w)

/-- VXOR: Bitwise XOR of two vectors (R113). -/
def execVxor (u : Core) (w : SlotWord) (s : State) : Out :=
  fireOn s u (fun k d => d.issueA k w planVxor) (fun d => d.peIllegal w)

/-- VANDN: Bitwise AND of a vector with the complement of another (R113). -/
def execVandn (u : Core) (w : SlotWord) (s : State) : Out :=
  fireOn s u (fun k d => d.issueA k w planVandn) (fun d => d.peIllegal w)

/-- VSHL: Shifts lanes left (R113). -/
def execVshl (u : Core) (w : SlotWord) (s : State) : Out :=
  fireOn s u (fun k d => d.issueA k w planVshl) (fun d => d.peIllegal w)

/-- VSHR: Shifts lanes right logically (R113). -/
def execVshr (u : Core) (w : SlotWord) (s : State) : Out :=
  fireOn s u (fun k d => d.issueA k w planVshr) (fun d => d.peIllegal w)

/-- VSRA: Shifts lanes right arithmetically (R113). -/
def execVsra (u : Core) (w : SlotWord) (s : State) : Out :=
  fireOn s u (fun k d => d.issueA k w planVsra) (fun d => d.peIllegal w)

/-- VSHLS: Shifts lanes left with saturation (R113). -/
def execVshls (u : Core) (w : SlotWord) (s : State) : Out :=
  fireOn s u (fun k d => d.issueA k w planVshls) (fun d => d.peIllegal w)

/-- VMIN: Takes the lane-wise minimum, signed or unsigned (R113). -/
def execVmin (u : Core) (w : SlotWord) (s : State) : Out :=
  fireOn s u (fun k d => d.issueA k w planVmin) (fun d => d.peIllegal w)

/-- VMAX: Takes the lane-wise maximum, signed or unsigned (R113). -/
def execVmax (u : Core) (w : SlotWord) (s : State) : Out :=
  fireOn s u (fun k d => d.issueA k w planVmax) (fun d => d.peIllegal w)

/-- VABS: Takes the saturated absolute value of each lane (R113). -/
def execVabs (u : Core) (w : SlotWord) (s : State) : Out :=
  fireOn s u (fun k d => d.issueA k w planVabs) (fun d => d.peIllegal w)

/-- VNEG: Negates each lane with saturation (R113). -/
def execVneg (u : Core) (w : SlotWord) (s : State) : Out :=
  fireOn s u (fun k d => d.issueA k w planVneg) (fun d => d.peIllegal w)

/-- VSAT: Saturates each lane to a signed width (R113). -/
def execVsat (u : Core) (w : SlotWord) (s : State) : Out :=
  fireOn s u (fun k d => d.issueA k w planVsat) (fun d => d.peIllegal w)

/-- VCVT: Converts each lane by the selected form (R114). -/
def execVcvt (u : Core) (w : SlotWord) (s : State) : Out :=
  fireOn s u (fun k d => d.issueA k w planVcvt) (fun d => d.peIllegal w)

/-- VSEL: Selects lanes from two vectors by the K mask, writing every lane (R113). -/
def execVsel (u : Core) (w : SlotWord) (s : State) : Out :=
  fireOn s u (fun k d => d.issueA k w planVsel) (fun d => d.peIllegal w)

/-- VCMP: Compares lanes and writes the result mask into a k register (R113). -/
def execVcmp (u : Core) (w : SlotWord) (s : State) : Out :=
  fireOn s u (fun k d => d.issueA k w planVcmp) (fun d => d.peIllegal w)

/-- VMOV: Copies a vector (R113). -/
def execVmov (u : Core) (w : SlotWord) (s : State) : Out :=
  fireOn s u (fun k d => d.issueA k w planVmov) (fun d => d.peIllegal w)

/-- VBCAST: Broadcasts a scalar into every enabled lane (R113). -/
def execVbcast (u : Core) (w : SlotWord) (s : State) : Out :=
  fireOn s u (fun k d => d.issueA k w planVbcast) (fun d => d.peIllegal w)

/-- VSWZ: Permutes lanes by XOR of the lane index (R113). -/
def execVswz (u : Core) (w : SlotWord) (s : State) : Out :=
  fireOn s u (fun k d => d.issueA k w planVswz) (fun d => d.peIllegal w)

/-- VMAC: Adds or subtracts the exact product of two lanes into an accumulator (R115). -/
def execVmac (u : Core) (w : SlotWord) (s : State) : Out :=
  fireOn s u (fun k d => d.issueA k w planVmac) (fun d => d.peIllegal w)

/-- VMAC2: Adds the exact sum of two products into an accumulator once (R115). -/
def execVmac2 (u : Core) (w : SlotWord) (s : State) : Out :=
  fireOn s u (fun k d => d.issueA k w planVmac2) (fun d => d.peIllegal w)

/-- VCMAC: Complex multiply-accumulates on lane pairs (R116). -/
def execVcmac (u : Core) (w : SlotWord) (s : State) : Out :=
  fireOn s u (fun k d => d.issueA k w planVcmac) (fun d => d.peIllegal w)

/-- VCMUL: Complex multiplies lane pairs with rounding and saturation (R116). -/
def execVcmul (u : Core) (w : SlotWord) (s : State) : Out :=
  fireOn s u (fun k d => d.issueA k w planVcmul) (fun d => d.peIllegal w)

/-- BFLY4: Computes a radix-4 butterfly over four vector registers (R117). -/
def execBfly4 (u : Core) (w : SlotWord) (s : State) : Out :=
  fireOn s u (fun k d => d.issueA k w planBfly4) (fun d => d.peIllegal w)

/-- VACS: Adds, compares and selects, shifting the decision into a d register (R118). -/
def execVacs (u : Core) (w : SlotWord) (s : State) : Out :=
  fireOn s u (fun k d => d.issueA k w planVacs) (fun d => d.peIllegal w)

/-- ACLR: Clears an accumulator and ends its lost state (R115). -/
def execAclr (u : Core) (w : SlotWord) (s : State) : Out :=
  fireOn s u (fun k d => d.issueA k w planAclr) (fun d => d.peIllegal w)

/-- AMOV: Sets accumulator lanes to a shifted vector value (R115). -/
def execAmov (u : Core) (w : SlotWord) (s : State) : Out :=
  fireOn s u (fun k d => d.issueA k w planAmov) (fun d => d.peIllegal w)

/-- AADD: Adds one accumulator into another with wrap counts (R115). -/
def execAadd (u : Core) (w : SlotWord) (s : State) : Out :=
  fireOn s u (fun k d => d.issueA k w planAadd) (fun d => d.peIllegal w)

/-- AADDV: Adds a shifted vector into an accumulator (R115). -/
def execAaddv (u : Core) (w : SlotWord) (s : State) : Out :=
  fireOn s u (fun k d => d.issueA k w planAaddv) (fun d => d.peIllegal w)

/-- NARW: Narrows accumulator lanes into vector registers under R70 (R119). -/
def execNarw (u : Core) (w : SlotWord) (s : State) : Out :=
  fireOn s u (fun k d => d.issueA k w planNarw) (fun d => d.peIllegal w)

end Sys2Proof.Machine
end

