-- ==== Sys2Proof/Machine/ExecSlotB.lean ====
section
/-! DEFINITION. Sys2Proof/Machine/ExecSlotB.lean: the meanings of the slot-B instructions that load, store, wait and branch (R121 to R146), one per command. -/
namespace Sys2Proof.Machine
open Dev

/-- LD: Loads a scalar from the room or, with FAR, from an internal address (R121). -/
def execLd (u : Core) (w : SlotWord) (s : State) : Out :=
  fireOn s u (fun k d => d.issueB k w planLd ld) (fun d => d.peLd w)

/-- ST: Stores a scalar to the room or, with FAR, posts a far store (R121). -/
def execSt (u : Core) (w : SlotWord) (s : State) : Out :=
  fireOn s u (fun k d => d.issueB k w planSt st) (fun d => d.peSt w)

/-- VLD: Loads 128 B into enabled lanes through a scalar or circular pointer (R122). -/
def execVld (u : Core) (w : SlotWord) (s : State) : Out :=
  fireOn s u (fun k d => d.issueB k w planVld vld) (fun d => d.peIllegal w)

/-- VST: Stores enabled lanes through a scalar or circular pointer (R122). -/
def execVst (u : Core) (w : SlotWord) (s : State) : Out :=
  fireOn s u (fun k d => d.issueB k w planVst vst) (fun d => d.peIllegal w)

/-- PSTEP_LOAD: Queues a background load of pair entries and tags into the pair buffer (R128). -/
def execPstepLoad (u : Core) (w : SlotWord) (s : State) : Out :=
  fireOn s u (fun k d => d.issueB k w planPstepLoad pstepLoad) (fun d => d.peIllegal w)

/-- PSTEP_WAIT: Stalls until every queued pair-buffer load of the context is complete (R128). -/
def execPstepWait (u : Core) (w : SlotWord) (s : State) : Out :=
  fireOn s u (fun k d => d.issueB k w planPstepWait pstepWait) (fun d => d.peIllegal w)

/-- GATHER: Steps up to 8 pairs, reads and interpolates window taps and accumulates the products (R131). -/
def execGather (u : Core) (w : SlotWord) (s : State) : Out :=
  fireOn s u (fun k d => d.issueB k w planGather gather) (fun d => d.peIllegal w)

/-- HSEND: Narrows accumulator lanes to P48 and stages them as the slot's partials for outputs and a sample (R134). -/
def execHsend (u : Core) (w : SlotWord) (s : State) : Out :=
  fireOn s u (fun k d => d.issueB k w planHsend hsend) (fun d => d.peIllegal w)

/-- TAPMOVE: Multiplies a delay-line word by a coefficient into lane 0, shifts the word and steps both pointers (R137). -/
def execTapmove (u : Core) (w : SlotWord) (s : State) : Out :=
  fireOn s u (fun k d => d.issueB k w planTapmove tapmove) (fun d => d.peTapmove w)

/-- SMAC: Adds the product of two scalars to lane 0 of an accumulator (R138). -/
def execSmac (u : Core) (w : SlotWord) (s : State) : Out :=
  fireOn s u (fun k d => d.issueBReg k w planSmac) (fun d => d.peReg w planSmac)

/-- NARS: Narrows one accumulator lane into a scalar, optionally clearing it (R138). -/
def execNars (u : Core) (w : SlotWord) (s : State) : Out :=
  fireOn s u (fun k d => d.issueBReg k w planNars) (fun d => d.peReg w planNars)

/-- SDMA: Enqueues a stream entry between the room and a far address (R139). -/
def execSdma (u : Core) (w : SlotWord) (s : State) : Out :=
  fireOn s u (fun k d => d.issueB k w planSdma sdma) (fun d => d.peIllegal w)

/-- SWAIT: Waits until at most n stream entries are pending (R140). -/
def execSwait (u : Core) (w : SlotWord) (s : State) : Out :=
  fireOn s u (fun k d => d.issueB k w planSwait swait) (fun d => d.peIllegal w)

/-- FENCE_ROOM: Makes earlier room stores visible before later accesses (R140). -/
def execFenceRoom (u : Core) (w : SlotWord) (s : State) : Out :=
  fireOn s u (fun k d => d.issueB k w planFenceRoom fenceRoom) (fun d => d.peIllegal w)

/-- FENCE_STREAM: Waits until earlier stream entries are complete and visible (R140). -/
def execFenceStream (u : Core) (w : SlotWord) (s : State) : Out :=
  fireOn s u (fun k d => d.issueB k w planFenceStream fenceStream) (fun d => d.peIllegal w)

/-- BARRIER: Waits for room, stream, far store, PSTEP and HSEND completion (R140). -/
def execBarrier (u : Core) (w : SlotWord) (s : State) : Out :=
  fireOn s u (fun k d => d.issueB k w (planNone false) barrier) (fun d => d.peIllegal w)

/-- BR: Branches by a bundle offset (R142). -/
def execBr (u : Core) (w : SlotWord) (s : State) : Out :=
  fireOn s u (fun k d => d.issueB k w planBr br) (fun d => d.peBr w)

/-- BCOND: Branches when a scalar comparison holds (R142). -/
def execBcond (u : Core) (w : SlotWord) (s : State) : Out :=
  fireOn s u (fun k d => d.issueB k w planBcond bcond) (fun d => d.peBcond w)

/-- JAL: Saves the return address and branches (R142). -/
def execJal (u : Core) (w : SlotWord) (s : State) : Out :=
  fireOn s u (fun k d => d.issueB k w planJal jal) (fun d => d.peJal w)

/-- JR: Jumps to the address in a scalar (R142). -/
def execJr (u : Core) (w : SlotWord) (s : State) : Out :=
  fireOn s u (fun k d => d.issueB k w planJr jr) (fun d => d.peJr w)

/-- REP: Repeats the next bundle a given number of times without interruption (R145). -/
def execRep (u : Core) (w : SlotWord) (s : State) : Out :=
  fireOn s u (fun k d => d.issueB k w planRep rep) (fun d => d.peRep w)

/-- WAITWORK: Completes the task as TDONE does and sets the context's accept mask (R144). -/
def execWaitwork (u : Core) (w : SlotWord) (s : State) : Out :=
  fireOn s u (fun k d => d.issueB k w planWaitwork waitwork) (fun d => d.peIllegal w)

/-- TDONE: Starts task completion and waits for the stream queue, PSTEP loads and hall acceptance (R143). -/
def execTdone (u : Core) (w : SlotWord) (s : State) : Out :=
  fireOn s u (fun k d => d.issueB k w (planNone false) tdone) (fun d => d.peIllegal w)

/-- GETP: Reads the task's slot, block, index, class or cycle count (R146). -/
def execGetp (u : Core) (w : SlotWord) (s : State) : Out :=
  fireOn s u (fun k d => d.issueB k w planGetp getp) (fun d => d.peIllegal w)

/-- MFLG: Reads a flag mask or queue count (R146). -/
def execMflg (u : Core) (w : SlotWord) (s : State) : Out :=
  fireOn s u (fun k d => d.issueB k w planMflg mflg) (fun d => d.peIllegal w)

/-- FCLR: Clears bits of a flag mask (R146). -/
def execFclr (u : Core) (w : SlotWord) (s : State) : Out :=
  fireOn s u (fun k d => d.issueB k w planFclr fclr) (fun d => d.peIllegal w)

/-- ICINV: Invalidates the instruction cache by instruction (R146). -/
def execIcinv (u : Core) (w : SlotWord) (s : State) : Out :=
  fireOn s u (fun k d => d.issueB k w (planNone false) icinvOp) (fun d => d.peIllegal w)

end Sys2Proof.Machine
end

