-- ==== Sys2Proof/Machine/ExecSmbus.lean ====
section
/-! DEFINITION. Sys2Proof/Machine/ExecSmbus.lean: the meanings of the management port (R552 to R554, R591), one per command. -/
namespace Sys2Proof.Machine
open Dev

/-- GET_ID: SMBus 0x01 returns the device identification (R553). -/
def execGetId (s : State) : Out :=
  fire s (fun d => d.inPorch (fun d => d.getId))

/-- GET_STATUS: SMBus 0x02 returns 16 B of porch status (R554). -/
def execGetStatus (s : State) : Out :=
  fire s (fun d => d.inPorch (fun d => d.getStatus))

/-- GET_TEMP: SMBus 0x03 returns the eight sensor readings (R553). -/
def execGetTemp (s : State) : Out :=
  fire s (fun d => d.inPorch (fun d => d.getTemp))

/-- GET_ASN: SMBus 0x04 returns a ring's LAST_ACCEPTED and LAST_COMPLETED (R553). -/
def execGetAsn (r : Byte) (s : State) : Out :=
  fire s (fun d => d.inPorch (fun d => d.getAsn r.toNat))

/-- GET_EVENT: SMBus 0x05 returns the oldest unread porch event record and marks it read (R553). -/
def execGetEvent (s : State) : Out :=
  fire s (fun d => d.inPorch (fun d => d.getEvent))

/-- READ_REG: SMBus 0x06 returns a PCH register (R553). -/
def execReadReg (o : BitVec 16) (s : State) : Out :=
  fire s (fun d => d.inPorch (fun d => d.readReg o.toNat))

/-- FORCE_SAFE: SMBus 0x10 forces the safe path (R553). -/
def execForceSafe (pec : Option Byte) (s : State) : Out :=
  fire s (fun d => d.inPorch (fun d => d.smbWrite [0x10] pec force))

/-- RESET_MASTER: SMBus 0x11 asserts or releases a master's reset without refusals (R554). -/
def execResetMaster (target : Byte) (on : Byte) (pec : Option Byte) (s : State) : Out :=
  fire s (fun d => d.inPorch (fun d => d.smbWrite [0x11, target.toNat, on.toNat] pec (fun d => d.smbReset target.toNat on.toNat)))

/-- WARM_RESET_CMD: SMBus 0x12 causes a warm reset with cause 3 (R553). -/
def execWarmResetCmd (pec : Option Byte) (s : State) : Out :=
  fire s (fun d => d.inPorch (fun d => d.smbWrite [0x12] pec (fun d => d.warmReset 3)))

/-- WAKE: SMBus 0x13 ends standby (R553). -/
def execWake (pec : Option Byte) (s : State) : Out :=
  fire s (fun d => d.inPorch (fun d => d.smbWrite [0x13] pec smbWake))

/-- THERM_CLEAR: SMBus 0x14 releases a thermal trip (R553). -/
def execThermClear (pec : Option Byte) (s : State) : Out :=
  fire s (fun d => d.inPorch (fun d => d.smbWrite [0x14] pec thermClear))

/-- ALERT_RESPONSE: The target answers a read of the Alert Response Address (R552). -/
def execAlertResponse (s : State) : Out :=
  fire s (fun d => d.inPorch (fun d => d.alertResponse))

/-- SMB_SCL_TIMEOUT: SCL held low for 30 ms makes the target release the bus and discard the transaction (R591). -/
def execSmbSclTimeout (s : State) : Out :=
  fire s (fun d => d.inPorch (fun d => d.sclTimeout))

end Sys2Proof.Machine
end

