-- ==== Sys2Proof/Machine/ExecTimeBase.lean ====
section
/-! DEFINITION. Sys2Proof/Machine/ExecTimeBase.lean: the meanings of the time bases (R351 to R366), one per command. -/
namespace Sys2Proof.Machine
open Dev

/-- TB_INCR_COMMIT: A write to TBn_INCR_LO commits a new increment or refuses it with INCR_BAD (R351). -/
def execTbIncrCommit (m : Master) (b : TbIx) (v : Word) (s : State) : Out :=
  fire s (fun d => d.regCmd m (Adr.TBN_INCR_LO b) (some v))

/-- TB_OFFSET_ADD: A write to TBn_ADJ_LO commits a one-shot offset added at the next tick (R352). -/
def execTbOffsetAdd (m : Master) (b : TbIx) (v : Word) (s : State) : Out :=
  fire s (fun d => d.regCmd m (Adr.TBN_ADJ_LO b) (some v))

/-- TB_LOAD: TBn_CTRL.LOAD sets the time to SET at the next tick (R352). -/
def execTbLoad (m : Master) (b : TbIx) (v : Word) (s : State) : Out :=
  fire s (fun d => d.regCmd m (Adr.TBN_CTRL b) (some v))

/-- TB_TIME_READ: A read of TBn_TIME_FRAC latches the rest of the time from the same tick (R353). -/
def execTbTimeRead (m : Master) (b : TbIx) (s : State) : Out :=
  fire s (fun d => d.regCmd m (Adr.TBN_TIME_FRAC b) none)

/-- TSQ_POP: A read of TB_TSQp_POP pops the oldest transmit timestamp into the data registers (R362). -/
def execTsqPop (m : Master) (p : PortIx) (s : State) : Out :=
  fire s (fun d => d.regCmd m (Adr.TB_TSQ_POP p) none)

/-- PTP_TX_SUBMIT: Advancing TB_PTPp_TXWR sends the written PTP slots through their queues (R358). -/
def execPtpTxSubmit (m : Master) (p : PortIx) (v : Word) (s : State) : Out :=
  fire s (fun d => d.regCmd m (Adr.TB_PTP_TXWR p) (some v))

/-- TIME_OUT_EDGE: A TIME_OUT pin places its next scheduled active or inactive edge (R365). -/
def execTimeOutEdge (n : Fin 2) (s : State) : Out :=
  fire s (fun d => d.inChip (fun d => d.toutEdge n))

/-- TIME_IN_CAPTURE: An edge on TIME_IN captures a timestamp into its queue or discards it with OVF (R366). -/
def execTimeInCapture (n : Fin 2) (falling : Bool) (s : State) : Out :=
  fire s (fun d => d.inChip (fun d => d.tinCapture n falling))

/-- TIN_POP: A read of TB_TINn_POP pops the oldest capture (R366). -/
def execTinPop (m : Master) (n : Fin 2) (s : State) : Out :=
  fire s (fun d => d.regCmd m (Adr.TB_TIN_POP n) none)

end Sys2Proof.Machine
end

