-- ==== Sys2Proof/Machine/Dispatch.lean ====
section
/-! DEFINITION. Sys2Proof/Machine/Dispatch.lean: the command's meaning, by its constructor. -/
namespace Sys2Proof.Machine

def exec (i : Instr) (s : State) : Host.Outcome State Fault Refusal :=
  match i with
  | .registerWrite m a v => Sys2Proof.Machine.execRegisterWrite m a v s
  | .readLoLatch m a => Sys2Proof.Machine.execReadLoLatch m a s
  | .writeHiBuffer m a v => Sys2Proof.Machine.execWriteHiBuffer m a v s
  | .writeLoCommit m a v => Sys2Proof.Machine.execWriteLoCommit m a v s
  | .rcCounterRead m a => Sys2Proof.Machine.execRcCounterRead m a s
  | .lndRun m v => Sys2Proof.Machine.execLndRun m v s
  | .freezePoint ticks => Sys2Proof.Machine.execFreezePoint ticks s
  | .landing ticks => Sys2Proof.Machine.execLanding ticks s
  | .lndArm m v => Sys2Proof.Machine.execLndArm m v s
  | .lndDisarm m v => Sys2Proof.Machine.execLndDisarm m v s
  | .preemptSwitch k latency => Sys2Proof.Machine.execPreemptSwitch k latency s
  | .nop u w => Sys2Proof.Machine.execNop u w s
  | .vadd u w => Sys2Proof.Machine.execVadd u w s
  | .vadds u w => Sys2Proof.Machine.execVadds u w s
  | .vsub u w => Sys2Proof.Machine.execVsub u w s
  | .vsubs u w => Sys2Proof.Machine.execVsubs u w s
  | .vmulq u w => Sys2Proof.Machine.execVmulq u w s
  | .vand u w => Sys2Proof.Machine.execVand u w s
  | .vor u w => Sys2Proof.Machine.execVor u w s
  | .vxor u w => Sys2Proof.Machine.execVxor u w s
  | .vandn u w => Sys2Proof.Machine.execVandn u w s
  | .vshl u w => Sys2Proof.Machine.execVshl u w s
  | .vshr u w => Sys2Proof.Machine.execVshr u w s
  | .vsra u w => Sys2Proof.Machine.execVsra u w s
  | .vshls u w => Sys2Proof.Machine.execVshls u w s
  | .vmin u w => Sys2Proof.Machine.execVmin u w s
  | .vmax u w => Sys2Proof.Machine.execVmax u w s
  | .vabs u w => Sys2Proof.Machine.execVabs u w s
  | .vneg u w => Sys2Proof.Machine.execVneg u w s
  | .vsat u w => Sys2Proof.Machine.execVsat u w s
  | .vcvt u w => Sys2Proof.Machine.execVcvt u w s
  | .vsel u w => Sys2Proof.Machine.execVsel u w s
  | .vcmp u w => Sys2Proof.Machine.execVcmp u w s
  | .vmov u w => Sys2Proof.Machine.execVmov u w s
  | .vbcast u w => Sys2Proof.Machine.execVbcast u w s
  | .vswz u w => Sys2Proof.Machine.execVswz u w s
  | .vmac u w => Sys2Proof.Machine.execVmac u w s
  | .vmac2 u w => Sys2Proof.Machine.execVmac2 u w s
  | .vcmac u w => Sys2Proof.Machine.execVcmac u w s
  | .vcmul u w => Sys2Proof.Machine.execVcmul u w s
  | .bfly4 u w => Sys2Proof.Machine.execBfly4 u w s
  | .vacs u w => Sys2Proof.Machine.execVacs u w s
  | .aclr u w => Sys2Proof.Machine.execAclr u w s
  | .amov u w => Sys2Proof.Machine.execAmov u w s
  | .aadd u w => Sys2Proof.Machine.execAadd u w s
  | .aaddv u w => Sys2Proof.Machine.execAaddv u w s
  | .narw u w => Sys2Proof.Machine.execNarw u w s
  | .add u w => Sys2Proof.Machine.execAdd u w s
  | .sub u w => Sys2Proof.Machine.execSub u w s
  | .and u w => Sys2Proof.Machine.execAnd u w s
  | .or u w => Sys2Proof.Machine.execOr u w s
  | .xor u w => Sys2Proof.Machine.execXor u w s
  | .sll u w => Sys2Proof.Machine.execSll u w s
  | .srl u w => Sys2Proof.Machine.execSrl u w s
  | .sra u w => Sys2Proof.Machine.execSra u w s
  | .mul u w => Sys2Proof.Machine.execMul u w s
  | .mulh u w => Sys2Proof.Machine.execMulh u w s
  | .slt u w => Sys2Proof.Machine.execSlt u w s
  | .sltu u w => Sys2Proof.Machine.execSltu u w s
  | .seq u w => Sys2Proof.Machine.execSeq u w s
  | .addi u w => Sys2Proof.Machine.execAddi u w s
  | .li u w => Sys2Proof.Machine.execLi u w s
  | .shi u w => Sys2Proof.Machine.execShi u w s
  | .cset u w => Sys2Proof.Machine.execCset u w s
  | .cget u w => Sys2Proof.Machine.execCget u w s
  | .cadd u w => Sys2Proof.Machine.execCadd u w s
  | .kset u w => Sys2Proof.Machine.execKset u w s
  | .kget u w => Sys2Proof.Machine.execKget u w s
  | .vext u w => Sys2Proof.Machine.execVext u w s
  | .vins u w => Sys2Proof.Machine.execVins u w s
  | .vcls u w => Sys2Proof.Machine.execVcls u w s
  | .dget u w => Sys2Proof.Machine.execDget u w s
  | .dclr u w => Sys2Proof.Machine.execDclr u w s
  | .ld u w => Sys2Proof.Machine.execLd u w s
  | .st u w => Sys2Proof.Machine.execSt u w s
  | .vld u w => Sys2Proof.Machine.execVld u w s
  | .vst u w => Sys2Proof.Machine.execVst u w s
  | .pstepLoad u w => Sys2Proof.Machine.execPstepLoad u w s
  | .pstepLoadDone k c => Sys2Proof.Machine.execPstepLoadDone k c s
  | .pstepWait u w => Sys2Proof.Machine.execPstepWait u w s
  | .gather u w => Sys2Proof.Machine.execGather u w s
  | .hsend u w => Sys2Proof.Machine.execHsend u w s
  | .hallInputPass k => Sys2Proof.Machine.execHallInputPass k s
  | .tapmove u w => Sys2Proof.Machine.execTapmove u w s
  | .smac u w => Sys2Proof.Machine.execSmac u w s
  | .nars u w => Sys2Proof.Machine.execNars u w s
  | .sdma u w => Sys2Proof.Machine.execSdma u w s
  | .streamEntryDone k c => Sys2Proof.Machine.execStreamEntryDone k c s
  | .swait u w => Sys2Proof.Machine.execSwait u w s
  | .fenceRoom u w => Sys2Proof.Machine.execFenceRoom u w s
  | .fenceStream u w => Sys2Proof.Machine.execFenceStream u w s
  | .barrier u w => Sys2Proof.Machine.execBarrier u w s
  | .br u w => Sys2Proof.Machine.execBr u w s
  | .bcond u w => Sys2Proof.Machine.execBcond u w s
  | .jal u w => Sys2Proof.Machine.execJal u w s
  | .jr u w => Sys2Proof.Machine.execJr u w s
  | .rep u w => Sys2Proof.Machine.execRep u w s
  | .waitwork u w => Sys2Proof.Machine.execWaitwork u w s
  | .tdone u w => Sys2Proof.Machine.execTdone u w s
  | .tdoneCommit k c => Sys2Proof.Machine.execTdoneCommit k c s
  | .getp u w => Sys2Proof.Machine.execGetp u w s
  | .mflg u w => Sys2Proof.Machine.execMflg u w s
  | .fclr u w => Sys2Proof.Machine.execFclr u w s
  | .icinv u w => Sys2Proof.Machine.execIcinv u w s
  | .cycleLimit k c stalls => Sys2Proof.Machine.execCycleLimit k c stalls s
  | .icacheParity k line => Sys2Proof.Machine.execIcacheParity k line s
  | .engEnable m k v => Sys2Proof.Machine.execEngEnable m k v s
  | .engHalt m k v => Sys2Proof.Machine.execEngHalt m k v s
  | .engineHalted k => Sys2Proof.Machine.execEngineHalted k s
  | .engResume m k v => Sys2Proof.Machine.execEngResume m k v s
  | .engIcinv m k v => Sys2Proof.Machine.execEngIcinv m k v s
  | .selftestEnd k pass fails rows => Sys2Proof.Machine.execSelftestEnd k pass fails rows s
  | .engInject m k v => Sys2Proof.Machine.execEngInject m k v s
  | .engDbgDataAccess m k v => Sys2Proof.Machine.execEngDbgDataAccess m k v s
  | .ochRaiseLateJob m slot => Sys2Proof.Machine.execOchRaiseLateJob m slot s
  | .ochRaiseLateSwitch m slot => Sys2Proof.Machine.execOchRaiseLateSwitch m slot s
  | .ochRaiseFirSat m slot => Sys2Proof.Machine.execOchRaiseFirSat m slot s
  | .ochRaiseBiquadSat m slot => Sys2Proof.Machine.execOchRaiseBiquadSat m slot s
  | .ochRaiseLimit m slot => Sys2Proof.Machine.execOchRaiseLimit m slot s
  | .filterPrepare r => Sys2Proof.Machine.execFilterPrepare r s
  | .taskValidSet m ix l => Sys2Proof.Machine.execTaskValidSet m ix l s
  | .taskValidClear m ix => Sys2Proof.Machine.execTaskValidClear m ix s
  | .taskFaultReport k c => Sys2Proof.Machine.execTaskFaultReport k c s
  | .engineFaultReport k => Sys2Proof.Machine.execEngineFaultReport k s
  | .addSpare m v => Sys2Proof.Machine.execAddSpare m v s
  | .unshed m v => Sys2Proof.Machine.execUnshed m v s
  | .doorbellWrite u r h => Sys2Proof.Machine.execDoorbellWrite u r h s
  | .descriptorFetch u r => Sys2Proof.Machine.execDescriptorFetch u r s
  | .commandAccept r => Sys2Proof.Machine.execCommandAccept r s
  | .hifNop r => Sys2Proof.Machine.execHifNop r s
  | .shadowWrite r => Sys2Proof.Machine.execShadowWrite r s
  | .disarm r => Sys2Proof.Machine.execDisarm r s
  | .copyIn u r granules => Sys2Proof.Machine.execCopyIn u r granules s
  | .copyOut u r granules => Sys2Proof.Machine.execCopyOut u r granules s
  | .fence r => Sys2Proof.Machine.execFence r s
  | .hifBarrier r => Sys2Proof.Machine.execHifBarrier r s
  | .xltInval r => Sys2Proof.Machine.execXltInval r s
  | .waitPeriod r => Sys2Proof.Machine.execWaitPeriod r s
  | .fwCommandPresent r => Sys2Proof.Machine.execFwCommandPresent r s
  | .fwDone m v => Sys2Proof.Machine.execFwDone m v s
  | .completionPost u r => Sys2Proof.Machine.execCompletionPost u r s
  | .readHost u r granules => Sys2Proof.Machine.execReadHost u r granules s
  | .writeHost u r granules => Sys2Proof.Machine.execWriteHost u r granules s
  | .bulkAbort m r v => Sys2Proof.Machine.execBulkAbort m r v s
  | .ringEnable m r v => Sys2Proof.Machine.execRingEnable m r v s
  | .ringResume m r v => Sys2Proof.Machine.execRingResume m r v s
  | .ringStop m r v => Sys2Proof.Machine.execRingStop m r v s
  | .ringDrainEnd r => Sys2Proof.Machine.execRingDrainEnd r s
  | .xltResume u r fseq => Sys2Proof.Machine.execXltResume u r fseq s
  | .xltResumeAbort u r fseq => Sys2Proof.Machine.execXltResumeAbort u r fseq s
  | .xltInv m v => Sys2Proof.Machine.execXltInv m v s
  | .xltInvAll m v => Sys2Proof.Machine.execXltInvAll m v s
  | .xltCtxValid m c v => Sys2Proof.Machine.execXltCtxValid m c v s
  | .bar0Access o l n => Sys2Proof.Machine.execBar0Access o l n s
  | .bar4Access o l n => Sys2Proof.Machine.execBar4Access o l n s
  | .pcieLinkUp width speed => Sys2Proof.Machine.execPcieLinkUp width speed s
  | .captureBlockWrite u c => Sys2Proof.Machine.execCaptureBlockWrite u c s
  | .frameTxDescriptor u r => Sys2Proof.Machine.execFrameTxDescriptor u r s
  | .frameRxDeliver u r => Sys2Proof.Machine.execFrameRxDeliver u r s
  | .portStart m p v => Sys2Proof.Machine.execPortStart m p v s
  | .portStop m p v => Sys2Proof.Machine.execPortStop m p v s
  | .portStopped p => Sys2Proof.Machine.execPortStopped p s
  | .cntClr m p v => Sys2Proof.Machine.execCntClr m p v s
  | .linkUp p => Sys2Proof.Machine.execLinkUp p s
  | .linkDown p hiBer => Sys2Proof.Machine.execLinkDown p hiBer s
  | .anComplete p fd sym asm rf => Sys2Proof.Machine.execAnComplete p fd sym asm rf s
  | .macFrameReceive p l symbol align corr uncorr => Sys2Proof.Machine.execMacFrameReceive p l symbol align corr uncorr s
  | .filterValidSet m p n v => Sys2Proof.Machine.execFilterValidSet m p n v s
  | .txFrameStart p => Sys2Proof.Machine.execTxFrameStart p s
  | .txFrameDone p => Sys2Proof.Machine.execTxFrameDone p s
  | .launchTimeReached p q => Sys2Proof.Machine.execLaunchTimeReached p q s
  | .tbIncrCommit m b v => Sys2Proof.Machine.execTbIncrCommit m b v s
  | .tbOffsetAdd m b v => Sys2Proof.Machine.execTbOffsetAdd m b v s
  | .tbLoad m b v => Sys2Proof.Machine.execTbLoad m b v s
  | .tbTimeRead m b => Sys2Proof.Machine.execTbTimeRead m b s
  | .tsqPop m p => Sys2Proof.Machine.execTsqPop m p s
  | .ptpTxSubmit m p v => Sys2Proof.Machine.execPtpTxSubmit m p v s
  | .timeOutEdge n => Sys2Proof.Machine.execTimeOutEdge n s
  | .timeInCapture n falling => Sys2Proof.Machine.execTimeInCapture n falling s
  | .tinPop m n => Sys2Proof.Machine.execTinPop m n s
  | .legTimeout f g => Sys2Proof.Machine.execLegTimeout f g s
  | .mediaPacketSend f => Sys2Proof.Machine.execMediaPacketSend f s
  | .sapStart m p v => Sys2Proof.Machine.execSapStart m p v s
  | .sapSilentStartEnd p => Sys2Proof.Machine.execSapSilentStartEnd p s
  | .sapStop m p v => Sys2Proof.Machine.execSapStop m p v s
  | .sapStopped p => Sys2Proof.Machine.execSapStopped p s
  | .sapPortFrame p rx => Sys2Proof.Machine.execSapPortFrame p rx s
  | .mixOutrdy m v => Sys2Proof.Machine.execMixOutrdy m v s
  | .fabricRequest m id a write n cells flags cls close => Sys2Proof.Machine.execFabricRequest m id a write n cells flags cls close s
  | .fabricResponse m id t => Sys2Proof.Machine.execFabricResponse m id t s
  | .fillGo m v => Sys2Proof.Machine.execFillGo m v s
  | .eccLogPop m => Sys2Proof.Machine.execEccLogPop m s
  | .eccInjectArm m v => Sys2Proof.Machine.execEccInjectArm m v s
  | .pantrySelftestEnd fails rows => Sys2Proof.Machine.execPantrySelftestEnd fails rows s
  | .dmcInit m c v => Sys2Proof.Machine.execDmcInit m c v s
  | .dmcInitKeep m c v => Sys2Proof.Machine.execDmcInitKeep m c v s
  | .dmcPowerupDone c => Sys2Proof.Machine.execDmcPowerupDone c s
  | .dmcFill m c v => Sys2Proof.Machine.execDmcFill m c v s
  | .dmcEnable m c v => Sys2Proof.Machine.execDmcEnable m c v s
  | .dmcFence m c v => Sys2Proof.Machine.execDmcFence m c v s
  | .dmcUnfence m c v => Sys2Proof.Machine.execDmcUnfence m c v s
  | .dmcSrefEnter m c v => Sys2Proof.Machine.execDmcSrefEnter m c v s
  | .dmcSrefExit m c v => Sys2Proof.Machine.execDmcSrefExit m c v s
  | .dramRequest c => Sys2Proof.Machine.execDramRequest c s
  | .resetBusyClear m => Sys2Proof.Machine.execResetBusyClear m s
  | .coldReset pin => Sys2Proof.Machine.execColdReset pin s
  | .warmReset why => Sys2Proof.Machine.execWarmReset why s
  | .engBlockReset m v => Sys2Proof.Machine.execEngBlockReset m v s
  | .scBlockReset m v => Sys2Proof.Machine.execScBlockReset m v s
  | .macBlockReset m v => Sys2Proof.Machine.execMacBlockReset m v s
  | .dmcBlockReset m v => Sys2Proof.Machine.execDmcBlockReset m v s
  | .sapBlockReset m v => Sys2Proof.Machine.execSapBlockReset m v s
  | .hifBlockReset m v => Sys2Proof.Machine.execHifBlockReset m v s
  | .feBlockReset m v => Sys2Proof.Machine.execFeBlockReset m v s
  | .mixBlockReset m v => Sys2Proof.Machine.execMixBlockReset m v s
  | .blockResetRelease m b v => Sys2Proof.Machine.execBlockResetRelease m b v s
  | .porchResetExit straps flash otp bist => Sys2Proof.Machine.execPorchResetExit straps flash otp bist s
  | .hbootGo m v => Sys2Proof.Machine.execHbootGo m v s
  | .safeFrame cycles => Sys2Proof.Machine.execSafeFrame cycles s
  | .peFault code pc => Sys2Proof.Machine.execPeFault code pc s
  | .pchForceSafe m v => Sys2Proof.Machine.execPchForceSafe m v s
  | .safeReload m v => Sys2Proof.Machine.execSafeReload m v s
  | .stbyEnter m v => Sys2Proof.Machine.execStbyEnter m v s
  | .pchThermClear m v => Sys2Proof.Machine.execPchThermClear m v s
  | .watchdogKick m c v => Sys2Proof.Machine.execWatchdogKick m c v s
  | .getAsn r => Sys2Proof.Machine.execGetAsn r s
  | .readReg o => Sys2Proof.Machine.execReadReg o s
  | .forceSafe pec => Sys2Proof.Machine.execForceSafe pec s
  | .resetMaster target on pec => Sys2Proof.Machine.execResetMaster target on pec s
  | .warmResetCmd pec => Sys2Proof.Machine.execWarmResetCmd pec s
  | .wake pec => Sys2Proof.Machine.execWake pec s
  | .thermClear pec => Sys2Proof.Machine.execThermClear pec s
  | .eventRingFlush u => Sys2Proof.Machine.execEventRingFlush u s
  | .swtrig m v => Sys2Proof.Machine.execSwtrig m v s
  | .counterWrap n weight => Sys2Proof.Machine.execCounterWrap n weight s
  | .pmcCntClear m n v => Sys2Proof.Machine.execPmcCntClear m n v s
  | .pmcClrGrp m v => Sys2Proof.Machine.execPmcClrGrp m v s
  | .msixModExpiry r => Sys2Proof.Machine.execMsixModExpiry r s
  | .pauseExpiry p cls => Sys2Proof.Machine.execPauseExpiry p cls s
  | .xoffRefresh p => Sys2Proof.Machine.execXoffRefresh p s
  | .concealHoldEnd x => Sys2Proof.Machine.execConcealHoldEnd x s
  | .concealRampEnd x => Sys2Proof.Machine.execConcealRampEnd x s
  | .concealResumeEnd x => Sys2Proof.Machine.execConcealResumeEnd x s
  | .sapRateMeasure p rate => Sys2Proof.Machine.execSapRateMeasure p rate s
  | .sapClockLoss p => Sys2Proof.Machine.execSapClockLoss p s
  | .asrcLock p => Sys2Proof.Machine.execAsrcLock p s
  | .gainStepTimeout j => Sys2Proof.Machine.execGainStepTimeout j s
  | .ceWriteback a => Sys2Proof.Machine.execCeWriteback a s
  | .scrubLine l => Sys2Proof.Machine.execScrubLine l s
  | .rowSpareDone b => Sys2Proof.Machine.execRowSpareDone b s
  | .dmcFillDone c => Sys2Proof.Machine.execDmcFillDone c s
  | .refreshDue c r => Sys2Proof.Machine.execRefreshDue c r s
  | .refreshRepay c => Sys2Proof.Machine.execRefreshRepay c s
  | .mr4Poll c v0 v1 r0 r1 => Sys2Proof.Machine.execMr4Poll c v0 v1 r0 r1 s
  | .wck2ckLeveling m c v => Sys2Proof.Machine.execWck2ckLeveling m c v s
  | .readDqCalibration m c v => Sys2Proof.Machine.execReadDqCalibration m c v s
  | .writeReadCompare m c v => Sys2Proof.Machine.execWriteReadCompare m c v s
  | .caBusTraining m c v => Sys2Proof.Machine.execCaBusTraining m c v s
  | .trainingOpDone c fails => Sys2Proof.Machine.execTrainingOpDone c fails s
  | .slotReq m c v => Sys2Proof.Machine.execSlotReq m c v s
  | .trainingSlotOpen c => Sys2Proof.Machine.execTrainingSlotOpen c s
  | .commit m c v => Sys2Proof.Machine.execCommit m c v s
  | .trnEnd m c v => Sys2Proof.Machine.execTrnEnd m c v s
  | .slotOverrun c => Sys2Proof.Machine.execSlotOverrun c s
  | .patrolScrub c l => Sys2Proof.Machine.execPatrolScrub c l s
  | .powerDownEntry c r => Sys2Proof.Machine.execPowerDownEntry c r s
  | .targetTimeout t => Sys2Proof.Machine.execTargetTimeout t s
  | .fabRejoin m v => Sys2Proof.Machine.execFabRejoin m v s
  | .staleResponseAbsorb m id t => Sys2Proof.Machine.execStaleResponseAbsorb m id t s
  | .xtalRetry m v => Sys2Proof.Machine.execXtalRetry m v s
  | .measGo m v => Sys2Proof.Machine.execMeasGo m v s
  | .measDone khz => Sys2Proof.Machine.execMeasDone khz s
  | .netPllUnlock p => Sys2Proof.Machine.execNetPllUnlock p s
  | .watchdogExpiry chans => Sys2Proof.Machine.execWatchdogExpiry chans s
  | .thermalSample t => Sys2Proof.Machine.execThermalSample t s
  | .otpProgram m v => Sys2Proof.Machine.execOtpProgram m v s
  | .flashRead m v => Sys2Proof.Machine.execFlashRead m v s
  | .flashProgram m v => Sys2Proof.Machine.execFlashProgram m v s
  | .flashErase4k m v => Sys2Proof.Machine.execFlashErase4k m v s
  | .flashErase64k m v => Sys2Proof.Machine.execFlashErase64k m v s
  | .flashOpDone bad => Sys2Proof.Machine.execFlashOpDone bad s
  | .netPllLock p => Sys2Proof.Machine.execNetPllLock p s
  | .wdCoreResetRelease c => Sys2Proof.Machine.execWdCoreResetRelease c s
  | .porchScrubLine l => Sys2Proof.Machine.execPorchScrubLine l s
  | .lndCounterLoad => Sys2Proof.Machine.execLndCounterLoad s
  | .mpllLock => Sys2Proof.Machine.execMpllLock s
  | .mpllUnlock => Sys2Proof.Machine.execMpllUnlock s
  | .taskDispatch => Sys2Proof.Machine.execTaskDispatch s
  | .hallBlockComplete => Sys2Proof.Machine.execHallBlockComplete s
  | .taskComplete => Sys2Proof.Machine.execTaskComplete s
  | .takeoverComplete => Sys2Proof.Machine.execTakeoverComplete s
  | .taskBComplete => Sys2Proof.Machine.execTaskBComplete s
  | .lortisPartialSend => Sys2Proof.Machine.execLortisPartialSend s
  | .lortisFrameReceive => Sys2Proof.Machine.execLortisFrameReceive s
  | .digestCompare => Sys2Proof.Machine.execDigestCompare s
  | .xltInvDone => Sys2Proof.Machine.execXltInvDone s
  | .pcieLinkDown => Sys2Proof.Machine.execPcieLinkDown s
  | .pcieFlr => Sys2Proof.Machine.execPcieFlr s
  | .pcieHotReset => Sys2Proof.Machine.execPcieHotReset s
  | .pciePerst => Sys2Proof.Machine.execPciePerst s
  | .mediaPacketReceive => Sys2Proof.Machine.execMediaPacketReceive s
  | .fillDone => Sys2Proof.Machine.execFillDone s
  | .xtalFail => Sys2Proof.Machine.execXtalFail s
  | .rootPllLock => Sys2Proof.Machine.execRootPllLock s
  | .pciePllUnlock => Sys2Proof.Machine.execPciePllUnlock s
  | .chipResetExit => Sys2Proof.Machine.execChipResetExit s
  | .chipPgRise => Sys2Proof.Machine.execChipPgRise s
  | .peRestart => Sys2Proof.Machine.execPeRestart s
  | .standbyWake => Sys2Proof.Machine.execStandbyWake s
  | .getId => Sys2Proof.Machine.execGetId s
  | .getStatus => Sys2Proof.Machine.execGetStatus s
  | .getTemp => Sys2Proof.Machine.execGetTemp s
  | .getEvent => Sys2Proof.Machine.execGetEvent s
  | .alertResponse => Sys2Proof.Machine.execAlertResponse s
  | .smbSclTimeout => Sys2Proof.Machine.execSmbSclTimeout s
  | .xtalOkReturn => Sys2Proof.Machine.execXtalOkReturn s
  | .pciePllLock => Sys2Proof.Machine.execPciePllLock s
  | .pciePerstNRise => Sys2Proof.Machine.execPciePerstNRise s

end Sys2Proof.Machine
end

