-- ==== Sys2Proof/Machine/Step.lean ====
section
/-! DEFINITION. Sys2Proof/Machine/Step.lean: one step of the block: the command at the front of the queue, or a tick in which none comes. -/
namespace Sys2Proof.Machine

/-- One step: the front command acts on the device with the rest of the queue; with no command waiting, one FABRIC tick passes
(DESIGN CHOICE). -/
def step (s : State) : Host.Outcome State Fault Refusal :=
  match s.pending with
  | [] => fire s Dev.idle
  | c :: t => exec c { s with pending := t }

/-- The state with the command that a word spells put at the front of the queue; the rows give no bits, so no word spells one. -/
def State.withFetchWord (s : State) (nbits w : Nat) : State :=
  match decodeTableWord nbits w with
  | some c => { s with pending := c :: s.pending }
  | none => s

end Sys2Proof.Machine
end

