-- ==== Sys2Proof/Safety.lean ====
section
/-! DEFINITION. Sys2Proof/Safety.lean: the forms that the block's data keep: sparse maps in canonical form, and a run that stops nowhere. -/
namespace Sys2Proof.Machine

/-- The canonical form of internal memory: addresses strictly rising, and no entry that equals what an unlisted address reads as. -/
abbrev Memory.wf (d : Dev) : Bool := swf Dev.unwritten none d.mem

/-- The canonical form of the host's memory. -/
abbrev HostMemory.wf (d : Dev) : Bool := swf Dev.hostUnwritten none d.host

/-- The canonical form of the registers. -/
abbrev Registers.wf (d : Dev) : Bool := swf resetValue none d.regs

/-- A step that goes on. -/
def goesOn (o : Host.Outcome State Fault Refusal) : Prop := ∃ t, o = .next t

end Sys2Proof.Machine
end

