-- ==== Sys2Proof/Claims.lean ====
section
/-! DEFINITION. Sys2Proof/Claims.lean: the terms of the statements: the parts of the device, what a command leaves as it was, and how a command completes. -/
namespace Sys2Proof.Machine

/-- The first register-space offset of a block (R577). -/
def Blk.lo : Blk → Nat
  | .lnd => 0
  | .clk => 0x10000
  | .rst => 0x20000
  | .evc => 0x30000
  | .pmc => 0x40000
  | .tsk => 0x50000
  | .hif => 0x60000
  | .xlt => 0x70000
  | .ecc => 0x80000
  | .dmc => 0x90000
  | .fab => 0xA0000
  | .mac => 0x100000
  | .tb => 0x140000
  | .fe => 0x150000
  | .sap => 0x160000
  | .mix => 0x170000
  | .pch => 0x180000
  | .gang => 0x1D0000
  | .och => 0x1E0000
  | .hall => 0x1F0000
  | .eng => 0x200000

/-- The first offset after a block (R577). -/
def Blk.hi : Blk → Nat
  | .lnd => 0x10000
  | .clk => 0x20000
  | .rst => 0x30000
  | .evc => 0x40000
  | .pmc => 0x50000
  | .tsk => 0x60000
  | .hif => 0x70000
  | .xlt => 0x80000
  | .ecc => 0x90000
  | .dmc => 0xC0000
  | .fab => 0xB0000
  | .mac => 0x140000
  | .tb => 0x150000
  | .fe => 0x160000
  | .sap => 0x168000
  | .mix => 0x180000
  | .pch => 0x190000
  | .gang => 0x1E0000
  | .och => 0x1F0000
  | .hall => 0x200000
  | .eng => 0x310000

/-- The register-space offsets of a block (R577): the fabric's registers lie between those of DMC0 to DMC3 and those of DMC4 to DMC7. -/
abbrev Blk.holds (b : Blk) (a : Nat) : Prop := b.lo ≤ a ∧ a < b.hi ∧ ¬(b = .dmc ∧ 0xA0000 ≤ a ∧ a < 0xB0000)

/-- The bits of registers that an occurrence of an event, or its record in the event ring, can change: what EVC keeps of the sources and
of the waiting records (R561 to R565), the performance counters (R569, R570), the pending bits of MSI-X (R562), and of the event ring its
device index, its state and its faults (R298, R302). -/
def evBit (a i : Nat) : Prop :=
  (a = Adr.EVC_STATUS ∧ i = 0) ∨ a = Adr.EVC_OVF_CNT ∨ (Adr.EVC_PEND 0 ≤ a ∧ a < Adr.EVC_LEVEL 8)
  ∨ (a = Adr.PMC_STATUS ∧ i = 0) ∨ (Adr.PMC_WRAP 0 ≤ a ∧ a < Adr.PMC_WRAP 12) ∨ (Adr.PMC_CNT_LO 0 ≤ a ∧ a < Adr.PMC_CNT_LO 384)
  ∨ (Adr.HIF_MSIX_PBA 0 ≤ a ∧ a < Adr.HIF_MSIX_PBA 64)
  ∨ a = Adr.HIF_RING_DEV_IDX 20 ∨ (a = Adr.HIF_RING_STATUS 20 ∧ i < 3)
  ∨ (a = Adr.HIF_STATUS ∧ i = HIF_STATUS.EVRING_FAULT.lo) ∨ (Adr.HIF_EVFAULT_ADDR_LO ≤ a ∧ a < Adr.HIF_EVFAULT_ADDR_LO + 12)
  ∨ a = Adr.XLT_FAULT_CNT ∨ ((∃ c, c < 16 ∧ a = Adr.XLT_CTX_FSEQ c) ∧ i < 16)

/-- The parts of the device that a frame names: one register, the registers of a block, the active copies, the latches and buffers of
pairs, internal memory, host memory, the rings but the event ring, the event ring, and what each unit holds besides its registers. -/
inductive Part where
  | reg (a : Nat)
  | regs (b : Blk)
  | act | pairs | mem | host | bad | msix | resp | fresh | time | lnd | eng | ring | evRing | asn | evc | porch | xlt | ecc | fab | tsk
  | hall | gang | tbs | mac | fe | lortis | sap | mix | och | dmc | pch | clk
  deriving DecidableEq, Repr

/-- The part is the same in two devices: a block's registers hold the same bits, but for the registers that the list `l` names and for
the bits that events change; memory's bytes read the same; plain data are equal. -/
def Part.same (l : List Part) (p : Part) (d e : Dev) : Prop :=
  match p with
  | .reg _ => True
  | .regs b => ∀ a i, b.holds a → .reg a ∉ l → ¬ evBit a i → (e.reg a).getLsbD i = (d.reg a).getLsbD i
  | .act => e.act = d.act ∧ e.act1 = d.act1 ∧ e.act2 = d.act2
  | .pairs => e.latch = d.latch ∧ e.hbuf = d.hbuf
  | .mem => ∀ a, e.byteAt a = d.byteAt a
  | .host => e.host = d.host
  | .bad => e.hostBad = d.hostBad
  | .msix => e.msix = d.msix
  | .resp => e.resp = d.resp
  | .fresh => e.fresh = d.fresh
  | .time => e.now = d.now
  | .lnd => e.lnd = d.lnd
  | .eng => e.eng = d.eng
  | .ring => ∀ r, r < 41 → r ≠ 20 → e.ringAt r = d.ringAt r
  | .evRing => e.ringAt 20 = d.ringAt 20
  | .asn => e.asnCopy = d.asnCopy
  | .evc => e.evc = d.evc
  | .porch => e.porch = d.porch ∧ e.porchSeq = d.porchSeq
  | .xlt => e.xlt = d.xlt
  | .ecc => e.ecc = d.ecc
  | .fab => e.fab = d.fab
  | .tsk => e.tsk = d.tsk
  | .hall => e.hall = d.hall
  | .gang => e.gang = d.gang
  | .tbs => e.tbs = d.tbs
  | .mac => e.mac = d.mac
  | .fe => e.fe = d.fe
  | .lortis => e.lortis = d.lortis
  | .sap => e.sap = d.sap
  | .mix => e.mix = d.mix
  | .och => e.och = d.och
  | .dmc => e.dmc = d.dmc
  | .pch => e.pch = d.pch
  | .clk => e.clk = d.clk

/-- From `d` to `e` nothing changes but the parts of `l`. -/
def Only (l : List Part) (d e : Dev) : Prop := ∀ p, p ∉ l → p.same l d e

/-- The parts, besides the bits of `evBit`, that the events of a command can change: EVC, the porch's copy, the MSI-X messages, and for
the record in the event ring that ring, host memory, the translations cached for it and the next free value. -/
def events : List Part := [.evc, .porch, .msix, .host, .fresh, .evRing, .xlt]

/-- The command completes: it answers a next state with the same commands waiting, in which nothing changed but the parts of `l` and
what the events at its end can change, and of which `P` holds. -/
def Makes (c : Instr) (s : State) (l : List Part) (P : Dev → Prop) : Prop :=
  ∃ t, exec c s = .next t ∧ t.pending = s.pending ∧ Only (l ++ events) s.dev t.dev ∧ P t.dev

/-! ### Register accesses -/

/-- The fabric serves a 4 B access of master `m` to the register space: it has a clock and is not held in reset, and the register bus is
not isolated (R491, R500, R507). -/
def Served (d : Dev) (m : Master) : Prop :=
  m.num < 28 ∧ d.chipRuns = true ∧ d.masterHeld m.num = false ∧ d.isolated 33 = false

/-- A block of whose registers only a privileged master or PE may write (R514, R558). -/
def Blk.guarded (b : Blk) : Bool := b == .rst || b == .clk || b == .pch

/-- The registers, by block and offset in the block, with an access of their own beside R5 to R8: those that a row of the command table
names, those that R97, R211, R423, R539, R560, R571, R572 or R575 give a rule, and those that show what is kept elsewhere. -/
def Found.special (f : Found) : Bool :=
  let o := f.spec.off
  match f.pl.blk with
  | .lnd => [0x0, 0x18, 0x20].contains o
  | .clk => o == 0
  | .rst => o == 0 || (decide (0x10 ≤ o) && decide (o < 0x28))
  | .evc => [0x4, 0xC, 0x400].contains o
  | .pmc => [0x8, 0xC, 0x1000, 0x1004].contains o
  | .tsk => [0x0, 0x8, 0xC, 0x10, 0x50, 0x60].contains o
  | .hif => [0x20, 0x80C, 0x800C].contains o
  | .xlt => [0x14, 0x108].contains o
  | .ecc => [0x0, 0x24, 0x38].contains o
  | .dmc => [0x0, 0x80].contains o || decide (0x100 ≤ o)
  | .fab => [0x10, 0x100].contains o
  | .mac => [0x0, 0x403C].contains o
  | .tb => [0x100, 0x104, 0x10C, 0x118, 0x128, 0x20C, 0x228, 0x238, 0x400, 0x488].contains o
  | .fe => o == 0
  | .sap => o == 0
  | .mix => [0x0, 0x14].contains o || (decide (0x200 ≤ o) && decide (o < 0x1000)) || o == 0x4000
  | .pch => [0x0, 0x30, 0x34, 0xA4, 0xC4, 0xD8].contains o
  | .gang => false
  | .och => [0x4, 0x104, 0x108, 0x2000, 0x3000].contains o
  | .hall => o == 0x114
  | .eng => true

/-- Whether a field takes a write now: always, or while its block is stopped, or while its bank is not armed (R8, R41). -/
def Takes (d : Dev) (f : Found) (g : FSpec) : Bool :=
  match g.eff with
  | .now => true
  | .stopped => d.fieldStopped f g
  | .landing _ _ _ =>
    match g.bank f.i f.pl.u with
    | some b => !d.armed b
    | none => true

/-- Master `m` writes register `f` by its fields' rules: the register is none of those with a rule of their own, the master has the
privilege that its block asks for, and every field takes the write. -/
def Writes (d : Dev) (m : Master) (f : Found) : Prop :=
  f.special = false ∧ (f.pl.blk.guarded = true → m.priv = true) ∧ ∀ g ∈ f.spec.fields, Takes d f g = true

/-- What the fields of the register at `a` hold after the word `v` is written over `d` (R7). -/
def Holds (d e : Dev) (f : Found) (a : Nat) (v : Word) : Prop :=
  ∀ g ∈ f.spec.fields, bitsOf (e.reg a).toNat g.lo g.w = g.acc.written g.w (bitsOf (d.reg a).toNat g.lo g.w) (bitsOf v.toNat g.lo g.w)

/-- What the register at `a` holds after the word `v` is written over `d` (R7). -/
def Wrote (d e : Dev) (a : Nat) (v : Word) : Prop := ∀ f, regAt a = some f → Holds d e f a v

/-- Every field of the register at `a` takes a write now (R8, R41). -/
def Open (d : Dev) (a : Nat) : Prop := ∀ f, regAt a = some f → ∀ g ∈ f.spec.fields, Takes d f g = true

end Sys2Proof.Machine
end

