-- ==== Sys2Proof/ClaimsEngine.lean ====
section
/-! DEFINITION. Sys2Proof/ClaimsEngine.lean: the terms of the statements about engine instructions: when an engine or PE issues one, and what a result changes. -/
namespace Sys2Proof

/-- The field X[lo + n − 1 : lo]. -/
def SlotWord.xs (w : SlotWord) (lo n : Nat) : Nat := w.x.toNat / 2 ^ lo % 2 ^ n

/-- The signed immediate X[23:0]. -/
def SlotWord.simm (w : SlotWord) : BitVec 64 := (w.x.setWidth 24).signExtend 64

/-- X[i] to the end is 0. -/
def SlotWord.below (w : SlotWord) (i : Nat) : Prop := w.x.toNat < 2 ^ i

end Sys2Proof

namespace Sys2Proof.Machine
open Dev

/-! ### Issue -/

/-- Context `c` of engine `k` runs and may issue: the engine is ACTIVE, no far load is outstanding, no halt is due before a new bundle,
and no register has bad parity (R91, R95, R97, R124). -/
def Runs (d : Dev) (k c : Nat) : Prop :=
  d.chipRuns = true ∧ d.runCtx k = c ∧ d.engState k = engActive ∧ (d.ctxAt k c).mode = .running ∧ (d.ctxAt k c).farLoad = none
    ∧ ((d.engAt k).haltReq = false ∨ (d.ctxAt k c).rep.isSome = true ∨ (d.ctxAt k c).bundle.isSome = true) ∧ (d.ctxAt k c).bad = []

/-- The bundle at room offset `pc` can be fetched: with the cache on its line is resident and good, or the words of the room that the
fetch reads are good (R82, R83, R91). -/
def Fetches (d : Dev) (k pc : Nat) : Prop :=
  (d.on (ENG_CFG.ICACHE_EN k) = true ∧ ((pc / 64 ∈ (d.engAt k).icache ∧ pc / 64 ∉ (d.engAt k).icBad)
      ∨ (pc / 64 ∉ (d.engAt k).icache ∧ ∀ u ∈ unitsOf (roomAddr k (64 * (pc / 64))) 64, unitState d.ecc u = .clean)))
  ∨ (d.on (ENG_CFG.ICACHE_EN k) = false ∧ ∀ u ∈ unitsOf (roomAddr k pc) 16, unitState d.ecc u = .clean)

/-- Slot A of the next bundle can issue: slot A is what a bundle begins with. -/
def OpensA (d : Dev) (k c : Nat) : Prop :=
  Runs d k c ∧ (d.ctxAt k c).bundle = none ∧ Fetches d k (d.ctxAt k c).r.pc.toNat

/-- Slot B of a bundle can issue: after slot A of the same bundle, or of a new bundle whose slot A is NOP. -/
def OpensB (d : Dev) (k c : Nat) : Prop :=
  Runs d k c ∧ (∀ b, (d.ctxAt k c).bundle = some b → b.bad = [])
    ∧ ((d.ctxAt k c).bundle = none → Fetches d k (d.ctxAt k c).r.pc.toNat)

/-- The registers before the bundle, which both its slots read (R109). -/
def Ctx.before (x : Ctx) : RegFile :=
  match x.bundle with
  | some b => b.old
  | none => x.r

/-- Slot A of the bundle, if it has issued, did not write register `ix` of file `file` (R109). -/
def Ctx.unwritten (x : Ctx) (file ix : Nat) : Prop :=
  ∀ b, x.bundle = some b → ∀ q ∈ b.dst, ¬(q.file = file ∧ q.ix = ix ∧ ¬(file = 0 ∧ ix = 0))

/-- Repeats of the bundle are still to come after this one (R145). -/
def Ctx.again (x : Ctx) : Bool :=
  match x.rep with
  | some n => decide (2 ≤ n)
  | none => false

/-- The bundle that comes next lies in the room (R142). -/
def Ctx.goesOn (x : Ctx) : Prop := x.again = true ∨ x.r.pc.toNat + 16 < 0x800000

/-- What an instruction of engine `k`, context `c`, leaves: every other engine and the other context, and of the engine itself the
state that an instruction does not change. -/
def Spares (d e : Dev) (k c : Nat) : Prop :=
  (∀ j : EngIx, j.val ≠ k → e.engAt j = d.engAt j) ∧ e.ctxAt k (other c) = d.ctxAt k (other c) ∧ (e.engAt k).run = (d.engAt k).run
    ∧ (e.engAt k).haltReq = (d.engAt k).haltReq ∧ (e.engAt k).recov = (d.engAt k).recov

/-- The context after slot A of its bundle: the registers are `r`, and the bundle is open, with those before it. -/
def AfterA (x y : Ctx) : Prop :=
  y = { x with r := y.r, bundle := y.bundle, bad := y.bad } ∧ (∀ b, y.bundle = some b → b.old = x.r) ∧ y.bundle.isSome = true

/-- The context after a bundle that goes on with the next one, or with itself while repeats are left: one cycle is counted. -/
def AfterB (x y : Ctx) : Prop :=
  y = { x with r := y.r, bundle := none, bad := y.bad, cycles := min (x.cycles + 1) 0xFFFFFFFF, rep := if x.again then x.rep.map (· - 1) else none }
    ∧ y.r.pc = if x.again then x.r.pc else x.r.pc + 16

/-- The registers with the PC of others. -/
def RegFile.withPc (r : RegFile) (pc : BitVec 23) : RegFile := { r with pc := pc }

/-! ### Results -/

/-- A scalar result: sd takes `v`, where s0 discards it; nothing else changes (R62). -/
def SetsS (sd : Nat) (v : BitVec 64) (r t : RegFile) : Prop :=
  t = { r with s := t.s } ∧ (sd ≠ 0 → t.getS sd = v) ∧ ∀ j : Fin 32, j.val = 0 ∨ j.val ≠ sd → t.getS j = r.getS j

/-- A circular pointer is written. -/
def SetsC (cd : Nat) (v : BitVec 64) (r t : RegFile) : Prop :=
  t = { r with c := t.c } ∧ t.getC cd = v ∧ ∀ j : Fin 8, j.val ≠ cd → t.getC j = r.getC j

/-- A lane mask is written. -/
def SetsK (kd : Nat) (v : BitVec 32) (r t : RegFile) : Prop :=
  t = { r with k := t.k } ∧ t.getK kd = v ∧ ∀ j : Fin 8, j.val ≠ kd → t.getK j = r.getK j

/-- A vector result: each lane that is `on` takes its value, and its OVF bit is set where the value saturated; nothing else changes (R108,
R113). -/
def SetsV (vd : Nat) (on : Nat → Bool) (f : Nat → BitVec 32 × Bool) (r t : RegFile) : Prop :=
  t = { r with v := t.v, ovf := t.ovf }
    ∧ (∀ l : Fin 32, lane (t.getV vd) l = (if on l then (f l).1 else lane (r.getV vd) l)
      ∧ t.ovf.getLsbD l = (r.ovf.getLsbD l || (on l && (f l).2)))
    ∧ ∀ j : Fin 32, j.val ≠ vd → t.getV j = r.getV j

/-- An accumulator result: each lane that is `on` takes its value, and its WRAP and LOST bits are set where the result says so; nothing else
changes (R67, R69, R108). -/
def SetsA (ad : Nat) (on : Nat → Bool) (f : Nat → AccRes) (r t : RegFile) : Prop :=
  t = { r with a := t.a, wrap := t.wrap, lost := t.lost }
    ∧ (∀ l : Fin 32, lane (t.getA ad) l = (if on l then (f l).l else lane (r.getA ad) l)
      ∧ t.wrap.getLsbD l = (r.wrap.getLsbD l || (on l && (f l).wrap))
      ∧ t.lost.getLsbD l = (r.lost.getLsbD l || (on l && (f l).lost)))
    ∧ ∀ j : Fin 8, j.val ≠ ad → t.getA j = r.getA j

/-- Saturation to the signed range of 32 bits, and whether it happened. -/
def clip (z : Int) : BitVec 32 × Bool :=
  (BitVec.ofInt 32 (max (-2 ^ 31) (min (2 ^ 31 - 1) z)), decide (z < -2 ^ 31 ∨ 2 ^ 31 ≤ z))

/-- `q` is `z / 2^s` rounded to the nearest integer, a tie to the even one (R71). -/
def Nearest (z : Int) (s : Nat) (q : Int) : Prop :=
  (2 * (z - q * 2 ^ s)).natAbs ≤ 2 ^ s ∧ ((2 * (z - q * 2 ^ s)).natAbs = 2 ^ s → q % 2 = 0)

/-- The addition of `z` to a lane, with the lane after it and whether it sets WRAP and LOST (R67, R69): a lost lane ignores it; else the
sum modulo 2^80 and the count of wraps, unless that count would leave −7 to 7. -/
def Adds (l : Acc84) (z : Int) (q : AccRes) : Prop :=
  let k := (l.v.toInt + z + 2 ^ 79) / 2 ^ 80
  if l.wc = 8 then q = ⟨l, false, false⟩
  else if l.wc.toInt + k < -7 ∨ 7 < l.wc.toInt + k then
    q.l.wc = 8 ∧ q.l.v = (if 7 < l.wc.toInt + k then 1 else 0) ∧ q.wrap = true ∧ q.lost = true
  else q.l.v.toInt = l.v.toInt + z - k * 2 ^ 80 ∧ q.l.wc.toInt = l.wc.toInt + k ∧ q.wrap = decide (k ≠ 0) ∧ q.lost = false

/-- The narrowing of a lane with shift `sh` to `w` bits (R70): the first row that applies. -/
def Narrows (l : Acc84) (sh w : Nat) (q : NarRes) : Prop :=
  let hi : Int := 2 ^ (w - 1) - 1
  let lo : Int := -2 ^ (w - 1)
  let r := roundShift l.v.toInt sh
  if l.wc = 8 then q = ⟨if l.v.getLsbD 0 then hi else lo, true, true⟩
  else if 0 < l.wc.toInt then q = ⟨hi, true, false⟩
  else if l.wc.toInt < 0 then q = ⟨lo, true, false⟩
  else if lo ≤ r ∧ r ≤ hi then q = ⟨r, false, false⟩
  else q = ⟨if r < 0 then lo else hi, true, false⟩

/-- The lanes that the instruction enables (R108). -/
def lanesOn (r : RegFile) (w : SlotWord) (l : Nat) : Bool := w.k == 0 || (r.getK w.k.toNat).getLsbD l

/-- The lanes of the complex elements that the instruction enables: those of which both lanes are (R116). -/
def pairsOn (r : RegFile) (w : SlotWord) (l : Nat) : Bool := lanesOn r w (2 * (l / 2)) && lanesOn r w (2 * (l / 2) + 1)

/-- Element `j` of a vector of complex values (R116). -/
def cx (v : VReg) (j : Nat) : Int × Int := ((lane v (2 * j)).toInt, (lane v (2 * j + 1)).toInt)

/-- A complex product; with `conj`, by the conjugate of `b` (R116). -/
def cxMul (conj : Bool) (a b : Int × Int) : Int × Int :=
  let bi := if conj then -b.2 else b.2
  (a.1 * b.1 - a.2 * bi, a.1 * bi + a.2 * b.1)

/-- The part of a complex element that lane `l` holds. -/
def cxPart (z : Int × Int) (l : Nat) : Int := if l % 2 = 0 then z.1 else z.2

/-- `z` times j, or times −j for the inverse transform. -/
def cxRot (inv : Bool) (z : Int × Int) : Int × Int := if inv then (z.2, -z.1) else (-z.2, z.1)

/-- Output `i` of the radix-4 butterfly (R117). -/
def bfly (inv : Bool) (x : Nat → Int × Int) (i : Nat) : Int × Int :=
  let a := cxRot inv (x 1)
  let b := cxRot inv (x 3)
  match i with
  | 0 => ((x 0).1 + (x 1).1 + (x 2).1 + (x 3).1, (x 0).2 + (x 1).2 + (x 2).2 + (x 3).2)
  | 1 => ((x 0).1 - a.1 - (x 2).1 + b.1, (x 0).2 - a.2 - (x 2).2 + b.2)
  | 2 => ((x 0).1 - (x 1).1 + (x 2).1 - (x 3).1, (x 0).2 - (x 1).2 + (x 2).2 - (x 3).2)
  | _ => ((x 0).1 + a.1 - (x 2).1 - b.1, (x 0).2 + a.2 - (x 2).2 - b.2)

/-- An instruction's constructor. -/
abbrev Op := Core → SlotWord → Instr

/-- The instructions that slot A alone can hold (R105). -/
def slotAOps : List Op :=
  [Instr.vadd, Instr.vadds, Instr.vsub, Instr.vsubs, Instr.vmulq, Instr.vand, Instr.vor, Instr.vxor, Instr.vandn, Instr.vshl,
    Instr.vshr, Instr.vsra, Instr.vshls, Instr.vmin, Instr.vmax, Instr.vabs, Instr.vneg, Instr.vsat, Instr.vcvt, Instr.vsel,
    Instr.vcmp, Instr.vmov, Instr.vbcast, Instr.vswz, Instr.vmac, Instr.vmac2, Instr.vcmac, Instr.vcmul, Instr.bfly4, Instr.vacs,
    Instr.aclr, Instr.amov, Instr.aadd, Instr.aaddv, Instr.narw]

/-- The instructions that slot B alone can hold (R105). -/
def slotBOps : List Op :=
  [Instr.add, Instr.sub, Instr.and, Instr.or, Instr.xor, Instr.sll, Instr.srl, Instr.sra, Instr.mul, Instr.mulh, Instr.slt,
    Instr.sltu, Instr.seq, Instr.addi, Instr.li, Instr.shi, Instr.cset, Instr.cget, Instr.cadd, Instr.kset, Instr.kget,
    Instr.vext, Instr.vins, Instr.vcls, Instr.dget, Instr.dclr, Instr.ld, Instr.st, Instr.vld, Instr.vst, Instr.pstepLoad,
    Instr.pstepWait, Instr.gather, Instr.hsend, Instr.tapmove, Instr.smac, Instr.nars, Instr.sdma, Instr.swait, Instr.fenceRoom,
    Instr.fenceStream, Instr.barrier, Instr.br, Instr.bcond, Instr.jal, Instr.jr, Instr.rep, Instr.waitwork, Instr.tdone,
    Instr.getp, Instr.mflg, Instr.fclr, Instr.icinv]

/-- The slot-B instructions that PE does not implement (R148). -/
def notOnPe : List Op :=
  [Instr.cset, Instr.cget, Instr.cadd, Instr.kset, Instr.kget, Instr.vext, Instr.vins, Instr.vcls, Instr.dget, Instr.dclr,
    Instr.vld, Instr.vst, Instr.pstepLoad, Instr.pstepWait, Instr.gather, Instr.hsend, Instr.sdma, Instr.swait, Instr.fenceRoom,
    Instr.fenceStream, Instr.barrier, Instr.waitwork, Instr.tdone, Instr.getp, Instr.mflg, Instr.fclr, Instr.icinv]

/-! ### Instructions on a render engine -/

/-- Slot-A instruction `op` completes where its encoding is `legal`, and its registers after it stand to those before it as `res`
says. -/
def OpA (op : Op) (legal : SlotWord → Prop) (res : SlotWord → RegFile → RegFile → Prop) : Prop :=
  ∀ (s : State) (k : EngIx) (c : CtxIx) (w : SlotWord), OpensA s.dev k c → w.slot = .a → legal w →
    Makes (op (.re k) w) s [.eng] (fun e =>
      Spares s.dev e k c ∧ (e.engAt k).hallIn = (s.dev.engAt k).hallIn ∧ AfterA (s.dev.ctxAt k c) (e.ctxAt k c)
      ∧ res w (s.dev.ctxAt k c).r (e.ctxAt k c).r)

/-- Slot-B instruction `op` on registers completes where its encoding is `legal`, slot A of its bundle did not write the destination
(`file`, `ix`), and the next bundle is in the room; `res` relates the registers before the bundle, those when it issues and those after it,
the PC apart. -/
def OpB (op : Op) (legal : SlotWord → Prop) (dst : SlotWord → List (Nat × Nat))
    (res : SlotWord → RegFile → RegFile → RegFile → Prop) : Prop :=
  ∀ (s : State) (k : EngIx) (c : CtxIx) (w : SlotWord), OpensB s.dev k c → w.slot = .b → legal w →
      (∀ q ∈ dst w, (s.dev.ctxAt k c).unwritten q.1 q.2) → (s.dev.ctxAt k c).goesOn →
    Makes (op (.re k) w) s [.eng, .reg (Adr.ENG_CYCLES_LO k), .reg (Adr.ENG_CYCLES_LO k + 4)] (fun e =>
      Spares s.dev e k c ∧ (e.engAt k).hallIn = (s.dev.engAt k).hallIn ∧ AfterB (s.dev.ctxAt k c) (e.ctxAt k c)
      ∧ res w (s.dev.ctxAt k c).before (s.dev.ctxAt k c).r ((e.ctxAt k c).r.withPc (s.dev.ctxAt k c).r.pc))

/-! ### Instructions that reach further than the registers -/

/-- The room words that hold `n` bytes from offset `a` are good. -/
def RoomGood (d : Dev) (k a n : Nat) : Prop := ∀ u ∈ unitsOf (roomAddr k a) n, unitState d.ecc u = .clean

/-- The 32-bit word at room offset `a`. -/
def roomWord (d : Dev) (k a : Nat) : BitVec 32 := BitVec.ofNat 32 (ofBytes (d.bytesAt (roomAddr k a) 4))

/-- The context after a bundle whose branch is taken to `pc`: two cycles are counted (R142). -/
def AfterJump (x y : Ctx) (pc : Int) : Prop :=
  y = { x with r := y.r, bundle := none, bad := y.bad, cycles := min (x.cycles + 2) 0xFFFFFFFF } ∧ (y.r.pc.toNat : Int) = pc

/-- The context after a bundle that ends its task: the PC stays (R143). -/
def AfterStay (x y : Ctx) : Prop :=
  y = { x with bundle := none, cycles := min (x.cycles + 1) 0xFFFFFFFF, mode := .ending, nextAccept := y.nextAccept, hallWait := y.hallWait }

/-- The address of the 64-bit sum sa + sext(X[23:0]) (R121). -/
def sumAddr (r : RegFile) (i : Nat) (w : SlotWord) : Nat := (r.getS i + w.simm).toNat

/-- What one pair of a GATHER contributes: the product, whether its interpolated value saturated, and whether the stepper clamped its
offset (R131, R164 to R168). -/
structure Tap where
  p : Int
  sat : Bool
  clamped : Bool
  deriving DecidableEq, Repr

/-- Pair `j` of a GATHER of a task on engine `k`, whose registers are `r` and whose context is `x`; `none` for a pair that is masked, or
whose object is disabled or shed (R131, R164 to R168, R233). -/
def tapOf (d : Dev) (k : Nat) (x : Ctx) (r : RegFile) (w : SlotWord) (j : Nat) : Option Tap :=
  let sum := w.x.getLsbD 16
  let cw := r.getC (f3 w)
  let len := 2 ^ cLen cw
  let e := vat x.pbuf (w.xs 0 8 + j)
  let obj := if sum then e.tag.toNat % 64 else (cBase cw - 4096 * d.blockGet x.block (HALL_SLOT_WIN_BASE.BASE x.slot)) / len
  if lanesOn r w (if sum then j else w.xs 11 5 + j) = true ∧ d.blockGet x.block (HALL_OBJ.EN (64 * x.slot + obj)) = 1
      ∧ x.shedMask.getLsbD obj = false then
    let n : Int := ((r.getS (f2 w)).toNat % 4096 : Nat)
    let g := e.g.toInt + n * e.gs.toInt
    let o := (e.dl.toNat : Int) * 2 ^ 16 + n * e.ds.toInt - 2 ^ 28 * ((d.blockGet x.block (HALL_OBJ.BULK (64 * x.slot + obj)) : Nat) : Int)
    let o' := min (max o 0) (2 ^ 28 * ((len / 4 - d.perLen - 8 : Nat) : Int))
    let at_ := fun (i : Int) => cBase cw + (if sum then obj * len else 0) + (((cIndex cw : Int) + 4 * (i - o' / 2 ^ 28)) % (len : Int)).toNat
    let frac := o' % 2 ^ 28
    let eight := d.blockGet x.block (HALL_SLOT_CFG.INTERP x.slot) = 1
    let row := 4096 * d.blockGet x.block (HALL_SLOT_INTERP_BASE.BASE x.slot) + 32 * (frac / 2 ^ 18).toNat
    let xs := if eight then (List.range 8).map (fun (i : Nat) => roomWord d k (at_ (-1 - (i : Int))))
      else (List.range 4).map (fun (i : Nat) => roomWord d k (at_ (-3 - (i : Int))))
    let cs := if eight then (List.range 8).map (fun i => (roomWord d k ((row + 4 * i) % 0x800000)).toInt) else lagrange (frac / 2 ^ 12)
    let v := roundShift ((cs.zip xs).foldl (fun a q => a + q.1 * q.2.toInt) 0) 30
    some ⟨(clip v).1.toInt * (clip g).1.toInt, (clip v).2, decide (o' ≠ o)⟩
  else none

/-! ### Instructions on PE -/

/-- PE runs and can fetch its bundle, with the next one in its memory (R145, R148, R149). PE has no flag masks. -/
def PeRuns (d : Dev) : Prop :=
  d.pch.up = true ∧ d.on PCH_STATUS.SAFE_RUN = true ∧ d.pch.regs.pc.toNat + 16 < 0x80000
    ∧ (∀ u ∈ unitsOf (porchBase + d.pch.regs.pc.toNat) 16, unitState d.ecc u = .clean)
    ∧ d.pch.regs.ovf = 0 ∧ d.pch.regs.lost = 0 ∧ d.pch.regs.wrap = 0

/-- The bundle that PE repeats has repeats left after this one (R145). -/
def peAgain (d : Dev) : Bool :=
  match d.pch.rep with
  | some n => decide (2 ≤ n)
  | none => false

/-- What PE leaves when it goes on to the next bundle, or repeats this one. -/
def AfterPe (d e : Dev) : Prop :=
  e.pch = { d.pch with regs := e.pch.regs, rep := if peAgain d then d.pch.rep.map (· - 1) else none }
    ∧ e.pch.regs.pc = if peAgain d then d.pch.regs.pc else d.pch.regs.pc + 16

/-- Instruction `op` on PE's registers completes where its encoding is `legal` on PE; `res` relates the registers before it to those after
it, the PC apart. -/
def OpPe (op : Op) (legal : SlotWord → Prop) (res : SlotWord → RegFile → RegFile → Prop) : Prop :=
  ∀ (s : State) (w : SlotWord), PeRuns s.dev → w.slot = .b → legal w →
    Makes (op .pe w) s [.pch] (fun e =>
      AfterPe s.dev e ∧ res w s.dev.pch.regs (e.pch.regs.withPc s.dev.pch.regs.pc))

end Sys2Proof.Machine
end

