-- ==== Sys2Proof/ClaimsHost.lean ====
section
/-! DEFINITION. Sys2Proof/ClaimsHost.lean: the terms of the statements about the host: commands in the journal, their completion, translated addresses, host memory. -/
namespace Sys2Proof.Machine
open Dev

/-- A little-endian field of `n` bytes at byte `i`. -/
def field (l : List Byte) (i n : Nat) : Nat := ofBytes (slice l i n)

/-- Bytes `i` to `i + n − 1` are 0. -/
def Zeros (l : List Byte) (i n : Nat) : Prop := ∀ j, j < n → l.getD (i + j) 0 = 0

/-- A command descriptor with neither ARM, reserved FLAGS, payload nor TARGET (R276, R278). -/
def Plain (l : List Byte) : Prop := (field l 2 2 = 0 ∨ field l 2 2 = 2) ∧ field l 4 4 = 0 ∧ field l 16 8 = 0

/-- One byte of host memory. -/
def Dev.hostCell (d : Dev) (a : Nat) : Byte := sget Dev.hostUnwritten d.host a

/-- Host memory holds `l` from `p` on, and the rest as it was. -/
def HostPut (d e : Dev) (p : Nat) (l : List Byte) : Prop :=
  ∀ a, e.hostCell a = if p ≤ a ∧ a < p + l.length then l.getD (a - p) 0 else d.hostCell a

/-- The event ring does not run: what EVC records stays in EVC. -/
def Quiet (d : Dev) : Prop := d.ringState 20 ≠ 1

/-- Internal memory reads as it was outside the ranges, given by first address and length. -/
def MemOnly (l : List (Nat × Nat)) (d e : Dev) : Prop :=
  ∀ a, (∀ x ∈ l, a < x.1 ∨ x.1 + x.2 ≤ a) → e.byteAt a = d.byteAt a

/-- `q` is the oldest command of ring `r` that is not complete, and the first copy of the journal holds its entries, the bytes `l`
(R285, R287): both copies lie in the pantry, and what is read of them is good. -/
def Heads (d : Dev) (r : Nat) (q : JEntry) (l : List Byte) : Prop :=
  (d.ringAt r).jrnl.find? (fun x => !x.done) = some q ∧ l = (List.range q.n).flatMap (fun i => d.bytesAt (d.jrnlAddr false r (q.unit + i)) 64)
    ∧ (∀ i, i < q.n + 1 → inPantry (d.jrnlAddr false r (q.unit + i)) 64 = true ∧ inPantry (d.jrnlAddr true r (q.unit + i)) 64 = true)
    ∧ ∀ i, i < q.n → ∀ u ∈ unitsOf (d.jrnlAddr false r (q.unit + i)) 64, unitState d.ecc u = .clean

/-- The entry of ring `r` at the unit of `q` is now `q`, and its state unit in both copies holds ASN, progress and a completion record,
32 bytes, or zeros (R285, R288). -/
def Journals (d e : Dev) (r : Nat) (q : JEntry) (rec : List Byte) : Prop :=
  (e.ringAt r).jrnl = (d.ringAt r).jrnl.map (fun x => if x.unit = q.unit then q else x)
    ∧ ∀ c : Bool, e.bytesAt (d.jrnlAddr c r (q.unit + q.n)) 64
        = bytesOf 8 q.asn ++ bytesOf 8 q.prog ++ rec ++ List.replicate (48 - rec.length) 0

/-- The two state units of a command, as ranges of memory. -/
def Dev.stateOf (d : Dev) (r : Nat) (q : JEntry) : List (Nat × Nat) :=
  [(d.jrnlAddr false r (q.unit + q.n), 64), (d.jrnlAddr true r (q.unit + q.n), 64)]

/-- A completion record without its PHASE (R282). -/
def record (r : Nat) (q : JEntry) (status result : Nat) : List Byte :=
  bytesOf 8 q.asn ++ bytesOf 8 q.tag ++ bytesOf 8 result ++ bytesOf 2 status ++ [BitVec.ofNat 8 r] ++ List.replicate 5 0

/-- The porch's copies of the ASNs of the rings but `r` are as they were (R288). -/
def OtherCopies (r : Nat) (d e : Dev) : Prop := ∀ k, k < 41 → k ≠ r → vat e.asnCopy k = vat d.asnCopy k

/-- LAST_COMPLETED of ring `r` and the porch's copy of it hold `a`; no other ring's copy changes (R288). -/
def LastCompleted (d e : Dev) (r a : Nat) : Prop :=
  e.get64 (Adr.HIF_RING_LAST_COMPLETED_LO r) = a % 2 ^ 64 ∧ vat e.asnCopy r = ((vat d.asnCopy r).1, a)
    ∧ OtherCopies r d e

/-- Ring `r`'s command `q` is complete with STATUS and RESULT: record and watermark together (R288). -/
def Completed (d e : Dev) (r : Nat) (q : JEntry) (status result : Nat) : Prop :=
  Journals d e r { q with done := true } (record r q status result) ∧ LastCompleted d e r q.asn

/-- The rings but those of `l` are as they were. -/
def OtherRings (l : List Nat) (d e : Dev) : Prop := ∀ k, k < 41 → k ∉ l → e.ringAt k = d.ringAt k

/-- Of the rings but those of `l`, the commands that `gone` names by ring and unit are no longer held, and nothing else changed. -/
def Retired (l : List Nat) (gone : List (Nat × Nat)) (d e : Dev) : Prop :=
  ∀ k, k < 41 → k ∉ l → e.ringAt k = { d.ringAt k with jrnl := (d.ringAt k).jrnl.filter (fun x => !gone.contains (k, x.unit)) }

/-- No ring but `r`, the event ring apart, changes, and of `r` only its accepted commands. -/
def OnlyJournal (d e : Dev) (r : Nat) : Prop :=
  e.ringAt r = { d.ringAt r with jrnl := (e.ringAt r).jrnl } ∧ OtherRings [r, 20] d e

/-- Context `c` maps an access at `a` to the host address `p`: it passes addresses below 2^48 through, or it has the page in its cache,
writable for a write (R299, R301). -/
def Maps (d : Dev) (c a : Nat) (write : Bool) (p : Nat) : Prop :=
  d.on (XLT_CTX_CFG.VALID c) = true
    ∧ ((d.on (XLT_CTX_CFG.MODE c) = true ∧ a < 2 ^ 48 ∧ p = a)
      ∨ (d.on (XLT_CTX_CFG.MODE c) = false ∧ a < 2 ^ 32
        ∧ ∃ x ∈ (d.xlt.cache.find? (fun x => x.ctx == c && x.page == a / 4096)).toList, (write = true → x.w = true) ∧ p = 4096 * x.frame + a % 4096))

/-- Ring `r`'s context maps an access at `a` to `p` (R299). -/
def RingMaps (d : Dev) (r a : Nat) (write : Bool) (p : Nat) : Prop := Maps d (d.get (HIF_RING_CFG.CTX r)) a write p

/-- A command of ring `r` moves data: the link is up and the ring runs (R272). -/
def Moves (d : Dev) (r : Nat) : Prop := d.on HIF_STATUS.LINK_UP = true ∧ d.ringState r = 1

/-- The pantry takes and gives `n` bytes at `a` for a transfer: they lie in it, outside the journal and the descriptor pool, the pantry
bank is not isolated, and no injection waits (R292, R449, R500). -/
def PantryOpen (d : Dev) (a n : Nat) : Prop :=
  a % 64 = 0 ∧ inPantry a n = true ∧ d.touchesJrnl a n = false ∧ (∀ t, t < 8 → d.isolated t = false) ∧ d.poolTouched a n = []
    ∧ d.on ECC_INJ_CTRL.ARM = false ∧ ∀ u ∈ unitsOf a n, unitState d.ecc u = .clean

/-- Master `m` reads the bytes `l` from address `a` on, and the reads change nothing. -/
def Reads (d : Dev) (m a : Nat) (l : List Byte) : Prop := d.busRead0 m a l.length = (d, l)

/-- Every ring that is not DISABLED is STOPPED in place: nothing half fetched and no suspended access is kept (R272). -/
def AllStopped (d e : Dev) : Prop :=
  ∀ r, r < 41 → e.ringState r = (if d.ringState r = 0 then 0 else 3) ∧ (d.ringState r ≠ 0 → e.on (HIF_RING_STATUS.DRAINING r) = false)
    ∧ e.ringAt r = if d.ringState r = 0 then d.ringAt r else { d.ringAt r with susp := none, fetched := [] }

/-- The parts that a stop of every ring changes. -/
def stopParts : List Part := .ring :: (List.range 41).map (fun r => .reg (Adr.HIF_RING_STATUS r))

end Sys2Proof.Machine
end

