-- ==== Sys2Proof/ClaimsSystem.lean ====
section
/-! DEFINITION. Sys2Proof/ClaimsSystem.lean: the terms of the statements about the porch, the clocks and resets, the serial ports and the management port. -/
namespace Sys2Proof.Machine
open Dev

/-- Master `m` can write PCH: a privileged master that the fabric serves, or PE, which reaches PCH without the chip domain (R505, R558). -/
def TakesPch (d : Dev) (m : Master) : Prop :=
  d.isolated 33 = false ∧ d.masterHeld m.num = false
    ∧ ((d.chipRuns = true ∧ m.num < 28 ∧ (m.priv = true ∨ m.num = 19)) ∨ (m.num = 19 ∧ d.pch.up = true))

/-- Master `m` can write RST and CLK (R514): a privileged master, or PE, that the fabric serves. -/
def TakesRst (d : Dev) (m : Master) : Prop := Served d m ∧ (m.priv = true ∨ m.num = 19)

/-- The word of a register in which field `f` is `x` and the rest is as it was. -/
def Dev.fieldSet (d : Dev) (f : Fld) (x : Nat) : Word := (d.set f x).reg f.a

/-- Port `p` is a port of the safe mix in force (R536). -/
def Dev.usesPort (d : Dev) (p : Nat) : Prop := p < 2 ∧ ∃ x ∈ d.pch.safe.toList, bitOf x.ports p = true

/-- What a force does to the owners and the crossfades of SAP0 and SAP1 (R543): a port of the safe mix that MIX owns returns to PE over
48 frames. -/
def TakesBack (d e : Dev) : Prop :=
  ∀ p, p < 2 →
    (d.usesPort p ∧ d.on (PCH_SAFE_OWN.ACT p) = true →
      e.reg (Adr.PCH_SAFE_OWN p) = (d.set (PCH_SAFE_OWN.ACT p) 0).reg (Adr.PCH_SAFE_OWN p)
        ∧ e.sapAt p = { d.sapAt p with fade := some ⟨false, 0, 48⟩ })
    ∧ (¬(d.usesPort p ∧ d.on (PCH_SAFE_OWN.ACT p) = true) →
      e.reg (Adr.PCH_SAFE_OWN p) = d.reg (Adr.PCH_SAFE_OWN p) ∧ e.sapAt p = d.sapAt p)

/-- Registers that a warm reset keeps hold what they held, but for those in `l`, and so do their active copies (R512). -/
def Keeps (l : List Nat) (d e : Dev) : Prop :=
  ∀ a, warmKeeps a = true →
    (a ∉ l → e.reg a = d.reg a)
      ∧ sget resetValue e.act a = sget resetValue d.act a ∧ sget resetValue e.act1 a = sget resetValue d.act1 a
      ∧ sget resetValue e.act2 a = sget resetValue d.act2 a

/-- The chip domain of `e` is in reset after `d` (R512): its registers, in every copy, and what its blocks hold are as after reset; of
memory porch SRAM and the DRAM in self-refresh are kept. -/
def InReset (d e : Dev) : Prop :=
  (∀ a, warmKeeps a = false → a ≠ Adr.CLK_STATUS →
      e.reg a = resetValue a ∧ sget resetValue e.act a = resetValue a ∧ sget resetValue e.act1 a = resetValue a
        ∧ sget resetValue e.act2 a = resetValue a)
    ∧ e.latch = [] ∧ e.hbuf = [] ∧ (∀ a, e.byteAt a = if d.warmMem a then d.byteAt a else unwritten a)
    ∧ e.lnd = ⟨false, none, 0, true, 0⟩ ∧ e.eng = .replicate 17 .reset ∧ e.ring = .replicate 41 .reset ∧ e.evc = ⟨[], [], 0, false, 0⟩
    ∧ e.xlt = ⟨[], []⟩ ∧ e.fab = ⟨[], []⟩ ∧ e.tsk = .reset ∧ e.hall = .reset ∧ e.gang = .reset ∧ e.tbs = .reset
    ∧ e.mac = .replicate 4 .reset ∧ e.lortis = [] ∧ e.mix = .reset ∧ e.och = .reset ∧ e.clk = .reset
    ∧ (∀ p, 2 ≤ p → p < 8 → e.sapAt p = .reset)
    ∧ (∀ c : ChanIx, e.dmcAt c = .resetWith (d.inSelfRefresh c)) ∧ e.dmc.slotEnd = none
    ∧ e.fe = { FeState.reset with conc := d.fe.conc.filter (fun x => decide (512 ≤ x.1) && decide (x.1 < 516)) }
    ∧ e.on (PCH_WD_CFG.EN 0) = false ∧ e.on (PCH_WD_CFG.EN 1) = false

/-- The parts that a reset of the chip domain changes. -/
def resetParts : List Part :=
  [.regs .lnd, .regs .clk, .regs .rst, .regs .evc, .regs .pmc, .regs .tsk, .regs .hif, .regs .xlt, .regs .ecc, .regs .dmc, .regs .fab,
    .regs .mac, .regs .tb, .regs .fe, .regs .sap, .regs .mix, .regs .pch, .regs .gang, .regs .och, .regs .hall, .regs .eng, .act, .pairs,
    .mem, .lnd, .eng, .ring, .ecc, .fab, .tsk, .hall, .gang, .tbs, .mac, .fe, .lortis, .sap, .mix, .och, .dmc, .pch, .clk]

/-- A warm reset of `cause` (R511, R512, R521, R543): the safe path is forced, the chip domain is in reset, and of what it keeps only
PCH_STATUS, the owners, RST_CAUSE and the watchdogs' enables change. -/
def WarmReset (d e : Dev) (cause : Nat) : Prop :=
  InReset d e ∧ TakesBack d e
    ∧ Keeps [Adr.PCH_STATUS, Adr.PCH_SAFE_OWN 0, Adr.PCH_SAFE_OWN 1, Adr.PCH_WD_CFG 0, Adr.PCH_WD_CFG 1, Adr.RST_CAUSE] d e
    ∧ e.reg Adr.PCH_STATUS = ((d.set PCH_STATUS.FORCED 1).set PCH_STATUS.CHIP 0).reg Adr.PCH_STATUS
    ∧ e.reg Adr.RST_CAUSE
        = ((d.set RST_CAUSE.CAUSE cause).set RST_CAUSE.WARM_CNT (min 0xFFFF (d.get RST_CAUSE.WARM_CNT + 1))).reg Adr.RST_CAUSE
    ∧ (e.reg Adr.CLK_STATUS).toNat = (d.reg Adr.CLK_STATUS).toNat % 256
    ∧ e.pch = { d.pch with warmDue := true }

/-- The chip domain of `e` is off after `d` with PCH_STATUS.CHIP at `chip` (R548, R549): it is in reset, the root PLL is stopped, and
WAKE_OUT is low. -/
def ChipOff (d e : Dev) : Prop :=
  InReset d e ∧ (e.reg Adr.CLK_STATUS).toNat = (d.set CLK_STATUS.ROOT_LOCK 0 |>.reg Adr.CLK_STATUS).toNat % 256 ∧ e.pch.wakeOut = false

/-- PE runs the tables `x` from the start (R529, R532, R537). -/
def Restarted (d e : Dev) (x : SafeMix) : Prop :=
  e.pch = { d.pch with safe := some x, pipe := [], lines := List.replicate x.outs.length [], pe := .none, regs := .zero, rep := none }
    ∧ e.on PCH_STATUS.SAFE_RUN = true

/-- The mix of output `o` of the tables `x` over the input words `ins` (R529): the sum of its terms, rounded at 2^27 and saturated. -/
def mixOf (x : SafeMix) (ins : List Int) (o : Nat) : Int :=
  max (-2 ^ 31) (min (2 ^ 31 - 1)
    (roundShift (((x.terms.filter (fun t => t.out = o)).map (fun t => t.gain * ins.getD t.inp 0)).sum) 27))

/-- The FIR of output `o` over its delayed mix (R529): 32 products, rounded at 2^31 and saturated. -/
def firOf (x : SafeMix) (o : Nat) (line : List Int) : Int :=
  max (-2 ^ 31) (min (2 ^ 31 - 1)
    (roundShift (((List.range 32).map (fun j => (x.firs.getD o []).getD j 0 * line.getD (x.delays.getD o 0 + j) 0)).sum) 31))

/-- Reset of master `m` (R502): its held requests and those that no DRAM channel has granted are withdrawn, and its outstanding IDs wait
to be discarded. -/
def Dropped (d e : Dev) (m : Nat) : Prop :=
  e.fab.held = d.fab.held.filter (fun q => q.master ≠ m)
    ∧ (∀ c : ChanIx, e.dmcAt c = { d.dmcAt c with wait := (d.dmcAt c).wait.filter (fun q => q.master ≠ m) })
    ∧ e.dmc.slotEnd = d.dmc.slotEnd
    ∧ e.fab.outs = (d.fab.outs.filter (fun x => !(x.master == m && x.ans.isNone
          && (List.range 8).any (fun c => x.target == 8 + c && (d.dmcAt c).wait.any (fun q => q.master == m && q.id == x.id))))).map
        (fun x => if x.master = m then { x with stale := true } else x)

/-- The count of watchdog channel `c` has run out (R545). -/
def Dev.ranOut (d : Dev) (c : Nat) : Prop :=
  d.on (PCH_WD_CFG.EN c) = true ∧ max 1 (d.get (PCH_WD_CFG.TIMEOUT_MS c)) ≤ (d.now - vat d.pch.wd c) / 800000

/-- The channel of the other core is enabled and not expired (R546). -/
def Dev.otherWatches (d : Dev) (c : Nat) : Prop :=
  d.on (PCH_WD_CFG.EN (1 - c)) = true ∧ (d.reg Adr.PCH_WD_STATUS).getLsbD (1 - c) = false

/-- `d` after `n` channels expired, the first of them `c` (R546): WDc_EXP, the count of expiries, and the channel's own count, which starts
again. -/
def Dev.expired (d : Dev) (c n : Nat) : Dev :=
  let d := d.set PCH_WD_STATUS.COUNT (min 255 (d.get PCH_WD_STATUS.COUNT + n))
  let d := d.setReg Adr.PCH_WD_STATUS (d.reg Adr.PCH_WD_STATUS ||| (if n = 2 then 3 else BitVec.ofNat 32 (2 ^ c)))
  d.setPch { d.pch with wd := vput d.pch.wd c d.now }

/-- FW_OWNER is `c`, and of HIF_STATUS no other bit changes but the one that the event ring's fault sets. -/
def OwnerIs (d e : Dev) (c : Nat) : Prop :=
  e.get HIF_STATUS.FW_OWNER = c
    ∧ ∀ i, i < 32 → i ≠ HIF_STATUS.FW_OWNER.lo → i ≠ HIF_STATUS.EVRING_FAULT.lo →
        (e.reg Adr.HIF_STATUS).getLsbD i = (d.reg Adr.HIF_STATUS).getLsbD i

/-- Core `c` expires while the other watches (R546): FW_OWNER leaves it, and with WD_CORE_RESET = 1 it is held in block reset, which clears
its channel's EN. -/
def CoreExpires (d e : Dev) (c : Nat) : Prop :=
  e.reg Adr.PCH_WD_STATUS = (d.expired c 1).reg Adr.PCH_WD_STATUS ∧ e.pch = (d.expired c 1).pch
    ∧ OwnerIs d e (if d.get HIF_STATUS.FW_OWNER = c then 1 - c else d.get HIF_STATUS.FW_OWNER)
    ∧ (d.on PCH_CFG.WD_CORE_RESET = false → e.clk = d.clk ∧ e.fab = d.fab ∧ e.dmc = d.dmc
        ∧ e.reg Adr.RST_SC = d.reg Adr.RST_SC ∧ e.reg Adr.RST_SC_BUSY = d.reg Adr.RST_SC_BUSY
        ∧ e.reg (Adr.PCH_WD_CFG c) = d.reg (Adr.PCH_WD_CFG c))
    ∧ (d.on PCH_CFG.WD_CORE_RESET = true → e.clk = { d.clk with wdHeld := d.clk.wdHeld ++ [c] } ∧ Dropped d e (17 + c)
        ∧ e.reg Adr.RST_SC = d.reg Adr.RST_SC ||| BitVec.ofNat 32 (2 ^ c) ∧ e.reg Adr.RST_SC_BUSY = d.reg Adr.RST_SC_BUSY ||| BitVec.ofNat 32 (2 ^ c)
        ∧ e.reg (Adr.PCH_WD_CFG c) = d.fieldSet (PCH_WD_CFG.EN c) 0)

/-- The parts that the expiry of channel `c` changes while the other watches. -/
def coreExpiry (c : Nat) : List Part :=
  [.reg Adr.PCH_WD_STATUS, .reg (Adr.PCH_WD_CFG c), .reg Adr.HIF_STATUS, .reg Adr.RST_SC, .reg Adr.RST_SC_BUSY, .pch, .clk, .fab, .dmc]

/-- What a sample of the sensors leaves in PCH but for a trip (R547). -/
def Sampled (d e : Dev) (t : List (BitVec 16)) : Prop :=
  ∀ i, i < 8 → e.get (PCH_TEMP.TEMP i) = (t.getD i 0).toNat
    ∧ (e.reg Adr.PCH_THERM_STATUS).getLsbD i = decide (16 * (min (d.get PCH_THERM_CFG.WARN) 110 : Nat) ≤ (t.getD i 0).toInt)
    ∧ (e.pch.hot.testBit i = decide (16 * 115 ≤ (t.getD i 0).toInt)) ∧ e.pch.hot < 256
    ∧ (∃ j, j < 8 ∧ e.get PCH_THERM_STATUS.MAX = (t.getD j 0).toNat ∧ (t.getD i 0).toInt ≤ (t.getD j 0).toInt)

/-- The sensors in `t` at or above 115 °C that were so at the last sample too (R548). -/
def twiceHot (d : Dev) (t : List (BitVec 16)) : List Nat :=
  (List.range 8).filter (fun i => decide (16 * 115 ≤ (t.getD i 0).toInt) && d.pch.hot.testBit i)

/-- One byte of the flash device (R557). -/
def Dev.flashCell (d : Dev) (a : Nat) : Byte := sget (fun _ => 0xFF) d.pch.flash a

/-- The pantry takes and gives `n` bytes at `a` for the flash controller: they lie in it, no bank is isolated, no task descriptor and no
injection is touched, and what is read of them is good (R449, R500, R557). -/
def FlashOpen (d : Dev) (a n : Nat) : Prop :=
  d.chipOn = true ∧ inPantry a n = true ∧ (∀ t, t < 8 → d.isolated t = false) ∧ d.poolTouched a n = [] ∧ d.on ECC_INJ_CTRL.ARM = false
    ∧ ∀ u ∈ unitsOf a n, unitState d.ecc u = .clean

/-- The fixed fields of a firmware image's header (R538). -/
def HeadGood (l : List Byte) : Prop := field l 0 4 = 0x57465754 ∧ field l 4 2 = 1 ∧ 1 ≤ field l 6 2 ∧ field l 6 2 ≤ 32

/-- The segments of an image of `n` bytes (R538): each a multiple of 64 bytes within the image and loaded into the lower half of the pantry,
apart from each other, ENTRY in one of them, at most 32 MiB in all. -/
def SegsGood (l : List Byte) (n : Nat) : Prop :=
  (∀ x ∈ segsOfImage l, x.len % 64 = 0 ∧ 0x10000000 ≤ x.load ∧ x.load + x.len ≤ 0x12000000 ∧ x.ofs + x.len ≤ n)
    ∧ (segsOfImage l).Pairwise (fun x y => x.load + x.len ≤ y.load ∨ y.load + y.len ≤ x.load)
    ∧ (∃ x ∈ segsOfImage l, x.load ≤ field l 16 8 ∧ field l 16 8 < x.load + x.len)
    ∧ ((segsOfImage l).map (fun x => x.len)).sum ≤ 0x2000000

/-- The segments of the image `l` stand at their LOAD_ADDR, and the rest of memory is as it was (R540). -/
def Loaded (d e : Dev) (l : List Byte) : Prop :=
  (∀ x ∈ segsOfImage l, e.bytesAt x.load x.len = slice l x.ofs x.len)
    ∧ MemOnly ((segsOfImage l).map (fun x => (x.load, x.len))) d e

/-- The boot ROM waits for the host again, with LAST_ERR `n` (R540). -/
def WaitsFor (d e : Dev) (n : Nat) : Prop :=
  e.reg Adr.PCH_BOOT_STATUS = d.fieldSet PCH_BOOT_STATUS.LAST_ERR n
    ∧ e.on HIF_CTRL.BAR4_EN = true ∧ e.on HIF_CTRL.BAR4_WR_EN = true
    ∧ ∀ i, i < 32 → i ≠ HIF_CTRL.BAR4_EN.lo → i ≠ HIF_CTRL.BAR4_WR_EN.lo → (e.reg Adr.HIF_CTRL).getLsbD i = (d.reg Adr.HIF_CTRL).getLsbD i

/-- Firmware runs (R540): CODE 1, SVN, the key's slot, and whether the image was not checked. -/
def Booted (d e : Dev) (l : List Byte) (key : Nat) (unsigned : Bool) : Prop :=
  e.get PCH_BOOT_STATUS.CODE = 1 ∧ e.get PCH_BOOT_STATUS.SVN = field l 8 4 % 256 ∧ e.get PCH_BOOT_STATUS.KEY = key
    ∧ e.on PCH_BOOT_STATUS.UNSIGNED = unsigned ∧ e.get PCH_BOOT_STATUS.LAST_ERR = d.get PCH_BOOT_STATUS.LAST_ERR
    ∧ e.reg Adr.PCH_STATUS = d.fieldSet PCH_STATUS.CHIP 2

/-! ### Block resets -/

/-- The word `v`, written to the reset register at `a` of `n` blocks, asserts the reset of block `i` and leaves the others as they are. -/
def AssertsOne (d : Dev) (a n : Nat) (v : Word) (i : Nat) : Prop :=
  i < n ∧ v.getLsbD i = true ∧ (d.reg a).getLsbD i = false ∧ ∀ j, j < n → j ≠ i → v.getLsbD j = (d.reg a).getLsbD j

/-- It releases block `i` and leaves the others as they are. -/
def ReleasesOne (d : Dev) (a n : Nat) (v : Word) (i : Nat) : Prop :=
  i < n ∧ v.getLsbD i = false ∧ (d.reg a).getLsbD i = true ∧ ∀ j, j < n → j ≠ i → v.getLsbD j = (d.reg a).getLsbD j

/-- The register at `a` with bit `i` set; with bit `i` clear. -/
def Dev.withBit (d : Dev) (a i : Nat) : Word := d.reg a ||| BitVec.ofNat 32 (2 ^ i)
def Dev.noBit (d : Dev) (a i : Nat) : Word := d.reg a &&& ~~~BitVec.ofNat 32 (2 ^ i)

/-- What is outstanding at target `t` ends with ERROR (R504). -/
def TargetEnds (t : Nat) (l : List Xact) : List Xact := l.map (fun x => if x.target = t ∧ x.ans = none then { x with ans := some (.error, []) } else x)

/-- The block of master `m`, which is target `t`, is reset (R502, R504). -/
def Cleared (d e : Dev) (m t : Nat) : Prop :=
  ∃ x, Dropped d x m ∧ e.dmc = x.dmc ∧ e.fab.held = x.fab.held ∧ e.fab.outs = TargetEnds t x.fab.outs

/-- A bit of a register that one of the banks `l` holds. -/
def bankHit (l : List Nat) (a i : Nat) : Bool := l.any (fun b => (bankBits a b).testBit i)

/-- In the copy `g` the bits of the banks `l` are at reset, and the others are as in the copy `f`. -/
def CopyReset (l : List Nat) (f g : List (Nat × Word)) : Prop :=
  ∀ a i, i < 32 → (sget resetValue g a).getLsbD i = if bankHit l a i then (resetValue a).getLsbD i else (sget resetValue f a).getLsbD i

/-- The banks `l` are neither armed, missed nor due (R45). -/
def ArmsReset (d e : Dev) (l : List Nat) : Prop :=
  (∀ b, b < 64 → (e.get64 Adr.LND_ARMED_LO).testBit b = ((d.get64 Adr.LND_ARMED_LO).testBit b && !l.contains b))
    ∧ (∀ b, b < 64 → (e.get64 Adr.LND_MISSED_LO).testBit b = ((d.get64 Adr.LND_MISSED_LO).testBit b && !l.contains b))
    ∧ e.lnd = { d.lnd with frozen := e.lnd.frozen } ∧ e.lnd.frozen.isSome = d.lnd.frozen.isSome
    ∧ ∀ f ∈ d.lnd.frozen.toList, ∀ g ∈ e.lnd.frozen.toList, g = { f with due := g.due, refused := g.refused }
      ∧ ∀ b, b < 64 → g.due.testBit b = (f.due.testBit b && !l.contains b) ∧ g.refused.testBit b = (f.refused.testBit b && !l.contains b)

/-- The banks `l` return to reset values in their active copies, and are neither armed, missed nor due (R45). -/
def BanksReset (d e : Dev) (l : List Nat) : Prop :=
  CopyReset l d.act e.act ∧ CopyReset l d.act1 e.act1 ∧ CopyReset l d.act2 e.act2 ∧ ArmsReset d e l

/-- The active copies of the registers of offsets from `a` to `b` are at reset, and the others are as they were. -/
def ActiveReset (d e : Dev) (a b : Nat) : Prop :=
  ∀ x, sget resetValue e.act x = (if a ≤ x ∧ x < b then resetValue x else sget resetValue d.act x)
    ∧ sget resetValue e.act1 x = (if a ≤ x ∧ x < b then resetValue x else sget resetValue d.act1 x)
    ∧ sget resetValue e.act2 x = (if a ≤ x ∧ x < b then resetValue x else sget resetValue d.act2 x)

/-- The registers of LND that show armed and missed banks. -/
def bankParts : List Part :=
  [.lnd, .act, .reg Adr.LND_ARMED_LO, .reg (Adr.LND_ARMED_LO + 4), .reg Adr.LND_MISSED_LO, .reg (Adr.LND_MISSED_LO + 4)]

/-- Engine `k` is reset (R95, R439, R447, R504, R513): its state and registers, its room and the room's redirections, and what is
outstanding at its room. -/
def EngineOff (d e : Dev) (k : Nat) : Prop :=
  e.engAt k = Eng.reset ∧ (∀ j : EngIx, j.val ≠ k → e.engAt j = d.engAt j)
    ∧ (∀ a, Blk.eng.holds a → e.reg a = if 0x200000 + 0x10000 * k ≤ a ∧ a < 0x210000 + 0x10000 * k then resetValue a else d.reg a)
    ∧ ActiveReset d e (0x200000 + 0x10000 * k) (0x210000 + 0x10000 * k)
    ∧ e.latch = dropRange d.latch (0x200000 + 0x10000 * k) 0x10000 ∧ e.hbuf = dropRange d.hbuf (0x200000 + 0x10000 * k) 0x10000
    ∧ (∀ a, e.byteAt a = if roomAddr k 0 ≤ a ∧ a < roomAddr k 0x800000 then unwritten a else d.byteAt a)
    ∧ e.ecc = { EccState.clearRange d.ecc (roomAddr k 0) 0x800000 with
        rows := d.ecc.rows.filter (fun r => !(decide (32 + 16 * k ≤ r.bank) && decide (r.bank < 48 + 16 * k)))
        sparing := d.ecc.sparing.filter (fun r => !(decide (32 + 16 * k ≤ r.1) && decide (r.1 < 48 + 16 * k)))
        spared := d.ecc.spared.filter (fun r => !(decide (32 + 16 * k ≤ r.1) && decide (r.1 < 48 + 16 * k))) }
    ∧ (∀ b, b < 304 → e.reg (Adr.ECC_BANK_STATUS b) = if 32 + 16 * k ≤ b ∧ b < 48 + 16 * k then 0 else d.reg (Adr.ECC_BANK_STATUS b))
    ∧ (e.on ECC_STATUS.SPARE_EXHAUSTED = true ↔ ∃ b, b < 304 ∧ e.on (ECC_BANK_STATUS.SPARE_EXHAUSTED b) = true)

/-- The parts that the reset of an engine changes. -/
def engineParts (k : Nat) : List Part :=
  [.regs .eng, .eng, .act, .pairs, .mem, .ecc, .fab, .dmc, .reg Adr.ECC_STATUS] ++ (List.range 16).map (fun j => .reg (Adr.ECC_BANK_STATUS (32 + 16 * k + j)))

/-! ### Serial ports -/

/-- Master `m` reaches the registers of port `p` (R406, R505): the fabric serves it, or it is PE, which reaches SAP0 and SAP1 without the
chip domain. -/
def TakesSap (d : Dev) (m : Master) (p : Nat) : Prop :=
  d.isolated 33 = false ∧ d.masterHeld m.num = false
    ∧ ((d.chipRuns = true ∧ m.num < 28) ∨ (m.num = 19 ∧ d.pch.up = true ∧ (d.chipOn = true ∨ p < 2)))

/-- Port `p` has a clock: SAP0 and SAP1 belong to the porch (R406). -/
def Dev.portRuns (d : Dev) (p : Nat) : Prop := (p < 2 ∧ d.pch.up = true) ∨ d.chipRuns = true

/-- The rate of a NOM_RATE code (R426). -/
def rateOf (c : Nat) : Nat := [44100, 48000, 88200, 96000, 176400, 192000].getD c 0

/-- The setup of port `p` passes every check of R395. -/
def SetupGood (d : Dev) (p : Nat) : Prop :=
  let slots := d.get (SAP_CFG.SLOTS_M1 p) + 1
  let rate := rateOf (d.get (SAP_CFG.NOM_RATE p))
  let bits := 16 + 8 * d.get (SAP_CFG.SLOT_BITS p)
  let fs := if d.on LND_CTRL.RATE = true then 48000 else 96000
  d.get (SAP_CFG.FORMAT p) < 3 ∧ (d.get (SAP_CFG.FORMAT p) < 2 → slots = 2) ∧ 2 ≤ slots ∧ d.get (SAP_CFG.SLOT_BITS p) < 3
    ∧ d.get (SAP_CFG.WORD_BITS p) ≤ d.get (SAP_CFG.SLOT_BITS p) ∧ d.get (SAP_CFG.FS_WIDTH p) < 3 ∧ d.get (SAP_CFG.NOM_RATE p) < 6
    ∧ slots * bits * rate ≤ 49152000 ∧ (d.on (SAP_CFG.MASTER p) = true → rate * slots * bits ∣ 98304000)
    ∧ (d.on (SAP_CFG.SYNC p) = true → rate = fs) ∧ 45 * fs ≤ 100 * rate ∧ rate ≤ 4 * fs

/-- The bits of port `p`'s mask: those of the active registers of lines 0 and 1 at slots below SLOTS, bit 32 l + s (R400). -/
def slotMask (d : Dev) (p line0 line1 : Nat) (i : Nat) : Bool :=
  decide (i % 32 < d.get (SAP_CFG.SLOTS_M1 p) + 1)
    && ((decide (i < 32) && (sget resetValue d.act line0).getLsbD i) || (decide (32 ≤ i ∧ i < 64) && (sget resetValue d.act line1).getLsbD (i - 32)))

/-- Slot `i` transmits; slot `i` is received. -/
def sends (d : Dev) (p i : Nat) : Bool := slotMask d p (Adr.SAP_MASK_TX0 p) (Adr.SAP_MASK_TX1 p) i
def receives (d : Dev) (p i : Nat) : Bool := slotMask d p (Adr.SAP_MASK_RX0 p) (Adr.SAP_MASK_RX1 p) i

/-- Bits of a word of port `p`. -/
def wordWidth (d : Dev) (p : Nat) : Nat := 16 + 8 * d.get (SAP_CFG.WORD_BITS p)

/-- The A32 value of a received word (R10, R392). -/
def wordIn (d : Dev) (p : Nat) (rx : List (BitVec 32)) (i : Nat) : Int :=
  if i % 32 < d.get (SAP_CFG.SLOTS_M1 p) + 1 then (((rx.getD i 0).setWidth (wordWidth d p)).toInt) * 2 ^ (32 - wordWidth d p) else 0

/-- A value as it is driven, rounded to the word and saturated, in A32 again (R392). -/
def wordOut (w : Nat) (a : Int) : Int := max (-2 ^ (w - 1)) (min (2 ^ (w - 1) - 1) (roundShift a (32 - w))) * 2 ^ (32 - w)

/-- A value saturates when it is driven. -/
def clips (w : Nat) (a : Int) : Bool := decide (roundShift a (32 - w) < -2 ^ (w - 1) ∨ 2 ^ (w - 1) ≤ roundShift a (32 - w))

/-- The receive half of port `p` is full and no place is free for it: an overrun (R402). -/
def Dev.rxOver (d : Dev) (p : Nat) : Bool := decide (d.perLen ≤ (d.sapAt p).rxCur.length + 1) && (d.sapAt p).rxHalf.isSome

/-- What a port frame leaves of port `p`, whose state is otherwise `x`, when the words `w` go out (R391, R392, R400 to R402): the words
driven in the slots that send, the words received, and, where `takes`, the received slots in the receive half. -/
def frameLeaves (d : Dev) (p : Nat) (rx : List (BitVec 32)) (takes : Bool) (w : List Int) (x : SapState) : SapState :=
  let f := (List.range 64).map (fun i => if receives d p i then wordIn d p rx i else 0)
  let full := decide (d.perLen ≤ x.rxCur.length + 1)
  { x with
    out := (List.range 64).map (fun i => if sends d p i then wordOut (wordWidth d p) (w.getD i 0) else 0)
    driven := ((List.range 64).map (fun i => if sends d p i then 2 ^ i else 0)).sum
    rxPrev := (List.range 64).map (wordIn d p rx)
    rxCur := if takes then (if full then [] else x.rxCur ++ [f]) else x.rxCur
    rxHalf := if takes && full && x.rxHalf.isNone then some (x.rxCur ++ [f]) else x.rxHalf }

/-- The registers after a port frame: CLK_OK is 1, an overrun sets XRUN and counts, and words that saturate count, `more` of them before
they were driven (R392, R397, R402, R404). -/
def FrameCounts (d e : Dev) (p : Nat) (takes : Bool) (w : List Int) (more : Nat) : Prop :=
  e.reg (Adr.SAP_STATUS p) = (if takes && d.rxOver p then (d.set (SAP_STATUS.CLK_OK p) 1).set (SAP_STATUS.XRUN p) 1 else d.set (SAP_STATUS.CLK_OK p) 1).reg
      (Adr.SAP_STATUS p)
    ∧ (e.reg (Adr.SAP_RX_OVER_CNT p)).toNat = min ((d.reg (Adr.SAP_RX_OVER_CNT p)).toNat + b2n (takes && d.rxOver p)) 0xFFFFFFFF
    ∧ (e.reg (Adr.SAP_TX_SAT_CNT p)).toNat
        = min ((d.reg (Adr.SAP_TX_SAT_CNT p)).toNat + (more + ((List.range 64).filter (fun i => sends d p i && clips (wordWidth d p) (w.getD i 0))).length)) 0xFFFFFFFF

/-- MIX's words for the next frame of port `p`, what is left of the transmit half, and the free values that the ASRC's filter takes
(R57, R402): none before data begins. -/
def MixGives (d : Dev) (p : Nat) (m : List Int) (t : List (List Int)) (n : Nat) : Prop :=
  ((d.sapAt p).phase = .waiting ∧ m = List.replicate 64 0 ∧ t = (d.sapAt p).txCur ∧ n = 0)
    ∨ ((d.sapAt p).phase = .running ∧ d.on (SAP_CFG.SYNC p) = true ∧ (d.sapAt p).txCur = m :: t ∧ n = 0)
    ∨ ((d.sapAt p).phase = .running ∧ d.on (SAP_CFG.SYNC p) = false ∧ t = (d.sapAt p).txCur ∧ n = 64
      ∧ m = (List.range 64).map (fun i => if sends d p i then (BitVec.ofNat 32 (Config.free (d.fresh + i))).toInt else 0))

/-- The words of port `p` before the direct path (R401, R533, R541): those of MIX or PE by the owner, mixed while the owner changes; a slot
newly enabled sends 0. -/
def ownedWords (d : Dev) (p : Nat) (m : List Int) : List Int :=
  (List.range 64).map (fun i =>
    let safe := (d.sapAt p).pe.getD i 0
    let full := m.getD i 0
    if (d.sapAt p).newTx.testBit i then 0
    else if 2 ≤ p then full
    else match (d.sapAt p).fade with
      | none => if d.on (PCH_SAFE_OWN.ACT p) then full else safe
      | some f => roundDiv (((f.n - 1 - f.i : Nat) : Int) * (if f.toMix then safe else full) + ((f.i : Int) + 1) * (if f.toMix then full else safe)) f.n)

/-- The crossfade of port `p` after a frame (R541). -/
def fadeAfter (d : Dev) (p : Nat) : Option Fade :=
  match (d.sapAt p).fade with
  | none => none
  | some f => if p < 2 then (if f.i + 1 < f.n then some { f with i := f.i + 1 } else none) else some f

/-- Entry `n` of the direct path of port `p` is disabled, and its gain has come to 0 (R405). -/
def PathOff (d : Dev) (p n : Nat) : Prop :=
  d.aget (SAP_DP_CFG.EN p n) = 0 ∧ (vat (d.sapAt p).dp n).g1 = 0 ∧ (vat (d.sapAt p).dp n).n = 32

/-- The ramp of entry `n` in this frame (R405): it goes on toward its target, or starts for a new one from where it is. -/
def pathRamp (d : Dev) (p n : Nat) : DpRamp :=
  let r := vat (d.sapAt p).dp n
  let t : Int := if d.aget (SAP_DP_CFG.EN p n) = 0 then 0 else (sget resetValue d.act (Adr.SAP_DP_GAIN p n)).toInt
  if r.g1 = t then { r with n := min 32 (r.n + 1) } else ⟨if 32 ≤ r.n then r.g1 else r.g0 + roundDiv ((r.g1 - r.g0) * r.n) 32, t, 1⟩

/-- The gain of a ramp: linear over 32 frames (R405). -/
def pathGain (r : DpRamp) : Int := if 32 ≤ r.n then r.g1 else r.g0 + roundDiv ((r.g1 - r.g0) * r.n) 32

/-- What entry `n` with gain `g` adds into slot `i`, if it reaches a slot that sends (R404, R405). -/
def pathAdds (d : Dev) (p n : Nat) (g : Int) (i : Nat) : Option Int :=
  let slots := d.get (SAP_CFG.SLOTS_M1 p) + 1
  let s := d.aget (SAP_DP_CFG.SRC_SLOT p n)
  let t := d.aget (SAP_DP_CFG.DST_SLOT p n)
  let k := i % 32 - t
  if i / 32 = d.aget (SAP_DP_CFG.DST_LINE p n) ∧ t ≤ i % 32 ∧ k < 2 ∧ s + k < slots ∧ sends d p i = true then
    some (roundShift (g * (d.sapAt p).rxPrev.getD (32 * d.aget (SAP_DP_CFG.SRC_LINE p n) + (s + k)) 0) 27)
  else none

/-- The words `w` with what entry `n` adds at gain `g`, saturated (R404). -/
def pathWords (d : Dev) (p n : Nat) (g : Int) (w : List Int) : List Int :=
  (List.range 64).map (fun i =>
    match pathAdds d p n g i with
    | some y => max (-2 ^ 31) (min (2 ^ 31 - 1) (w.getD i 0 + y))
    | none => w.getD i 0)

/-- The number of those sums that saturate. -/
def pathClips (d : Dev) (p n : Nat) (g : Int) (w : List Int) : Nat :=
  ((List.range 64).filter (fun i =>
    match pathAdds d p n g i with
    | some y => decide (w.getD i 0 + y < -2 ^ 31 ∨ 2 ^ 31 ≤ w.getD i 0 + y)
    | none => false)).length

/-- The words of 64 samples that a RAMP over the period takes to zero, from what the port drives (R384, R403). -/
def rampDown (d : Dev) (p : Nat) : List (List Int) :=
  let n := max 1 (d.perLen * rateOf (d.get (SAP_CFG.NOM_RATE p)) / (if d.on LND_CTRL.RATE = true then 48000 else 96000))
  (List.range n).map (fun i => (d.sapAt p).out.map (fun c => roundDiv (c * ((n - 1 - i : Nat) : Int)) n))

/-! ### The management port -/

/-- The byte that addresses the target for a write (R552); for a read it is one more. -/
def Dev.smbAt (d : Dev) : Nat := 2 * (0x58 + d.get PCH_SMB_CFG.ADDR)

/-- A write command of the bytes `sent` is taken: PEC is not required, or it is right (R552). -/
def PecGood (d : Dev) (pec : Option Byte) (sent : List Nat) : Prop :=
  d.on PCH_SMB_CFG.PEC_REQ = false ∨ pec = some (BitVec.ofNat 8 (pecOf (d.smbAt :: sent)))

/-- The target answers the bytes `sent` with `l` and the PEC over the whole transaction (R552). -/
def Replies (d e : Dev) (sent : List Nat) (l : List Byte) : Prop :=
  e.resp = .bytes (l ++ [BitVec.ofNat 8 (pecOf (d.smbAt :: sent ++ (d.smbAt + 1) :: l.map BitVec.toNat))])

/-- A discard or NACK is counted and shown (R552). -/
def SmbFails (d e : Dev) : Prop :=
  e.resp = .nack ∧ (e.reg Adr.PCH_SMB_ERR_CNT).toNat = min ((d.reg Adr.PCH_SMB_ERR_CNT).toNat + 1) 0xFFFFFFFF
    ∧ e.reg Adr.PCH_STATUS = d.fieldSet PCH_STATUS.SMB_ERR 1

/-- The registers of offsets from `a` to `b` are at reset, in every copy, and nothing of them is latched or buffered. -/
def RangeReset (d e : Dev) (a b : Nat) : Prop :=
  (∀ x, a ≤ x → x < b → ∀ i, i < 32 → evBit x i ∨ (e.reg x).getLsbD i = (resetValue x).getLsbD i) ∧ ActiveReset d e a b
    ∧ e.latch = dropRange d.latch a (b - a) ∧ e.hbuf = dropRange d.hbuf a (b - a)

/-! ### Steps -/

/-- `n` steps, while each goes on. -/
def steps : Nat → State → Host.Outcome State Fault Refusal
  | 0, s => .next s
  | n + 1, s =>
    match step s with
    | .next t => steps n t
    | o => o

/-- The porch's copy of the event log holds at most 64 records (R554). -/
def LogFits (s : State) : Prop := s.dev.porch.length ≤ 64

/-- The true value of a lane that is not lost (R68). -/
def laneValue (l : Acc84) : Int := l.v.toInt + l.wc.toInt * 2 ^ 80

end Sys2Proof.Machine
end

