-- ==== Sys2Proof/Certificates/Slice0/Obligations.lean ====
section
/-! DEFINITION. Sys2Proof/Certificates/Slice0/Obligations.lean: what is claimed of the block: its steps, its registers, and what every command does. -/
open Sys2Proof Sys2Proof.Machine Sys2Proof.Machine.Dev

/-! ### Steps -/

/-- A step takes the command at the front of the queue and is exec of it with the queue's rest (95_what_each_step_holds.md: each
step whole and indivisible); with no command waiting one FABRIC tick passes, in which the time bases and the media clock go on
while they have a clock (the model's choice: log entry 2). -/
def Obligations.StepTakesFront : Prop :=
  (∀ (c : Instr) (s : State), step { s with pending := c :: s.pending } = exec c s)
  ∧ (∀ s : State, s.pending = [] → ∃ t, step s = .next t ∧ t.pending = [] ∧ t.dev.now = s.dev.now + 1
      ∧ Only ([.time, .tbs, .lnd, .regs .tb, .regs .lnd] ++ events) s.dev t.dev
      ∧ (s.dev.chipRuns = false → Only ([.time] ++ events) s.dev t.dev))

/-- The commands of a queue act in their order, each whole and once (95_what_each_step_holds.md), and no command, whatever the
state, stops the block or reads or changes the queue. -/
def Obligations.QueueOrder : Prop :=
  ∃ effect : Instr → Dev → Dev, (∀ (c : Instr) (s : State), exec c s = .next ⟨s.pending, effect c s.dev⟩)
    ∧ ∀ (l q : List Instr) (d : Dev), steps l.length ⟨l ++ q, d⟩ = .next ⟨q, l.foldl (fun d c => effect c d) d⟩

/-- The porch's copy of the event log holds at most 64 records (R554), from every state in which it does, after every step. -/
def Obligations.PorchKeepsNewest : Prop :=
  ∀ s : State, LogFits s → (∃ t, step s = .next t) ∧ ∀ t, step s = .next t → LogFits t

/-- State.reset is the device after a cold reset by PORCH_PG (R511, R521): no command waits, every register is at its reset value
with RST_CAUSE at 1, memory reads as unwritten, the chip domain, the engines, the rings and the DRAM channels are off. Reset
values and memory contents that the spec does not give are those of the log. -/
def Obligations.ResetState : Prop :=
  State.reset.pending = []
  ∧ (∀ a, State.reset.dev.reg a = if a = Adr.RST_CAUSE then 1 else resetValue a)
  ∧ (∀ a, sget resetValue State.reset.dev.act a = resetValue a ∧ sget resetValue State.reset.dev.act1 a = resetValue a ∧ sget resetValue State.reset.dev.act2 a = resetValue a)
  ∧ (∀ a, State.reset.dev.byteAt a = unwritten a) ∧ State.reset.dev.chipOn = false ∧ State.reset.dev.pch.up = false
  ∧ (∀ k : EngIx, State.reset.dev.engState k = engOff) ∧ (∀ r, r < 41 → State.reset.dev.ringState r = 0)
  ∧ (∀ c : ChanIx, State.reset.dev.dmcState c = dmcOff) ∧ (∀ p : SapIx, (State.reset.dev.sapAt p).phase = .stopped)
  ∧ (∀ b, b < 64 → State.reset.dev.armed b = false) ∧ Memory.wf State.reset.dev = true ∧ LogFits State.reset

/-- R96: an engine in OFF reads 0 in every ENG register and ignores every write to them; setup-only fields of ENG take writes while
the engine is READY or FAILED. -/
def Obligations.EngineOffRegisters : Prop :=
  (∀ (s : State) (m : Master) (k : EngIx) (o : Nat) (v : Word), Served s.dev m → s.dev.engState k = engOff → o % 4 = 0 → o < 0x10000 →
      Makes (.rcCounterRead m (0x200000 + 0x10000 * k.val + o)) s [.resp] (fun e => e.resp = .okay 0)
        ∧ Makes (.registerWrite m (0x200000 + 0x10000 * k.val + o) v) s [.resp] (fun e => e.resp = .okay 0 ∧ ∀ a, 0x200000 + 0x10000 * k.val ≤ a → a < 0x210000 + 0x10000 * k.val → e.reg a = s.dev.reg a))
  ∧ (∀ (d : Dev) (f : Found) (g : FSpec), f.pl.blk = .eng → g ∈ f.spec.fields → g.eff = .stopped →
      (Takes d f g = true ↔ d.engState f.pl.u = engReady ∨ d.engState f.pl.u = engFailed))

/-- R68, R71: while the wrap count stays within −7 to +7 a lane's value V80 + WC × 2^80 is the true sum, whatever the order of the
additions; a narrowing that does not saturate is the nearest integer, a tie to the even one. -/
def Obligations.LaneArithmetic : Prop :=
  (∀ (l : Acc84) (x y : List Int), l.wc ≠ 8 → x.Perm y → (x.foldl (fun l z => (l.add z).l) l).wc ≠ 8 → (y.foldl (fun l z => (l.add z).l) l).wc ≠ 8 →
      laneValue (x.foldl (fun l z => (l.add z).l) l) = laneValue l + x.sum ∧ x.foldl (fun l z => (l.add z).l) l = y.foldl (fun l z => (l.add z).l) l)
  ∧ (∀ (l : Acc84) (sh w : Nat), l.wc = 0 → (l.narrow sh w).ovf = false → Nearest l.v.toInt sh (l.narrow sh w).v)

/-! ### Register accesses -/

/-- REGISTER_WRITE, WRITE_HI_BUFFER and WRITE_LO_COMMIT (R5, R7, R8): every field of the register takes what its access code makes
of the written bits, and no other register changes; of a pair the high half is held in its buffer, and the write of the low half
commits both. -/
def Obligations.RegisterWrites : Prop :=
  (∀ (s : State) (m : Master) (a : Nat) (v : Word) (f : Found), Served s.dev m → regAt a = some f → a % 4 = 0 → f.spec.half = .word →
      Writes s.dev m f → (∀ i, ¬ evBit a i) →
    Makes (.registerWrite m a v) s [.reg a, .resp] (fun e =>
      e.resp = .okay 0 ∧ Holds s.dev e f a v))
  ∧ (∀ (s : State) (m : Master) (a : Nat) (v : Word) (g : Found), Served s.dev m → regAt (a + 4) = some g → a % 4 = 0 →
      g.spec.half = .high → Writes s.dev m g →
    Makes (.writeHiBuffer m (a + 4) v) s [.pairs, .resp] (fun e =>
      e.resp = .okay 0 ∧ e.heldHigh a = v.toNat))
  ∧ (∀ (s : State) (m : Master) (a : Nat) (v : Word) (f g : Found), Served s.dev m → regAt a = some f → regAt (a + 4) = some g →
      a % 4 = 0 → f.spec.half = .low → Writes s.dev m f → Writes s.dev m g → (∀ i, ¬ evBit a i) → (∀ i, ¬ evBit (a + 4) i) →
    Makes (.writeLoCommit m a v) s [.reg a, .reg (a + 4), .pairs, .resp] (fun e =>
      e.resp = .okay 0 ∧ Holds s.dev e f a v
      ∧ Holds s.dev e g (a + 4) (BitVec.ofNat 32 (s.dev.heldHigh a)) ∧ e.heldHigh a = 0))

/-- READ_LO_LATCH and RC_COUNTER_READ (R5, R7, R601): a read of the low half of a pair returns it and latches the high half; a read
of the high half then returns the latch; a read of a register with a read-to-clear count returns it and leaves the count 0.
Write-only and reserved bits read 0. -/
def Obligations.ReadEffects : Prop :=
  (∀ (s : State) (m : Master) (a : Nat) (f g : Found), Served s.dev m → regAt a = some f → regAt (a + 4) = some g → a % 4 = 0 →
      f.spec.half = .low → f.special = false → g.special = false → ¬(0x48000 ≤ a ∧ a < 0x49000) →
    Makes (.readLoLatch m a) s [.pairs, .resp] (fun e =>
      e.resp = .okay ((s.dev.reg a).toNat &&& readMask f.spec.fields)
      ∧ (sget (fun _ => (0 : Word)) e.latch a).toNat = (s.dev.reg (a + 4)).toNat &&& readMask g.spec.fields))
  ∧ (∀ (s : State) (m : Master) (a : Nat) (g : Found), Served s.dev m → regAt (a + 4) = some g → a % 4 = 0 → g.spec.half = .high →
      g.special = false → ¬(0x48000 ≤ a + 4 ∧ a + 4 < 0x49000) →
    Makes (.readLoLatch m (a + 4)) s [.resp] (fun e =>
      e.resp = .okay (sget (fun _ => (0 : Word)) s.dev.latch a).toNat))
  ∧ (∀ (s : State) (m : Master) (a : Nat) (f : Found), Served s.dev m → regAt a = some f → a % 4 = 0 → f.spec.half = .word →
      f.special = false → (∀ i, ¬ evBit a i) → ¬(0x48000 ≤ a ∧ a < 0x49000) →
    Makes (.rcCounterRead m a) s [.reg a, .resp] (fun e =>
      e.resp = .okay ((s.dev.reg a).toNat &&& readMask f.spec.fields)
      ∧ ∀ x ∈ f.spec.fields, bitsOf (e.reg a).toNat x.lo x.w = if x.acc = .rc then 0 else bitsOf (s.dev.reg a).toNat x.lo x.w))

/-! ### Landing -/

/-- LND_RUN, LND_COUNTER_LOAD, MPLL_LOCK, MPLL_UNLOCK (R29, R31, R603): RUN written 1 makes a stopped LND wait for lock; with the
PLL locked the counters are loaded from the time base; lock and its loss show in LND_MPLL_STATUS, and without lock MEDIA holds
its rate. -/
def Obligations.LandingClock : Prop :=
  (∀ (s : State) (m : Master) (v : Word), Served s.dev m → v.getLsbD 0 = true → s.dev.on LND_CTRL.RUN = false →
      s.dev.on LND_STATUS.RUNNING = false → s.dev.lnd.counting = false →
    Makes (.lndRun m v) s [.reg Adr.LND_CTRL, .reg Adr.LND_STATUS, .resp] (fun e =>
      e.resp = .okay 0 ∧ Wrote s.dev e Adr.LND_CTRL v ∧ e.on LND_STATUS.WAIT_LOCK = true))
  ∧ (∀ s : State, s.dev.chipRuns = true → s.dev.on LND_STATUS.WAIT_LOCK = true → s.dev.on LND_MPLL_STATUS.LOCK = true →
    Makes (.lndCounterLoad) s [.reg Adr.LND_STATUS, .reg Adr.LND_SAMPLE_LO, .reg (Adr.LND_SAMPLE_LO + 4), .reg Adr.LND_PERIOD_LO,
        .reg (Adr.LND_PERIOD_LO + 4), .reg Adr.LND_MISSED_LO, .reg (Adr.LND_MISSED_LO + 4), .lnd] (fun e =>
      e.on LND_STATUS.WAIT_LOCK = false ∧ e.lnd = { s.dev.lnd with counting := true, frozen := none, media := (s.dev.tbAt s.dev.tbSel).t }
      ∧ e.get64 Adr.LND_SAMPLE_LO = s.dev.tbSample s.dev.tbSel % 2 ^ 64
      ∧ e.get64 Adr.LND_PERIOD_LO = s.dev.tbSample s.dev.tbSel / s.dev.perLen % 2 ^ 64))
  ∧ (∀ s : State, s.dev.chipRuns = true →
    Makes (.mpllLock) s [.reg Adr.LND_MPLL_STATUS, .lnd] (fun e =>
      e.on LND_MPLL_STATUS.LOCK = true ∧ e.on LND_MPLL_STATUS.HOLDOVER = false
      ∧ e.lnd = { s.dev.lnd with track := true, media := e.lnd.media }
      ∧ (s.dev.lnd.counting = false → e.lnd.media = (s.dev.tbAt s.dev.tbSel).t)))
  ∧ (∀ s : State, s.dev.chipRuns = true →
    Makes (.mpllUnlock) s [.reg Adr.LND_MPLL_STATUS, .lnd] (fun e =>
      e.on LND_MPLL_STATUS.LOCK = false ∧ e.on LND_MPLL_STATUS.HOLDOVER = true
      ∧ e.lnd = { s.dev.lnd with
          track := false, rate := if s.dev.lnd.track then s.dev.tbIncr s.dev.tbSel else s.dev.lnd.rate }))

/-- LND_ARM and LND_DISARM (R37, R42, R43): while LND runs, the banks of the mask that R43 does not refuse are armed with the
target; a disarm takes the banks of its mask that are not already due. -/
def Obligations.LandingArms : Prop :=
  (∀ (s : State) (m : Master) (v : Word) (b : Nat), Served s.dev m → s.dev.lndStopped = false → b < 64 →
    Makes (.lndArm m v) s [.regs .lnd, .pairs, .resp] (fun e =>
      e.resp = .okay 0
      ∧ let taken := decide (b < 49) && bitOf (v.toNat + 2 ^ 32 * s.dev.heldHigh Adr.LND_ARM_LO) b && !(s.dev.armed b
            || (s.dev.get64 Adr.LND_TARGET_LO != 0 && decide (b < 16) && s.dev.get64 Adr.LND_TARGET_LO % s.dev.interval != 0))
        e.armed b = (s.dev.armed b || taken)
        ∧ e.get64 (Adr.LND_BANK_TARGET_LO b) = if taken then s.dev.get64 Adr.LND_TARGET_LO else s.dev.get64 (Adr.LND_BANK_TARGET_LO b)))
  ∧ (∀ (s : State) (m : Master) (v : Word) (b : Nat), Served s.dev m → b < 64 →
    Makes (.lndDisarm m v) s [.reg Adr.LND_ARMED_LO, .reg (Adr.LND_ARMED_LO + 4), .reg Adr.LND_MISSED_LO,
        .reg (Adr.LND_MISSED_LO + 4), .reg Adr.LND_STATUS, .pairs, .resp] (fun e =>
      e.resp = .okay 0
      ∧ e.armed b = (s.dev.armed b && !(bitOf (v.toNat + 2 ^ 32 * s.dev.heldHigh Adr.LND_DISARM_LO) b && !bitOf s.dev.dueMask b))))

/-- FREEZE_POINT and LANDING (R30, R38, R40, R602): the freeze point fixes which banks are due and copies nothing, or finds RUN 0
and stops LND at the landing that then does not occur; the landing counts the period and clears the arms of the due banks. -/
def Obligations.LandingRun : Prop :=
  (∀ (s : State) (ticks : Nat), s.dev.chipRuns = true → s.dev.lnd.counting = true → s.dev.lnd.frozen = none →
      s.dev.on LND_CTRL.RUN = true →
    Makes (.freezePoint ticks) s [.time, .tbs, .lnd, .reg Adr.TB_STATUS, .reg Adr.LND_MPLL_STATUS, .reg Adr.LND_SAMPLE_LO, .reg (Adr.LND_SAMPLE_LO + 4),
        .regs .hall, .regs .mix, .regs .fe, .regs .gang, .regs .sap, .fe, .sap, .mix, .gang, .hall] (fun e =>
      ∃ f, e.lnd.frozen = some f ∧ f.stop = false ∧ (s.dev.lnd.track = false → f.period = (s.dev.period + 1) % 2 ^ 64)
      ∧ ∀ b, b < 64 → (bitOf f.due b || bitOf f.refused b) = (s.dev.armed b && !bitOf (s.dev.get64 Adr.LND_MISSED_LO) b
          && (if s.dev.get64 (Adr.LND_BANK_TARGET_LO b) = 0 then decide (16 ≤ b ∨ f.period % s.dev.interval = 0)
            else s.dev.get64 (Adr.LND_BANK_TARGET_LO b) == f.period))))
  ∧ (∀ (s : State) (ticks : Nat), s.dev.chipRuns = true → s.dev.lnd.counting = true → s.dev.lnd.frozen = none →
      s.dev.on LND_CTRL.RUN = false →
    Makes (.freezePoint ticks) s [.time, .tbs, .lnd, .reg Adr.TB_STATUS, .reg Adr.LND_MPLL_STATUS, .reg Adr.LND_SAMPLE_LO, .reg (Adr.LND_SAMPLE_LO + 4)] (fun e =>
      e.lnd.frozen = some ⟨0, 0, (s.dev.period + 1) % 2 ^ 64, none, true⟩))
  ∧ (∀ (s : State) (ticks : Nat) (f : Frozen), s.dev.chipRuns = true → s.dev.lnd.frozen = some f → f.stop = true →
    Makes (.landing ticks) s [.time, .tbs, .lnd, .reg Adr.TB_STATUS, .reg Adr.LND_MPLL_STATUS, .reg Adr.LND_SAMPLE_LO, .reg (Adr.LND_SAMPLE_LO + 4), .reg Adr.LND_STATUS] (fun e =>
      e.lnd.counting = false ∧ e.lnd.frozen = none ∧ e.on LND_STATUS.RUNNING = false
      ∧ e.get64 Adr.LND_SAMPLE_LO = (s.dev.period * s.dev.perLen + s.dev.perLen - 1) % 2 ^ 64))
  ∧ (∀ (s : State) (ticks : Nat) (f : Frozen), s.dev.chipRuns = true → s.dev.lnd.counting = true → s.dev.lnd.frozen = some f →
      f.stop = false → f.resync = none →
    Makes (.landing ticks) s [.time, .tbs, .lnd, .reg Adr.TB_STATUS, .reg Adr.LND_MPLL_STATUS, .reg Adr.LND_SAMPLE_LO, .reg (Adr.LND_SAMPLE_LO + 4), .regs .lnd, .act, .regs .pmc, .regs .hall, .regs .tsk, .regs .mix, .regs .fe, .regs .sap, .regs .gang, .regs .och,
        .regs .mac, .regs .hif, .regs .ecc, .regs .dmc, .regs .eng, .regs .rst, .regs .xlt, .regs .pch, .regs .fab, .regs .tb, .hall, .tsk, .mix, .fe, .sap, .gang, .och, .mac, .mem, .ecc, .eng, .fab, .dmc, .ring, .pch,
        .lortis, .bad] (fun e =>
      e.lnd.frozen = none ∧ e.on LND_STATUS.RUNNING = true ∧ e.get64 Adr.LND_PERIOD_LO = f.period % 2 ^ 64
      ∧ ∀ b, b < 64 → e.armed b = (s.dev.armed b && !bitOf f.due b && !bitOf f.refused b)))

/-! ### The pantry, the rooms and their ECC -/

/-- FILL_GO, FILL_DONE, ECC_INJECT_ARM (R435, R436, R449): GO starts a fill of a legal range, or sets FILL_BAD; its end leaves every
byte of the range 0 and its words clean; a write with ARM arms an injection. -/
def Obligations.PantryFills : Prop :=
  (∀ (s : State) (m : Master) (v : Word), Served s.dev m → v.getLsbD 0 = true → s.dev.ecc.fill = none →
      s.dev.fillOk (s.dev.get64 Adr.ECC_FILL_ADDR_LO) (s.dev.reg Adr.ECC_FILL_LEN).toNat = true →
    Makes (.fillGo m v) s [.reg Adr.ECC_FILL_CTRL, .reg Adr.ECC_STATUS, .ecc, .resp] (fun e =>
      e.resp = .okay 0 ∧ e.on ECC_STATUS.FILL_BUSY = true
      ∧ e.ecc = { s.dev.ecc with fill := some (s.dev.get64 Adr.ECC_FILL_ADDR_LO, (s.dev.reg Adr.ECC_FILL_LEN).toNat) }))
  ∧ (∀ (s : State) (m : Master) (v : Word), Served s.dev m → v.getLsbD 0 = true →
      s.dev.ecc.fill.isSome = true ∨ s.dev.fillOk (s.dev.get64 Adr.ECC_FILL_ADDR_LO) (s.dev.reg Adr.ECC_FILL_LEN).toNat = false →
    Makes (.fillGo m v) s [.reg Adr.ECC_FILL_CTRL, .reg Adr.ECC_STATUS, .resp] (fun e =>
      e.resp = .okay 0 ∧ e.on ECC_STATUS.FILL_BAD = true))
  ∧ (∀ (s : State) (a n : Nat), s.dev.chipRuns = true → s.dev.ecc.fill = some (a, n) → pantryBase ≤ a → a + n ≤ regBase →
      s.dev.on ECC_INJ_CTRL.ARM = false → s.dev.poolTouched a n = [] →
    Makes (.fillDone) s [.reg Adr.ECC_STATUS, .mem, .ecc] (fun e =>
      e.on ECC_STATUS.FILL_BUSY = false ∧ e.ecc.fill = none
      ∧ (∀ k, e.byteAt k = if a ≤ k ∧ k < a + n then 0 else s.dev.byteAt k)
      ∧ ∀ w, a ≤ w → w < a + n → unitState e.ecc w = .clean))
  ∧ (∀ (s : State) (m : Master) (v : Word), Served s.dev m →
    Makes (.eccInjectArm m v) s [.reg Adr.ECC_INJ_CTRL, .resp] (fun e =>
      e.resp = .okay 0 ∧ Wrote s.dev e Adr.ECC_INJ_CTRL v))

/-- CE_WRITEBACK, SCRUB_LINE, ROW_SPARE_DONE (R431, R440, R442, R443, R445): a write-back leaves its word clean; the scrubber
corrects, zeroes or poisons the words of its line by class; a row copy ends with the row spared and its words good or poisoned. -/
def Obligations.PantryCare : Prop :=
  (∀ (s : State) (a : Nat), s.dev.chipRuns = true → s.dev.ecc.ceWb.contains (unitOf (s.dev.memKey a)) = true →
    Makes (.ceWriteback a) s [.ecc] (fun e =>
      unitState e.ecc (unitOf (s.dev.memKey a)) = .clean ∧ e.ecc.ceWb.contains (unitOf (s.dev.memKey a)) = false
      ∧ ∀ k, k < unitOf (s.dev.memKey a) ∨ unitOf (s.dev.memKey a) + eccUnit (s.dev.memKey a) ≤ k →
        sget (fun _ => 0) e.ecc.flips k = sget (fun _ => 0) s.dev.ecc.flips k))
  ∧ (∀ (s : State) (l : List (Nat × Nat)) (a : Nat), s.dev.chipRuns = true → s.dev.linkHeld 23 = false →
      s.dev.on ECC_SCRUB_CTRL.EN = true → s.dev.scrubNext scrubFuel s.dev.ecc.scrub = some a →
      (s.dev.scrubNext scrubFuel (a + 64)).isSome = true →
    Makes (.scrubLine l) s [.ecc, .regs .ecc, .mem] (fun e =>
      e.ecc.scrub = a + 64 ∧ (∀ k, k < a ∨ a + 64 ≤ k → e.byteAt k = s.dev.byteAt k)
      ∧ ∀ i, i < 8 →
        let old := unitState (s.dev.upset a l).ecc (a + 8 * i)
        let regen := decide (s.dev.classOf (a + 8 * i) = 2)
        unitState e.ecc (a + 8 * i) = (if old = .ue ∨ old = .poisoned then (if regen then .clean else .poisoned) else .clean)
          ∧ ∀ j, j < 8 → e.byteAt (a + 8 * i + j) = if regen ∧ (old = .ue ∨ old = .poisoned) then 0 else s.dev.byteAt (a + 8 * i + j)))
  ∧ (∀ (s : State) (b : Fin 304) (r : Nat), s.dev.chipRuns = true → s.dev.ecc.sparing.find? (fun x => x.1 == b.val) = some (b.val, r) →
      s.dev.get (ECC_BANK_STATUS.SPARES_USED b) < 8 →
    Makes (.rowSpareDone b) s [.ecc, .regs .ecc] (fun e =>
      e.ecc.spared = s.dev.ecc.spared ++ [(b.val, r)] ∧ e.get (ECC_BANK_STATUS.SPARES_USED b) = s.dev.get (ECC_BANK_STATUS.SPARES_USED b) + 1
      ∧ ∀ w ∈ rowWords b r, unitState e.ecc w = (if unitState s.dev.ecc w = .ue ∨ unitState s.dev.ecc w = .poisoned then .poisoned else .clean)))

/-- ECC_LOG_POP, PANTRY_SELFTEST_END (R438, R439, R448): a read of ECC_LOG_POP moves the oldest entry into the log registers; the
end of self-test reports every bank and starts the boot ROM, or stops with BIST_FAIL. -/
def Obligations.PantryReports : Prop :=
  (∀ (s : State) (m : Master) (x : EccLog) (t : List EccLog), Served s.dev m → s.dev.ecc.log = x :: t → t.length < 64 →
    Makes (.eccLogPop m) s [.reg Adr.ECC_LOG_POP, .reg Adr.ECC_LOG_CFG, .reg Adr.ECC_LOG_ADDR_LO, .reg (Adr.ECC_LOG_ADDR_LO + 4), .reg Adr.ECC_LOG_INFO,
        .ecc, .resp] (fun e =>
      e.resp = .okay 1 ∧ e.ecc = { s.dev.ecc with log := t } ∧ e.get64 Adr.ECC_LOG_ADDR_LO = x.addr % 2 ^ 64
      ∧ e.get ECC_LOG_CFG.COUNT = t.length
      ∧ (e.reg Adr.ECC_LOG_INFO).toNat = (x.typ + x.bit * 16 + 2 ^ 11 * x.req + 2 ^ 16 * x.region + 2 ^ 23 * x.row) % 2 ^ 32))
  ∧ (∀ (s : State) (m : Master), Served s.dev m → s.dev.ecc.log = [] →
    Makes (.eccLogPop m) s [.reg Adr.ECC_LOG_POP, .resp] (fun e =>
      e.resp = .okay 0 ∧ e.on ECC_LOG_POP.VALID = false))
  ∧ (∀ (s : State) (fails : Word) (rows : List Nat), s.dev.chipRuns = true → s.dev.get PCH_STATUS.CHIP = 1 →
      s.dev.on (ECC_BANK_STATUS.BIST_DONE 0) = false → fails ≠ 0 →
    Makes (.pantrySelftestEnd fails rows) s [.regs .ecc, .reg Adr.PCH_BOOT_STATUS] (fun e =>
      e.on ECC_STATUS.BIST_FAIL = true ∧ e.get PCH_BOOT_STATUS.CODE = 8
      ∧ ∀ b, b < 32 → e.on (ECC_BANK_STATUS.BIST_DONE b) = true ∧ e.on (ECC_BANK_STATUS.BIST_PASS b) = !fails.getLsbD b
        ∧ e.get (ECC_BANK_STATUS.SPARES_USED b) = min (rows.getD b 0) 8))
  ∧ (∀ (s : State) (fails : Word) (rows : List Nat), s.dev.chipRuns = true → s.dev.get PCH_STATUS.CHIP = 1 →
      s.dev.on (ECC_BANK_STATUS.BIST_DONE 0) = false → fails = 0 → bitOf (s.dev.otpWord 1) 1 = true →
    Makes (.pantrySelftestEnd fails rows) s [.regs .ecc, .reg Adr.PCH_BOOT_STATUS, .reg Adr.HIF_CTRL, .mem, .ecc] (fun e =>
      e.get PCH_BOOT_STATUS.CODE = 9 ∧ e.on HIF_CTRL.BAR4_EN = true ∧ e.on HIF_CTRL.BAR4_WR_EN = true
      ∧ (∀ a, e.byteAt a = if pantryBase ≤ a ∧ a < pantryBase + 0x4000000 then 0 else s.dev.byteAt a)
      ∧ ∀ b, b < 32 → e.on (ECC_BANK_STATUS.BIST_DONE b) = true ∧ e.on (ECC_BANK_STATUS.BIST_PASS b) = true
        ∧ e.get (ECC_BANK_STATUS.SPARES_USED b) = min (rows.getD b 0) 8))

/-! ### Events and counters -/

/-- EVENT_RING_FLUSH, SWTRIG, COUNTER_WRAP, PMC_CNT_CLEAR, PMC_CLR_GRP (R565, R566, R570, R571): the ring gets an OVERFLOW record
and the waiting records; software sources become pending; a wrap sets the counter's WRAP bit; writes clear counters. -/
def Obligations.EventCommands : Prop :=
  (∀ (s : State) (u : HostUpd) (w : EvRec), s.dev.chipRuns = true → s.dev.evc.queue = [] → s.dev.evc.wraps = 0 →
      bitOf (s.dev.reg (Adr.EVC_SRC_CFG 251)).toNat 0 = false → s.dev.on HIF_STATUS.LINK_UP = true → s.dev.ringState 20 = stRunning →
      (s.dev.ringAt 20).repost = [] → s.dev.evc.waits = [w] → (s.dev.ringAt 20).posted.length + 2 ≤ s.dev.ringSize 20 →
      s.dev.on (XLT_CTX_CFG.VALID (s.dev.get (HIF_RING_CFG.CTX 20))) = true →
      s.dev.on (XLT_CTX_CFG.MODE (s.dev.get (HIF_RING_CFG.CTX 20))) = true → s.dev.get64 (Adr.HIF_RING_BASE_LO 20) < 2 ^ 47 →
    Makes (.eventRingFlush u) s [.bad] (fun e =>
      e.evc.waits = [] ∧ e.evc.merged = 0 ∧ (e.ringAt 20).seq = (s.dev.ringAt 20).seq + 2 ∧ e.on EVC_STATUS.WAITING = false
      ∧ ((e.ringAt 20).posted.drop (s.dev.ringAt 20).posted.length).map (fun p => p.bytes.take 31)
        = [(Dev.evBytes ((s.dev.ringAt 20).seq + 1) ⟨0xFFFF, 1, 0, s.dev.evc.merged, 0, 0⟩).take 31, (Dev.evBytes ((s.dev.ringAt 20).seq + 2) w).take 31]))
  ∧ (∀ (s : State) (m : Master) (v : Word) (i : Nat), Served s.dev m → i < 4 → v.getLsbD i = true →
      bitOf (s.dev.reg (Adr.EVC_SRC_CFG (252 + i))).toNat 0 = true →
    Makes (.swtrig m v) s [.reg Adr.EVC_SWTRIG, .resp] (fun e =>
      e.resp = .okay 0 ∧ bitOf (e.reg (Adr.EVC_PEND 7)).toNat (28 + i) = true))
  ∧ (∀ (s : State) (n : PmcIx) (weight : Nat), s.dev.chipRuns = true → s.dev.evc.queue = [] → s.dev.evc.wraps = 0 →
      bitOf (s.dev.reg (Adr.EVC_SRC_CFG 251)).toNat 0 = false → 0 < weight →
      2 ^ 48 ≤ s.dev.get64 (Adr.PMC_CNT_LO n) + (if bitOf (s.dev.reg (Adr.PMC_MODE (n / 32))).toNat (n % 32) = true then weight else 1) →
    Makes (.counterWrap n weight) s [] (fun e =>
      e.get64 (Adr.PMC_CNT_LO n) = (s.dev.get64 (Adr.PMC_CNT_LO n) + (if bitOf (s.dev.reg (Adr.PMC_MODE (n / 32))).toNat (n % 32) = true then weight else 1)) % 2 ^ 48
      ∧ bitOf (e.reg (Adr.PMC_WRAP (n / 32))).toNat (n % 32) = true ∧ e.on PMC_STATUS.WRAP = true))
  ∧ (∀ (s : State) (m : Master) (n : PmcIx) (v : Word), Served s.dev m → s.dev.evc.queue = [] → s.dev.evc.wraps = 0 →
    Makes (.pmcCntClear m n v) s [.resp] (fun e =>
      e.resp = .okay 0 ∧ ∀ k, k < 384 → e.get64 (Adr.PMC_CNT_LO k) = if k = n.val then 0 else s.dev.get64 (Adr.PMC_CNT_LO k)))
  ∧ (∀ (s : State) (m : Master) (v : Word), Served s.dev m → s.dev.evc.queue = [] → s.dev.evc.wraps = 0 →
    Makes (.pmcClrGrp m v) s [.reg Adr.PMC_CLR_GRP, .resp] (fun e =>
      e.resp = .okay 0
      ∧ ∀ k, k < 384 → e.get64 (Adr.PMC_CNT_LO k) = if k / 16 = bitsOf v.toNat 0 5 then 0 else s.dev.get64 (Adr.PMC_CNT_LO k)))

/-! ### The fabric -/

/-- FABRIC_REQUEST (R489, R490, R491, R518): a request to the pantry is served in order and its response holds the bytes read, or
its bytes are in memory; a request to no target completes with DECODE. -/
def Obligations.FabricRequests : Prop :=
  (∀ (s : State) (m : Master) (id : Fin 64) (a n : Nat) (cells : List (Nat × Byte)) (flags : List Nat) (cls : Fin 4) (close : Bool),
      s.dev.chipRuns = true → m.num < 28 → s.dev.masterHeld m.num = false → s.dev.fab.held = [] →
      (s.dev.fab.outs.filter (fun x => x.master == m.num)).length < 32 → (∀ x ∈ s.dev.fab.outs, x.stale = false) → pantryBase ≤ a →
      a + n ≤ pantryBase + 0x4000000 → 0 < n → a % 4096 + n ≤ 4096 → a % 64 + n ≤ 1024 →
      s.dev.isolated (a % pantryBase / 0x800000) = false → (∀ w ∈ unitsOf a n, unitState s.dev.ecc w = .clean) →
    Makes (.fabricRequest m id a false n cells flags cls close) s [.fab] (fun e =>
      e.fab = { s.dev.fab with
          outs := s.dev.fab.outs ++ [⟨m.num, id, a % pantryBase / 0x800000, a, false, n, .outside, some (.okay, s.dev.bytesAt a n), false⟩] }))
  ∧ (∀ (s : State) (m : Master) (id : Fin 64) (a n : Nat) (l : List Byte) (cls : Fin 4) (close : Bool), s.dev.chipRuns = true →
      m.num < 28 → s.dev.masterHeld m.num = false → s.dev.fab.held = [] →
      (s.dev.fab.outs.filter (fun x => x.master == m.num)).length < 32 → (∀ x ∈ s.dev.fab.outs, x.stale = false) → pantryBase ≤ a →
      a + 8 ≤ pantryBase + 0x4000000 → a % 8 = 0 → l.length = 8 → s.dev.on ECC_INJ_CTRL.ARM = false → s.dev.poolTouched a 8 = [] →
      s.dev.isolated (a % pantryBase / 0x800000) = false →
    Makes (.fabricRequest m id a true n ((List.range 8).zip l) [] cls close) s [.fab, .mem, .ecc] (fun e =>
      e.fab = { s.dev.fab with
          outs := s.dev.fab.outs ++ [⟨m.num, id, a % pantryBase / 0x800000, a, true, 8, .outside, some (.okay, []), false⟩] }
      ∧ (∀ i, i < 8 → e.byteAt (a + i) = l.getD i 0) ∧ unitState e.ecc a = .clean ∧ ∀ k, k < a ∨ a + 8 ≤ k → e.byteAt k = s.dev.byteAt k))
  ∧ (∀ (s : State) (m : Master) (id : Fin 64) (a n : Nat) (write : Bool) (cls : Fin 4), s.dev.chipRuns = true → m.num < 28 →
      s.dev.masterHeld m.num = false → s.dev.fab.held = [] → (s.dev.fab.outs.filter (fun x => x.master == m.num)).length < 32 →
      (∀ x ∈ s.dev.fab.outs, x.stale = false) → s.dev.targetOf a = .nothing → a < 2 ^ 40 →
      write = true ∨ 0 < n ∧ a % 4096 + n ≤ 4096 ∧ a % 64 + n ≤ 1024 →
    Makes (.fabricRequest m id a write n [] [] cls false) s [.fab, .regs .fab] (fun e =>
      e.on FAB_STATUS.DECODE = true
      ∧ e.fab = { s.dev.fab with outs := s.dev.fab.outs ++ [⟨m.num, id, 0x3F, a, write, if write then 0 else n, .outside, some (.decode, []), false⟩] }
      ∧ (e.reg Adr.FAB_DECODE_CNT).toNat = min ((s.dev.reg Adr.FAB_DECODE_CNT).toNat + 1) 0xFFFFFFFF))

/-- FABRIC_RESPONSE, TARGET_TIMEOUT, FAB_REJOIN, STALE_RESPONSE_ABSORB (R491, R494, R500, R501, R502): a response reaches its master
and ends the request; a timeout isolates the target and completes all that waits there; REJOIN ends isolation; a stale response
is absorbed. -/
def Obligations.FabricResponses : Prop :=
  (∀ (s : State) (m : Fin 28) (id t : Fin 64) (x : Xact) (l1 l2 : List Xact) (bs : List Byte), s.dev.chipRuns = true →
      s.dev.fab.held = [] → s.dev.fab.outs = l1 ++ x :: l2 →
      (∀ y ∈ l1, ¬(y.master = m.val ∧ y.id = id.val ∧ y.target = t.val ∧ y.stale = false)) → x.master = m.val → x.id = id.val →
      x.target = t.val → x.stale = false → x.what = .outside → x.ans = some (.okay, bs) →
    Makes (.fabricResponse m id t) s [.fab, .resp] (fun e =>
      e.resp = .okay (ofBytes bs) ∧ e.fab.outs = l1 ++ l2 ∧ e.fab.held = []))
  ∧ (∀ (s : State) (t : Fin 37) (x : Xact), s.dev.chipRuns = true → x ∈ s.dev.fab.outs → x.target = t.val → x.ans = none →
    Makes (.targetTimeout t) s [.fab, .regs .fab, .dmc] (fun e =>
      e.isolated t = true ∧ e.on FAB_STATUS.TIMEOUT = true ∧ (∀ k, k < 64 → k ≠ t.val → e.isolated k = s.dev.isolated k)
      ∧ e.fab = { s.dev.fab with outs := s.dev.fab.outs.map (fun y => if y.target = t.val ∧ y.ans = none then { y with ans := some (.timeout, []) } else y) }))
  ∧ (∀ (s : State) (m : Master) (v : Word), Served s.dev m →
    Makes (.fabRejoin m v) s [.reg Adr.FAB_REJOIN_LO, .reg (Adr.FAB_REJOIN_LO + 4), .reg Adr.FAB_ISOLATED_LO, .reg (Adr.FAB_ISOLATED_LO + 4), .pairs, .resp] (fun e =>
      e.resp = .okay 0 ∧ ∀ t, t < 37 → e.isolated t = (s.dev.isolated t && !bitOf (v.toNat + 2 ^ 32 * s.dev.heldHigh Adr.FAB_REJOIN_LO) t)))
  ∧ (∀ (s : State) (m : Fin 28) (id t : Fin 64) (x : Xact) (l1 l2 : List Xact), s.dev.chipRuns = true → s.dev.fab.held = [] →
      s.dev.fab.outs = l1 ++ x :: l2 →
      (∀ y ∈ l1, ¬(y.master = m.val ∧ y.id = id.val ∧ y.target = t.val ∧ y.stale = true ∧ y.ans.isSome = true)) → x.master = m.val →
      x.id = id.val → x.target = t.val → x.stale = true → x.ans.isSome = true →
    Makes (.staleResponseAbsorb m id t) s [.fab] (fun e =>
      e.fab.outs = l1 ++ l2 ∧ e.fab.held = []))

/-! ### The DRAM controller -/

/-- DMC_INIT, DMC_INIT_KEEP, DMC_POWERUP_DONE, DMC_FILL, DMC_FILL_DONE, DMC_ENABLE (R480 to R482): INIT with a legal setup starts
the power-up of a channel that is OFF; its end takes the channel to INIT; FILL in INIT is busy until every byte of the channel
is 0; EN takes it to ONLINE. -/
def Obligations.DramStart : Prop :=
  (∀ (s : State) (m : Master) (c : ChanIx) (v : Word) (i : Instr), Served s.dev m → s.dev.dmcState c = 0 → (s.dev.dmcAt c).power = none →
      s.dev.initBad c = false → v.getLsbD 0 = true → i = .dmcInit m c v ∨ i = .dmcInitKeep m c v →
    Makes (i) s [.reg (Adr.DMC_CTRL c), .reg (Adr.DMC_STATUS c), .dmc, .resp] (fun e =>
      e.resp = .okay 0 ∧ e.dmcAt c = { s.dev.dmcAt c with power := some (v.getLsbD 1) } ∧ e.dmcState c = 0
      ∧ (∀ k : ChanIx, k ≠ c → e.dmcAt k = s.dev.dmcAt k)))
  ∧ (∀ (s : State) (c : ChanIx) (keep : Bool), s.dev.chipRuns = true → (s.dev.dmcAt c).power = some keep →
    Makes (.dmcPowerupDone c) s [.regs .dmc, .dmc, .mem, .ecc, .fab] (fun e =>
      e.dmcState c = 1 ∧ (e.dmcAt c).power = none ∧ (e.dmcAt c).queue = [] ∧ (e.dmcAt c).wait = [] ∧ (e.dmcAt c).slot = none))
  ∧ (∀ (s : State) (m : Master) (c : ChanIx) (v : Word), Served s.dev m → s.dev.dmcState c = 1 → v.getLsbD 2 = true → v.getLsbD 3 = false →
    Makes (.dmcFill m c v) s [.reg (Adr.DMC_CTRL c), .reg (Adr.DMC_STATUS c), .reg (Adr.DMC_TRN_STATUS c), .resp] (fun e =>
      e.resp = .okay 0 ∧ e.on (DMC_TRN_STATUS.FILL_BUSY c) = true ∧ e.dmcState c = 1))
  ∧ (∀ (s : State) (c : ChanIx), s.dev.chipRuns = true → s.dev.on (DMC_TRN_STATUS.FILL_BUSY c) = true →
    Makes (.dmcFillDone c) s [.reg (Adr.DMC_TRN_STATUS c), .mem, .ecc] (fun e =>
      e.on (DMC_TRN_STATUS.FILL_BUSY c) = false
      ∧ ∀ a, e.byteAt a = if 2 ^ 40 + 2 ^ 33 * c ≤ a ∧ a < 2 ^ 40 + 2 ^ 33 * c + 2 ^ 33 then 0 else s.dev.byteAt a))
  ∧ (∀ (s : State) (m : Master) (c : ChanIx) (v : Word), Served s.dev m → s.dev.dmcState c = 1 → v.getLsbD 2 = false → v.getLsbD 3 = true →
      v.getLsbD 4 = false → v.getLsbD 5 = false →
    Makes (.dmcEnable m c v) s [.reg (Adr.DMC_CTRL c), .reg (Adr.DMC_STATUS c), .resp] (fun e =>
      e.resp = .okay 0 ∧ e.dmcState c = 2))

/-- DMC_FENCE, DMC_UNFENCE, DMC_SREF_ENTER, DMC_SREF_EXIT (R476, R478, R480, R484): FENCE fences an ONLINE channel and empties its
queue; FENCE written 0 takes a channel that is not out of range back to ONLINE; SREF takes a channel without requests into self-
refresh with its debt repaid, and SREF written 0 back. FENCE and SREF read as the state is. -/
def Obligations.DramFences : Prop :=
  (∀ (s : State) (m : Master) (c : ChanIx) (v : Word), Served s.dev m → s.dev.dmcState c = 2 → v.getLsbD 4 = true →
      (s.dev.dmcAt c).slot = none →
    Makes (.dmcFence m c v) s [.reg (Adr.DMC_CTRL c), .reg (Adr.DMC_STATUS c), .reg (Adr.DMC_TRN_STATUS c),
        .reg (Adr.DMC_ERRRESP_CNT c), .dmc, .fab, .resp] (fun e =>
      e.resp = .okay 0 ∧ e.dmcState c = 4 ∧ (e.dmcAt c).queue = [] ∧ (e.dmcAt c).wait = []
      ∧ e.on (DMC_CTRL.FENCE c) = true ∧ e.on (DMC_CTRL.SREF c) = false ∧ (∀ k : ChanIx, k ≠ c → e.dmcAt k = s.dev.dmcAt k)))
  ∧ (∀ (s : State) (m : Master) (c : ChanIx) (v : Word), Served s.dev m → s.dev.dmcState c = 4 → v.getLsbD 4 = false →
      v.getLsbD 5 = false → s.dev.on (DMC_STATUS.OOR c) = false →
    Makes (.dmcUnfence m c v) s [.reg (Adr.DMC_CTRL c), .reg (Adr.DMC_STATUS c), .resp] (fun e =>
      e.resp = .okay 0 ∧ e.dmcState c = 2 ∧ e.on (DMC_CTRL.FENCE c) = false))
  ∧ (∀ (s : State) (m : Master) (c : ChanIx) (v : Word), Served s.dev m → s.dev.dmcState c = 2 → v.getLsbD 4 = false → v.getLsbD 5 = true →
      (s.dev.dmcAt c).queue = [] → (s.dev.dmcAt c).wait = [] →
    Makes (.dmcSrefEnter m c v) s [.reg (Adr.DMC_CTRL c), .reg (Adr.DMC_STATUS c), .reg (Adr.DMC_TRN_STATUS c), .dmc, .resp] (fun e =>
      e.resp = .okay 0 ∧ e.dmcState c = 5 ∧ (e.rankAt c 0).debt = 0 ∧ (e.rankAt c 1).debt = 0 ∧ (e.dmcAt c).rows = []
      ∧ e.on (DMC_CTRL.SREF c) = true ∧ (∀ k : ChanIx, k ≠ c → e.dmcAt k = s.dev.dmcAt k)))
  ∧ (∀ (s : State) (m : Master) (c : ChanIx) (v : Word), Served s.dev m → s.dev.dmcState c = 5 → v.getLsbD 5 = false →
    Makes (.dmcSrefExit m c v) s [.reg (Adr.DMC_CTRL c), .reg (Adr.DMC_STATUS c), .resp] (fun e =>
      e.resp = .okay 0 ∧ e.dmcState c = 2 ∧ e.on (DMC_CTRL.SREF c) = false))

/-- DRAM_REQUEST, REFRESH_DUE, REFRESH_REPAY, MR4_POLL, PATROL_SCRUB, POWER_DOWN_ENTRY (R463, R466, R467, R483, R484): a channel
serves its queued read, postpones or issues a refresh, repays one, takes a rank's MR4, reads its next line, and puts an idle
rank to power-down. -/
def Obligations.DramTraffic : Prop :=
  (∀ (s : State) (c : ChanIx) (q : DramReq) (w : Nat), s.dev.chipRuns = true → s.dev.dmcState c = 2 → (s.dev.dmcAt c).queue = [q] →
      (s.dev.dmcAt c).wait = [] → q.write = false → isDramKey w = true → w % 64 = 0 → w ≤ q.key → 0 < q.n → q.key + q.n ≤ w + 64 →
      unitState s.dev.ecc w = .clean →
    Makes (.dramRequest c) s [.dmc, .fab] (fun e =>
      (e.dmcAt c).queue = [] ∧ (e.dmcAt c).wait = []
      ∧ e.fab = (s.dev.answer q.master q.id (8 + c) .okay (s.dev.bytesAt q.key q.n)).fab))
  ∧ (∀ (s : State) (c : ChanIx) (r : RankIx), s.dev.chipRuns = true → 1 ≤ s.dev.dmcState c → s.dev.dmcState c ≤ 4 →
      r.val ≤ s.dev.get (DMC_CFG.RANKS c) →
    Makes (.refreshDue c r) s [.reg (Adr.DMC_STATUS c), .dmc] (fun e =>
      let late := (s.dev.dmcAt c).queue.any (fun q => decide (q.cls < 2)) && decide ((s.dev.rankAt c r).debt < 8)
      (e.rankAt c r).debt = (s.dev.rankAt c r).debt + b2n late
        ∧ (late = false → (e.rankAt c r).down = false ∧ (e.dmcAt c).rows = (s.dev.dmcAt c).rows.filter (fun x => x.1 / 16 != r.val))
        ∧ (∀ k : ChanIx, k ≠ c → e.dmcAt k = s.dev.dmcAt k)))
  ∧ (∀ (s : State) (c : ChanIx) (r : RankIx), s.dev.chipRuns = true → 1 ≤ s.dev.dmcState c → s.dev.dmcState c ≤ 4 →
      (s.dev.dmcAt c).queue = [] → r.val = (if (s.dev.rankAt c 0).debt < (s.dev.rankAt c 1).debt then 1 else 0) →
      (s.dev.rankAt c r).debt ≠ 0 →
    Makes (.refreshRepay c) s [.reg (Adr.DMC_STATUS c), .dmc] (fun e =>
      (e.rankAt c r).debt = (s.dev.rankAt c r).debt - 1 ∧ (e.rankAt c r).down = false ∧ (∀ k : ChanIx, k ≠ c → e.dmcAt k = s.dev.dmcAt k)))
  ∧ (∀ (s : State) (c : ChanIx) (v0 v1 : Byte) (r0 r1 : RefRate), s.dev.chipRuns = true → s.dev.dmcState c = 1 ∨ s.dev.dmcState c = 4 →
      s.dev.on (DMC_CFG.RANKS c) = false →
    Makes (.mr4Poll c v0 v1 r0 r1) s [.regs .dmc, .dmc, .fab] (fun e =>
      e.get (DMC_MR4.RANK0 c) = v0.toNat ∧ e.get (DMC_MR4.RANK1 c) = s.dev.get (DMC_MR4.RANK1 c)
      ∧ (e.rankAt c 0).step = refStep r0 ∧ e.rankAt c 1 = s.dev.rankAt c 1))
  ∧ (∀ (s : State) (c : ChanIx), s.dev.chipRuns = true → s.dev.linkHeld 25 = false → s.dev.on (DMC_SCRUB.EN c) = true →
      s.dev.dmcState c = 2 → unitState s.dev.ecc (2 ^ 40 + 2 ^ 33 * c + (s.dev.dmcAt c).patrol % s.dev.dramUsable) = .clean →
    Makes (.patrolScrub c []) s [.dmc, .ecc] (fun e =>
      (e.dmcAt c).patrol = ((s.dev.dmcAt c).patrol % s.dev.dramUsable + 64) % s.dev.dramUsable ∧ e.ecc.flips = s.dev.ecc.flips ∧ (∀ k : ChanIx, k ≠ c → e.dmcAt k = s.dev.dmcAt k)))
  ∧ (∀ (s : State) (c : ChanIx) (r : RankIx), s.dev.chipRuns = true → s.dev.get (DMC_PD.IDLE c) ≠ 0 → 1 ≤ s.dev.dmcState c →
      s.dev.dmcState c ≤ 4 → r.val ≤ s.dev.get (DMC_CFG.RANKS c) →
      (s.dev.dmcAt c).queue.any (fun q => (s.dev.bankRow c q.key).1 / 16 == r.val) = false →
    Makes (.powerDownEntry c r) s [.dmc] (fun e =>
      e.rankAt c r = { s.dev.rankAt c r with down := true } ∧ (∀ k : ChanIx, k ≠ c → e.dmcAt k = s.dev.dmcAt k)))

/-- WCK2CK_LEVELING, READ_DQ_CALIBRATION, WRITE_READ_COMPARE, CA_BUS_TRAINING, TRAINING_OP_DONE, SLOT_REQ, TRAINING_SLOT_OPEN,
COMMIT, END, SLOT_OVERRUN (R472 to R474): an operation runs in INIT, SLOT and FENCED, is refused elsewhere, and ends with its
result; SLOT_REQ asks an ONLINE channel for a slot, which opens when its conditions hold and saves the delays; COMMIT ends it
keeping them, END and an overrun restore them. -/
def Obligations.DramTraining : Prop :=
  (∀ (s : State) (m : Master) (c : ChanIx) (v : Word) (op : Nat) (i : Instr), Served s.dev m → v.getLsbD 24 = true →
      v.getLsbD 25 = false → v.getLsbD 26 = false → v.getLsbD 27 = false → bitsOf v.toNat 0 3 = op →
      (op = 1 ∧ i = .wck2ckLeveling m c v) ∨ (op = 2 ∧ i = .readDqCalibration m c v) ∨ (op = 3 ∧ i = .writeReadCompare m c v)
      ∨ (op = 4 ∧ i = .caBusTraining m c v) →
    Makes (i) s [.reg (Adr.DMC_TRN_CTRL c), .reg (Adr.DMC_TRN_STATUS c), .resp] (fun e =>
      e.resp = .okay 0 ∧ Wrote s.dev e (Adr.DMC_TRN_CTRL c) v
      ∧ if s.dev.dmcState c = 1 ∨ s.dev.dmcState c = 3 ∨ s.dev.dmcState c = 4 then e.on (DMC_TRN_STATUS.BUSY c) = true
        else e.on (DMC_TRN_STATUS.REFUSED c) = true))
  ∧ (∀ (s : State) (c : ChanIx) (x : Word), s.dev.chipRuns = true → s.dev.on (DMC_TRN_STATUS.BUSY c) = true →
    Makes (.trainingOpDone c x) s [.reg (Adr.DMC_TRN_STATUS c), .reg (Adr.DMC_TRN_RESULT c)] (fun e =>
      e.on (DMC_TRN_STATUS.BUSY c) = false ∧ e.on (DMC_TRN_STATUS.DONE c) = true
      ∧ e.get (DMC_TRN_RESULT.FAIL c) = x.toNat % 2 ^ (if s.dev.get (DMC_TRN_CTRL.OP c) = 1 then 2 else if s.dev.get (DMC_TRN_CTRL.OP c) = 4 then 8 else 18)))
  ∧ (∀ (s : State) (m : Master) (c : ChanIx) (v : Word), Served s.dev m → s.dev.dmcState c = 2 → v.getLsbD 24 = false →
      v.getLsbD 25 = true →
    Makes (.slotReq m c v) s [.reg (Adr.DMC_TRN_CTRL c), .reg (Adr.DMC_TRN_STATUS c), .resp] (fun e =>
      e.resp = .okay 0 ∧ Wrote s.dev e (Adr.DMC_TRN_CTRL c) v ∧ e.on (DMC_TRN_STATUS.SLOT_PENDING c) = true))
  ∧ (∀ (s : State) (c : ChanIx), s.dev.chipRuns = true → s.dev.slotReady c = true → (s.dev.dmcAt c).queue = [] →
      (s.dev.dmcAt c).wait = [] →
    Makes (.trainingSlotOpen c) s [.reg (Adr.DMC_CTRL c), .reg (Adr.DMC_STATUS c), .reg (Adr.DMC_TRN_STATUS c), .dmc] (fun e =>
      e.dmcState c = 3 ∧ e.on (DMC_TRN_STATUS.SLOT_PENDING c) = false
      ∧ (e.dmcAt c).slot = some ⟨s.dev.now, (Dev.delayRegs c).map (fun a => (a, s.dev.reg a))⟩ ∧ (∀ k : ChanIx, k ≠ c → e.dmcAt k = s.dev.dmcAt k)))
  ∧ (∀ (s : State) (m : Master) (c : ChanIx) (v : Word) (x : TrainSlot), Served s.dev m → s.dev.dmcState c = 3 →
      (s.dev.dmcAt c).slot = some x → (s.dev.dmcAt c).wait = [] → v.getLsbD 24 = false → v.getLsbD 26 = true →
    Makes (.commit m c v) s [.reg (Adr.DMC_CTRL c), .reg (Adr.DMC_STATUS c), .reg (Adr.DMC_TRN_CTRL c), .reg (Adr.DMC_TRN_STATUS c), .dmc, .resp] (fun e =>
      e.resp = .okay 0 ∧ e.dmcState c = 2 ∧ (e.dmcAt c).slot = none ∧ e.on (DMC_TRN_STATUS.BUSY c) = false
      ∧ (∀ k : ChanIx, k ≠ c → e.dmcAt k = s.dev.dmcAt k)))
  ∧ (∀ (s : State) (m : Master) (c : ChanIx) (v : Word) (t : Nat) (y : Nat → Word), Served s.dev m → s.dev.dmcState c = 3 →
      (s.dev.dmcAt c).slot = some ⟨t, (Dev.delayRegs c).map (fun a => (a, y a))⟩ → (s.dev.dmcAt c).wait = [] → v.getLsbD 24 = false →
      v.getLsbD 26 = false → v.getLsbD 27 = true →
    Makes (.trnEnd m c v) s [.regs .dmc, .dmc, .resp] (fun e =>
      e.resp = .okay 0 ∧ e.dmcState c = 2 ∧ (e.dmcAt c).slot = none ∧ (∀ a ∈ Dev.delayRegs c, e.reg a = y a)
      ∧ (∀ k : ChanIx, k ≠ c → e.dmcAt k = s.dev.dmcAt k)))
  ∧ (∀ (s : State) (c : ChanIx) (t : Nat) (y : Nat → Word), s.dev.chipRuns = true → s.dev.dmcState c = 3 →
      (s.dev.dmcAt c).slot = some ⟨t, (Dev.delayRegs c).map (fun a => (a, y a))⟩ → (s.dev.dmcAt c).wait = [] →
    Makes (.slotOverrun c) s [.regs .dmc, .dmc] (fun e =>
      e.dmcState c = 2 ∧ (e.dmcAt c).slot = none ∧ (∀ a ∈ Dev.delayRegs c, e.reg a = y a) ∧ e.on (DMC_TRN_STATUS.SLOT_OVERRUN c) = true
      ∧ (∀ k : ChanIx, k ≠ c → e.dmcAt k = s.dev.dmcAt k)))

/-! ### The engines and their tasks -/

/-- ENG_ENABLE, ENG_HALT, ENGINE_HALTED, ENG_RESUME, ENG_ICINV, SELFTEST_END (R82, R95, R97, R439): self-test takes an engine to
READY or FAILED, ENABLE from READY to ACTIVE, HALT to HALTED at a bundle boundary, RESUME back; ICINV empties the instruction
cache. -/
def Obligations.EngineControl : Prop :=
  (∀ (s : State) (m : Master) (k : EngIx) (v : Word), Served s.dev m → s.dev.engState k = engReady → v.getLsbD 0 = true →
      v.getLsbD 1 = false → v.getLsbD 2 = false → v.getLsbD 3 = false →
    Makes (.engEnable m k v) s [.reg (Adr.ENG_CTRL k), .reg (Adr.ENG_STATUS k), .eng, .resp] (fun e =>
      e.resp = .okay 0 ∧ e.engState k = engActive
      ∧ (∀ c : CtxIx, e.ctxAt k c = { s.dev.ctxAt k c with mode := .free, accept := 0b1111 }) ∧ ∀ j : EngIx, j ≠ k → e.engAt j = s.dev.engAt j))
  ∧ (∀ (s : State) (m : Master) (k : EngIx) (v : Word), Served s.dev m → s.dev.engState k = engActive →
      (s.dev.ctxAt k (s.dev.runCtx k)).mode = .running → v.getLsbD 0 = false → v.getLsbD 1 = true → v.getLsbD 2 = false →
      v.getLsbD 3 = false →
    Makes (.engHalt m k v) s [.reg (Adr.ENG_CTRL k), .reg (Adr.ENG_STATUS k), .eng, .resp] (fun e =>
      e.resp = .okay 0 ∧ e.engState k = engActive ∧ e.engAt k = { s.dev.engAt k with haltReq := true } ∧ ∀ j : EngIx, j ≠ k → e.engAt j = s.dev.engAt j))
  ∧ (∀ (s : State) (m : Master) (k : EngIx) (v : Word), Served s.dev m → s.dev.engState k = engActive →
      (s.dev.ctxAt k (s.dev.runCtx k)).mode ≠ .running → (s.dev.ctxAt k (s.dev.runCtx k)).bundle = none → v.getLsbD 0 = false →
      v.getLsbD 1 = true → v.getLsbD 2 = false → v.getLsbD 3 = false →
    Makes (.engHalt m k v) s [.reg (Adr.ENG_CTRL k), .reg (Adr.ENG_STATUS k), .eng, .resp] (fun e =>
      e.resp = .okay 0 ∧ e.engState k = engHalted ∧ e.engAt k = { s.dev.engAt k with haltReq := false } ∧ ∀ j : EngIx, j ≠ k → e.engAt j = s.dev.engAt j))
  ∧ (∀ (s : State) (k : EngIx), s.dev.chipRuns = true → s.dev.engState k = engActive → (s.dev.engAt k).haltReq = true →
      (s.dev.ctxAt k (s.dev.runCtx k)).rep = none → (s.dev.ctxAt k (s.dev.runCtx k)).bundle = none → s.dev.switching k = false →
    Makes (.engineHalted k) s [.reg (Adr.ENG_STATUS k), .eng] (fun e =>
      e.engState k = engHalted ∧ e.engAt k = { s.dev.engAt k with haltReq := false } ∧ ∀ j : EngIx, j ≠ k → e.engAt j = s.dev.engAt j))
  ∧ (∀ (s : State) (m : Master) (k : EngIx) (v : Word), Served s.dev m → s.dev.engState k = engHalted → v.getLsbD 0 = false →
      v.getLsbD 1 = false → v.getLsbD 2 = true → v.getLsbD 3 = false →
    Makes (.engResume m k v) s [.reg (Adr.ENG_CTRL k), .reg (Adr.ENG_STATUS k), .resp] (fun e =>
      e.resp = .okay 0 ∧ e.engState k = engActive))
  ∧ (∀ (s : State) (m : Master) (k : EngIx) (v : Word), Served s.dev m → s.dev.engState k ≠ engOff → v.getLsbD 0 = false →
      v.getLsbD 1 = false → v.getLsbD 2 = false → v.getLsbD 3 = true →
    Makes (.engIcinv m k v) s [.reg (Adr.ENG_CTRL k), .eng, .resp] (fun e =>
      e.resp = .okay 0 ∧ e.engAt k = { s.dev.engAt k with icache := [], icBad := [] } ∧ ∀ j : EngIx, j ≠ k → e.engAt j = s.dev.engAt j))
  ∧ (∀ (s : State) (k : EngIx) (pass : Bool) (fails : BitVec 16) (rows : List Nat), s.dev.chipRuns = true →
      s.dev.engState k = engSelftest →
    Makes (.selftestEnd k pass fails rows) s [.reg (Adr.ENG_STATUS k), .regs .ecc] (fun e =>
      e.engState k = (if pass = true ∧ fails = 0 then engReady else engFailed) ∧ e.on (ENG_STATUS.SELFTEST_PASS k) = (pass && fails == 0)
      ∧ ∀ i, i < 16 → e.on (ECC_BANK_STATUS.BIST_DONE (32 + 16 * k + i)) = true ∧ e.on (ECC_BANK_STATUS.BIST_PASS (32 + 16 * k + i)) = !fails.getLsbD i
        ∧ e.get (ECC_BANK_STATUS.SPARES_USED (32 + 16 * k + i)) = min (rows.getD i 0) 8))

/-- ENG_INJECT, ENG_DBG_DATA_ACCESS, ICACHE_PARITY, CYCLE_LIMIT (R83, R90, R92, R97, R102, R604): an injection is armed; debug
accesses read and write the selected word of a HALTED engine's context; a bad cache line is fetched again with its event bit; a
task past its limit takes fault 5. -/
def Obligations.EngineDebug : Prop :=
  (∀ (s : State) (m : Master) (k : EngIx) (v : Word), Served s.dev m → s.dev.engState k ≠ engOff → 1 ≤ bitsOf v.toNat 0 3 →
      bitsOf v.toNat 0 3 ≤ 4 →
    Makes (.engInject m k v) s [.reg (Adr.ENG_INJECT k), .eng, .resp] (fun e =>
      e.resp = .okay 0 ∧ e.engAt k = { s.dev.engAt k with inj := some (bitsOf v.toNat 0 3, bitsOf v.toNat 3 1) } ∧ ∀ j : EngIx, j ≠ k → e.engAt j = s.dev.engAt j))
  ∧ (∀ (s : State) (m : Master) (k : EngIx) (c file ix ln w x n : Nat), Served s.dev m → s.dev.engState k = engHalted →
      s.dev.dbgSel k = (c, file, ix, ln, w) → dbgElem (s.dev.ctxAt k c).r file ix ln = some (x, n) →
    Makes (.engDbgDataAccess m k none) s [.resp] (fun e =>
      e.resp = .okay (x / 2 ^ (32 * w) % 2 ^ 32)))
  ∧ (∀ (s : State) (m : Master) (k : EngIx) (v : Word) (c file ix ln w x n : Nat), Served s.dev m → s.dev.engState k = engHalted →
      s.dev.dbgSel k = (c, file, ix, ln, w) → file < 6 → ¬(file = 0 ∧ ix = 0) → dbgElem (s.dev.ctxAt k c).r file ix ln = some (x, n) →
    Makes (.engDbgDataAccess m k (some v)) s [.reg (Adr.ENG_DBG_DATA k), .eng, .resp] (fun e =>
      e.resp = .okay 0 ∧ dbgElem (e.ctxAt k c).r file ix ln = some (withWord n x w v, n)
      ∧ (∀ f i l, ¬(f = file ∧ i % 32 = ix ∧ (l % 32 = ln ∨ (file ≠ 1 ∧ file ≠ 2 ∧ file ≠ 5))) → f < 7 →
          dbgElem (e.ctxAt k c).r f i l = dbgElem (s.dev.ctxAt k c).r f i l)
      ∧ ∀ j : EngIx, j ≠ k → e.engAt j = s.dev.engAt j))
  ∧ (∀ (s : State) (k : EngIx) (line : Nat), s.dev.chipRuns = true → s.dev.canIssue k = true → s.dev.on (ENG_CFG.ICACHE_EN k) = true →
      (s.dev.engAt k).icache.count line = 1 → (s.dev.engAt k).icBad = [line] → (s.dev.engAt k).inj = none → line < 131072 →
      (∀ w ∈ unitsOf (roomAddr k (64 * line)) 64, unitState s.dev.ecc w = .clean) →
    Makes (.icacheParity k line) s [.reg (Adr.ENG_EVENT k), .eng] (fun e =>
      e.on (ENG_EVENT.ICACHE_PARITY k) = true ∧ line ∈ (e.engAt k).icache ∧ (e.engAt k).icBad = [] ∧ ∀ j : EngIx, j ≠ k → e.engAt j = s.dev.engAt j))
  ∧ (∀ (s : State) (k : EngIx) (c : CtxIx) (stalls : Nat), s.dev.chipRuns = true → s.dev.engState k = engActive →
      (s.dev.ctxAt k c).mode = .running → (s.dev.ctxAt k c).bundle = none → (s.dev.ctxAt k c).limit ≠ 0 →
      (s.dev.ctxAt k c).limit < min ((s.dev.ctxAt k c).cycles + stalls) 0xFFFFFFFF → (s.dev.ctxAt k (other c)).mode = .free →
    Makes (.cycleLimit k c stalls) s [.regs .eng, .eng] (fun e =>
      (e.ctxAt k c).mode = .draining ∧ (e.ctxAt k c).fault = some 5 ∧ (e.ctxAt k c).r = (s.dev.ctxAt k c).r
      ∧ e.engState k = engActive ∧ e.on (ENG_EVENT.FAULT k) = true
      ∧ (s.dev.on (ENG_EVENT.FAULT k) = false → e.get (ENG_FAULT.CODE k) = 5 ∧ e.get (ENG_FAULT.CTX k) = c.val
        ∧ e.get (ENG_FAULT_PC.PC k) = (s.dev.ctxAt k c).r.pc.toNat ∧ e.get (ENG_FAULT_TASK.TASK k) = (s.dev.ctxAt k c).task % 2 ^ 14)
      ∧ ∀ j : EngIx, j ≠ k → e.engAt j = s.dev.engAt j))

/-- TASK_DISPATCH, PREEMPT_SWITCH, TDONE_COMMIT (R63, R85, R86, R89, R143, R215, R216, R217): a delivered task starts from a cleared
register file with its arguments; a switch parks the running task; a task that ends is told to TSK and frees its context. -/
def Obligations.EngineTasks : Prop :=
  (∀ (s : State) (t : TaskInst) (k c slot : Nat), s.dev.chipRuns = true → s.dev.linkHeld 22 = false → s.dev.on TSK_CTRL.RUN = true →
      s.dev.nextRecovery = none → s.dev.nextTask = some (t, k, c, slot) → k < 17 → c < 2 → t.ix < s.dev.poolSize →
      pantryBase ≤ s.dev.poolBase → s.dev.poolBase + 64 * s.dev.poolSize ≤ pantryBase + 0x4000000 →
      (∀ w ∈ unitsOf (s.dev.poolBase + 64 * t.ix) 64, unitState s.dev.ecc w = .clean) →
      (Descr.of (s.dev.bytesAt (s.dev.poolBase + 64 * t.ix) 64)).valid = true →
    Makes (.taskDispatch) s [.eng, .tsk] (fun e =>
      let q := Descr.of (s.dev.bytesAt (s.dev.poolBase + 64 * t.ix) 64)
      let x := e.ctxAt k c
      let idle := (s.dev.ctxAt k (other c)).mode = .free ∨ (s.dev.ctxAt k (other c)).mode = .draining ∨ (s.dev.ctxAt k (other c)).mode = .aborted
      x.mode = (if idle then .running else .delivered) ∧ x.task = t.ix ∧ x.cls = t.cls ∧ x.slot = slot ∧ x.priv = q.priv ∧ x.cycles = 0
        ∧ x.limit = lowerLimit q.limit (s.dev.aget ⟨Adr.TSK_CLIMIT t.cls, 0, 32⟩)
        ∧ x.r = ((((({ RegFile.zero with pc := BitVec.ofNat 23 q.entry }.setS 1 (BitVec.ofNat 64 (q.args.getD 0 0))).setS 2
            (BitVec.ofNat 64 (q.args.getD 1 0))).setS 3 (BitVec.ofNat 64 (q.args.getD 2 0))).setS 4 (BitVec.ofNat 64 t.block)).setS 5
            (BitVec.ofNat 64 (t.step % 32 + 256 * shedLevel t.step))).setS 6 (x.shedMask)
        ∧ e.tsk.running = s.dev.tsk.running ++ [⟨k, c, slot, t, .graph⟩] ∧ (∀ p, e.readyAt p = (s.dev.readyAt p).erase t)
        ∧ ∀ j : EngIx, j.val ≠ k → e.engAt j = s.dev.engAt j))
  ∧ (∀ (s : State) (k : EngIx) (latency : Nat), s.dev.chipRuns = true → s.dev.engState k = engActive →
      (s.dev.ctxAt k (s.dev.runCtx k)).mode = .running → (s.dev.ctxAt k (other (s.dev.runCtx k))).mode = .delivered →
      (s.dev.ctxAt k (other (s.dev.runCtx k))).cls ≤ 1 → 2 ≤ (s.dev.ctxAt k (s.dev.runCtx k)).cls →
      (s.dev.ctxAt k (s.dev.runCtx k)).wasParked = false → (s.dev.ctxAt k (s.dev.runCtx k)).rep = none →
      (s.dev.ctxAt k (s.dev.runCtx k)).bundle = none → s.dev.on (ENG_CFG.PREEMPT_EN k) = true → s.dev.on (ENG_CFG.CTX1_EN k) = true →
    Makes (.preemptSwitch k latency) s [.eng, .reg (Adr.ENG_PREEMPT_MAX k)] (fun e =>
      e.runCtx k = other (s.dev.runCtx k)
      ∧ e.ctxAt k (s.dev.runCtx k) = { s.dev.ctxAt k (s.dev.runCtx k) with mode := .parked, wasParked := true }
      ∧ e.ctxAt k (e.runCtx k) = { s.dev.ctxAt k (e.runCtx k) with mode := .running, cycles := 40 }
      ∧ (e.reg (Adr.ENG_PREEMPT_MAX k)).toNat = (if (s.dev.reg (Adr.ENG_PREEMPT_MAX k)).toNat < latency then min latency 0xFFFF
        else (s.dev.reg (Adr.ENG_PREEMPT_MAX k)).toNat)
      ∧ ∀ j : EngIx, j ≠ k → e.engAt j = s.dev.engAt j))
  ∧ (∀ (s : State) (k : EngIx) (c : CtxIx) (r : RunTask), s.dev.chipRuns = true → (s.dev.ctxAt k c).mode = .ending →
      (s.dev.ctxAt k c).stream = [] → (s.dev.ctxAt k c).pload = [] → (s.dev.ctxAt k c).hallWait = 0 → (s.dev.ctxAt k c).sends = 0 →
      s.dev.runOf k c = some r → s.dev.tsk.insts = [] → (s.dev.ctxAt k (other c)).mode = .free →
    Makes (.tdoneCommit k c) s [.eng, .tsk] (fun e =>
      (e.ctxAt k c).mode = .free ∧ (e.ctxAt k c).accept = (s.dev.ctxAt k c).nextAccept.getD (s.dev.ctxAt k c).accept
      ∧ e.ctxAt k (other c) = s.dev.ctxAt k (other c) ∧ e.tsk.running = s.dev.tsk.running.filter (fun x => !(x.eng == k.val && x.ctx == c.val))
      ∧ e.tsk.done = s.dev.tsk.done ++ [⟨r.inst, 0, 0, b2n (popCount 32 (s.dev.ctxAt k c).r.ovf.toNat != 0) + 2 * b2n (popCount 32 (s.dev.ctxAt k c).r.lost.toNat != 0)
          + 4 * b2n (s.dev.ctxAt k c).memerr, k, r.slot, r.kind⟩]
      ∧ ∀ j : EngIx, j ≠ k → e.engAt j = s.dev.engAt j))

/-- PSTEP_LOAD_DONE, HALL_INPUT_PASS, STREAM_ENTRY_DONE (R80, R129, R136): the oldest pair-buffer load fills its entries; the oldest
HSEND reaches the staging; the oldest stream entry moves its granule. -/
def Obligations.EngineUnits : Prop :=
  (∀ (s : State) (k : EngIx) (c : CtxIx) (p : PairLoad) (t : List PairLoad), s.dev.chipRuns = true → (s.dev.ctxAt k c).pload = p :: t →
    Makes (.pstepLoadDone k c) s [.eng] (fun e =>
      e.ctxAt k c = { s.dev.ctxAt k c with pload := t, pbuf := (e.ctxAt k c).pbuf } ∧ e.ctxAt k (other c) = s.dev.ctxAt k (other c)
      ∧ (∀ i, i < 256 → vat (e.ctxAt k c).pbuf i = if p.pb ≤ i ∧ i < p.pb + p.es.length then p.es.getD (i - p.pb) ⟨0, 0, 0, 0, 0⟩ else vat (s.dev.ctxAt k c).pbuf i)
      ∧ ∀ j : EngIx, j ≠ k → e.engAt j = s.dev.engAt j))
  ∧ (∀ (s : State) (k : EngIx) (h : HallSend) (t : List HallSend), s.dev.chipRuns = true → (s.dev.engAt k).hallIn = h :: t → h.ctx < 2 →
    Makes (.hallInputPass k) s [.eng] (fun e =>
      (e.engAt k).hallIn = t
      ∧ (e.ctxAt k h.ctx).staged = (s.dev.ctxAt k h.ctx).staged.filter (fun x => !h.vals.any (fun v => v.out == x.out && v.smp == x.smp)) ++ h.vals
      ∧ (e.ctxAt k (other h.ctx)).staged = (s.dev.ctxAt k (other h.ctx)).staged ∧ (∀ c : CtxIx, (e.ctxAt k c).hallWait = (s.dev.ctxAt k c).hallWait - 1)
      ∧ ∀ j : EngIx, j ≠ k → e.engAt j = s.dev.engAt j))
  ∧ (∀ (s : State) (k : EngIx) (c : CtxIx) (q : StreamEntry) (t : List StreamEntry), s.dev.chipRuns = true →
      (s.dev.ctxAt k c).stream = q :: t → (s.dev.ctxAt k c).mode = .running → q.len = 64 → q.room % 64 = 0 → q.room + 64 ≤ 0x800000 →
      q.far % 64 = 0 → pantryBase ≤ q.far → q.far + 64 ≤ pantryBase + 0x4000000 →
      s.dev.isolated (q.far % pantryBase / 0x800000) = false → s.dev.on ECC_INJ_CTRL.ARM = false → s.dev.poolTouched q.far 64 = [] →
      (∀ w ∈ unitsOf (if q.toFar then roomAddr k q.room else q.far) 64, unitState s.dev.ecc w = .clean) →
    Makes (.streamEntryDone k c) s [.eng, .mem, .ecc] (fun e =>
      e.ctxAt k c = { s.dev.ctxAt k c with stream := t } ∧ e.ctxAt k (other c) = s.dev.ctxAt k (other c) ∧ ∀ j : EngIx, j ≠ k → e.engAt j = s.dev.engAt j
      ∧ (∀ i, i < 64 → e.byteAt ((if q.toFar then q.far else roomAddr k q.room) + i) = s.dev.byteAt ((if q.toFar then roomAddr k q.room else q.far) + i))
      ∧ ∀ a, a < (if q.toFar then q.far else roomAddr k q.room) ∨ (if q.toFar then q.far else roomAddr k q.room) + 64 ≤ a → e.byteAt a = s.dev.byteAt a))

/-- HALL_BLOCK_COMPLETE, OCH_RAISE_LATE_JOB, OCH_RAISE_LATE_SWITCH, OCH_RAISE_FIR_SAT, OCH_RAISE_BIQUAD_SAT, OCH_RAISE_LIMIT (R171,
R173, R207): a block with every commit closes and is told to TSK; a raise counts in its slot's count and sets its status bit. -/
def Obligations.HallAndOutputs : Prop :=
  (∀ (s : State) (h : HallBlock), s.dev.chipRuns = true → s.dev.linkHeld 26 = false →
      s.dev.hall.blocks.find? (fun h => (s.dev.missingSlots h).isEmpty) = some h → s.dev.gangBlock h.b = false →
    Makes (.hallBlockComplete) s [.regs .hall, .hall, .tsk, .mem, .ecc, .regs .ecc, .regs .tsk] (fun e =>
      e.get64 Adr.HALL_DONE_BLOCK_LO = h.b % 2 ^ 64 ∧ e.hall.blocks = s.dev.hall.blocks.filter (fun x => x.b != h.b) ∧ h.b ∈ e.hall.closed
      ∧ e.hall.orphans = s.dev.hall.orphans ∧ h.b ∈ e.tsk.blocks))
  ∧ (∀ (s : State) (m : Master) (slot : Fin 16) (i : Instr) (cnt : Nat) (st : Fld), Served s.dev m →
      (i = .ochRaiseLateJob m slot ∧ cnt = Adr.OCH_SLOT_JOBLATE_CNT slot ∧ st = OCH_STATUS.JOB_LATE)
        ∨ (i = .ochRaiseLateSwitch m slot ∧ cnt = Adr.OCH_SLOT_XFLATE_CNT slot ∧ st = OCH_STATUS.XF_LATE)
        ∨ (i = .ochRaiseFirSat m slot ∧ cnt = Adr.OCH_SLOT_SAT_CNT slot ∧ st = OCH_STATUS.SAT)
        ∨ (i = .ochRaiseBiquadSat m slot ∧ cnt = Adr.OCH_SLOT_SAT_CNT slot ∧ st = OCH_STATUS.SAT)
        ∨ (i = .ochRaiseLimit m slot ∧ cnt = Adr.OCH_SLOT_LIMIT_CNT slot ∧ st = OCH_STATUS.LIMIT) →
    Makes (i) s [.reg Adr.OCH_RAISE, .reg Adr.OCH_STATUS, .reg cnt, .resp] (fun e =>
      e.resp = .okay 0 ∧ (e.reg cnt).toNat = min ((s.dev.reg cnt).toNat + 1) 0xFFFFFFFF ∧ e.on st = true
      ∧ ∀ f ∈ [OCH_STATUS.JOB_LATE, OCH_STATUS.XF_LATE, OCH_STATUS.SAT, OCH_STATUS.LIMIT], f ≠ st → e.get f = s.dev.get f))

/-! ### The scheduler and the gang -/

/-- TASK_VALID_SET, TASK_VALID_CLEAR (R210, R211, R212): a write that sets VALID stores the descriptor, or where a check fails
leaves VALID 0 with the first failing check in TSK_VERR; one that clears VALID takes the task out of the ready lists. -/
def Obligations.TaskPool : Prop :=
  (∀ (s : State) (m : Master) (ix : Fin 16384) (l : List Byte), s.dev.chipRuns = true → m.num < 28 → s.dev.masterHeld m.num = false →
      ix.val < s.dev.poolSize → pantryBase ≤ s.dev.poolBase → s.dev.poolBase + 64 * s.dev.poolSize ≤ pantryBase + 0x4000000 →
      s.dev.isolated ((s.dev.poolBase + 64 * ix.val) % pantryBase / 0x800000) = false → s.dev.on ECC_INJ_CTRL.ARM = false →
      s.dev.validBit ix = false → l.length = 64 → (Descr.of l).valid = true → (Descr.of l).check ix s.dev.poolSize = 0 →
    Makes (.taskValidSet m ix l) s [.mem, .ecc] (fun e =>
      (∀ i, i < 64 → e.byteAt ((s.dev.poolBase + 64 * ix.val) + i) = l.getD i 0) ∧ ∀ a, a < (s.dev.poolBase + 64 * ix.val) ∨ (s.dev.poolBase + 64 * ix.val) + 64 ≤ a → e.byteAt a = s.dev.byteAt a))
  ∧ (∀ (s : State) (m : Master) (ix : Fin 16384) (l : List Byte), s.dev.chipRuns = true → m.num < 28 → s.dev.masterHeld m.num = false →
      ix.val < s.dev.poolSize → pantryBase ≤ s.dev.poolBase → s.dev.poolBase + 64 * s.dev.poolSize ≤ pantryBase + 0x4000000 →
      s.dev.isolated ((s.dev.poolBase + 64 * ix.val) % pantryBase / 0x800000) = false → s.dev.on ECC_INJ_CTRL.ARM = false →
      s.dev.validBit ix = false → l.length = 64 → (Descr.of l).valid = true → (Descr.of l).check ix s.dev.poolSize ≠ 0 →
    Makes (.taskValidSet m ix l) s [.mem, .ecc, .reg Adr.TSK_VERR] (fun e =>
      (∀ i, i < 64 → e.byteAt ((s.dev.poolBase + 64 * ix.val) + i) = if i = 11 then l.getD i 0 &&& 0x7F else l.getD i 0)
      ∧ e.get TSK_VERR.INDEX = ix.val ∧ e.get TSK_VERR.CODE = (Descr.of l).check ix s.dev.poolSize ∧ ∀ a, a < (s.dev.poolBase + 64 * ix.val) ∨ (s.dev.poolBase + 64 * ix.val) + 64 ≤ a → e.byteAt a = s.dev.byteAt a))
  ∧ (∀ (s : State) (m : Master) (ix : Fin 16384), s.dev.chipRuns = true → m.num < 28 → s.dev.masterHeld m.num = false →
      ix.val < s.dev.poolSize → pantryBase ≤ s.dev.poolBase → s.dev.poolBase + 64 * s.dev.poolSize ≤ pantryBase + 0x4000000 →
      s.dev.isolated ((s.dev.poolBase + 64 * ix.val) % pantryBase / 0x800000) = false → s.dev.on ECC_INJ_CTRL.ARM = false →
      s.dev.validBit ix = true → unitState s.dev.ecc ((s.dev.poolBase + 64 * ix.val) + 8) = .clean →
    Makes (.taskValidClear m ix) s [.mem, .ecc, .tsk] (fun e =>
      (∀ a, e.byteAt a = if a = (s.dev.poolBase + 64 * ix.val) + 11 then s.dev.byteAt a &&& 0x7F else s.dev.byteAt a)
      ∧ (∀ c, e.readyAt c = (s.dev.readyAt c).filter (fun t => t.ix != ix.val)) ∧ e.tsk = { s.dev.tsk with ready := e.tsk.ready }))

/-- TASK_COMPLETE, TASK_FAULT_REPORT (R213, R219, R224, R226): TSK takes its oldest completion and decrements the successor's DEP,
releasing it at 0; a completion with a fault is logged and releases nothing; a drained fault without retry becomes a completion
with status FAULT. -/
def Obligations.TaskCompletion : Prop :=
  (∀ (s : State) (q : DoneTask) (l : List DoneTask) (j n : Nat), s.dev.chipRuns = true → s.dev.linkHeld 22 = false →
      s.dev.tsk.done = q :: l → q.kind = .graph → q.status = 0 → q.flags = 0 → q.inst.log = false → pantryBase ≤ s.dev.poolBase →
      s.dev.poolBase + 64 * s.dev.poolSize ≤ pantryBase + 0x4000000 → s.dev.on ECC_INJ_CTRL.ARM = false → q.inst.ix < s.dev.poolSize →
      (∀ w ∈ unitsOf (s.dev.poolBase + 64 * q.inst.ix) 64, unitState s.dev.ecc w = .clean) →
      (Descr.of (s.dev.bytesAt (s.dev.poolBase + 64 * q.inst.ix) 64)).nsucc = 1 →
      (Descr.of (s.dev.bytesAt (s.dev.poolBase + 64 * q.inst.ix) 64)).hasExt = false →
      (Descr.of (s.dev.bytesAt (s.dev.poolBase + 64 * q.inst.ix) 64)).succs.headD 0 % 2 ^ 14 = j → j < s.dev.poolSize →
      (∀ w ∈ unitsOf (s.dev.poolBase + 64 * j) 64, unitState s.dev.ecc w = .clean) →
      (Descr.of (s.dev.bytesAt (s.dev.poolBase + 64 * j) 64)).dep = n + 2 →
    Makes (.taskComplete) s [.tsk, .mem, .ecc] (fun e =>
      e.tsk = { s.dev.tsk with done := l }
      ∧ ∀ a, e.byteAt a = if a = s.dev.poolBase + 64 * j + 4 then BitVec.ofNat 8 (n + 1) else if a = s.dev.poolBase + 64 * j + 5 then BitVec.ofNat 8 ((n + 1) / 256)
        else s.dev.byteAt a))
  ∧ (∀ (s : State) (q : DoneTask) (l : List DoneTask) (j : Nat), s.dev.chipRuns = true → s.dev.linkHeld 22 = false →
      s.dev.tsk.done = q :: l → q.kind = .graph → q.status = 0 → q.flags = 0 → q.inst.log = false → pantryBase ≤ s.dev.poolBase →
      s.dev.poolBase + 64 * s.dev.poolSize ≤ pantryBase + 0x4000000 → s.dev.on ECC_INJ_CTRL.ARM = false → q.inst.ix < s.dev.poolSize →
      (∀ w ∈ unitsOf (s.dev.poolBase + 64 * q.inst.ix) 64, unitState s.dev.ecc w = .clean) →
      (Descr.of (s.dev.bytesAt (s.dev.poolBase + 64 * q.inst.ix) 64)).nsucc = 1 →
      (Descr.of (s.dev.bytesAt (s.dev.poolBase + 64 * q.inst.ix) 64)).hasExt = false →
      (Descr.of (s.dev.bytesAt (s.dev.poolBase + 64 * q.inst.ix) 64)).succs.headD 0 % 2 ^ 14 = j → j < s.dev.poolSize →
      (∀ w ∈ unitsOf (s.dev.poolBase + 64 * j) 64, unitState s.dev.ecc w = .clean) →
      (Descr.of (s.dev.bytesAt (s.dev.poolBase + 64 * j) 64)).dep = 1 →
      (Descr.of (s.dev.bytesAt (s.dev.poolBase + 64 * j) 64)).valid = true → s.dev.tsk.insts = [] → s.dev.tsk.orphans = [] →
      s.dev.get TSK_SHED.STEP = 0 → (Descr.of (s.dev.bytesAt (s.dev.poolBase + 64 * j) 64)).aff ≠ 0 →
    Makes (.taskComplete) s [.tsk, .mem, .ecc] (fun e =>
      e.tsk.done = l ∧ e.byteAt (s.dev.poolBase + 64 * j + 4) = 0
      ∧ e.readyAt (Descr.of (s.dev.bytesAt (s.dev.poolBase + 64 * j) 64)).cls = s.dev.readyAt (Descr.of (s.dev.bytesAt (s.dev.poolBase + 64 * j) 64)).cls ++ [⟨j, (Descr.of (s.dev.bytesAt (s.dev.poolBase + 64 * j) 64)).cls, (Descr.of (s.dev.bytesAt (s.dev.poolBase + 64 * j) 64)).aff, (Descr.of (s.dev.bytesAt (s.dev.poolBase + 64 * j) 64)).log, none, 0, q.inst.block, 0, [], none, false, s.dev.now⟩]))
  ∧ (∀ (s : State) (q : DoneTask) (l : List DoneTask), s.dev.chipRuns = true → s.dev.linkHeld 22 = false → s.dev.tsk.done = q :: l →
      q.kind = .graph → q.status = 1 → (s.dev.get TSK_CLOG_CFG.WR + 65536 - s.dev.get TSK_CLOG_RD.RD) % 65536 < 64 →
    Makes (.taskComplete) s [.tsk, .mem, .ecc, .regs .ecc, .reg Adr.TSK_CLOG_CFG] (fun e =>
      e.tsk = { s.dev.tsk with done := l } ∧ e.get TSK_CLOG_CFG.WR = (s.dev.get TSK_CLOG_CFG.WR + 1) % 65536))
  ∧ (∀ (s : State) (k : EngIx) (c : CtxIx) (r : RunTask), s.dev.chipRuns = true → s.dev.linkHeld 22 = false →
      (s.dev.ctxAt k c).mode = .draining → (s.dev.ctxAt k c).stream = [] → s.dev.runOf k c = some r → s.dev.aget TSK_CFG.RETRY = 0 →
      s.dev.tsk.insts = [] → (s.dev.ctxAt k (other c)).mode = .free →
    Makes (.taskFaultReport k c) s [.eng, .tsk] (fun e =>
      (e.ctxAt k c).mode = .free ∧ e.ctxAt k (other c) = s.dev.ctxAt k (other c) ∧ e.tsk.running = s.dev.tsk.running.filter (fun x => !(x.eng == k.val && x.ctx == c.val))
      ∧ e.tsk.done = s.dev.tsk.done ++ [⟨r.inst, 1, (s.dev.ctxAt k c).fault.getD 0, b2n ((s.dev.ctxAt k c).r.ovf != 0) + 2 * b2n ((s.dev.ctxAt k c).r.lost != 0)
          + 4 * b2n (s.dev.ctxAt k c).memerr, k, r.slot, r.kind⟩]
      ∧ ∀ j : EngIx, j ≠ k → e.engAt j = s.dev.engAt j))

/-- ENGINE_FAULT_REPORT, TAKEOVER_COMPLETE, TASK_B_COMPLETE, ADD_SPARE, UNSHED (R227, R229, R230, R231, R234): an engine that fails
is replaced by the spare, or its slot is orphaned; the end of TASK_A arms the crossbar, that of TASK_B ends the takeover;
ADD_SPARE fills the role; UNSHED asks for a step. -/
def Obligations.Takeovers : Prop :=
  (∀ (s : State) (k : EngIx) (q : Fin 16), s.dev.chipRuns = true → s.dev.linkHeld 22 = false → s.dev.engState k = engFailed →
      (s.dev.ctxAt k 0).mode = .aborted ∨ (s.dev.ctxAt k 1).mode = .aborted → s.dev.isSpare k = false → s.dev.engSlot k = some q →
      s.dev.takeAt q = none → s.dev.on TSK_SPARE.NONE = false →
    Makes (.engineFaultReport k) s [.eng, .tsk, .reg Adr.TSK_SPARE, .reg (slotEngFld q).a, .reg Adr.TSK_STATUS, .reg Adr.TSK_TAKEOVER_CNT] (fun e =>
      e.slotEng q = s.dev.get TSK_SPARE.ENG ∧ e.on TSK_SPARE.NONE = true
      ∧ e.tsk.take = s.dev.tsk.take ++ [⟨q, k, s.dev.get TSK_SPARE.ENG, .aQueued, s.dev.now, s.dev.interrupted k⟩]
      ∧ (e.reg Adr.TSK_TAKEOVER_CNT).toNat = min ((s.dev.reg Adr.TSK_TAKEOVER_CNT).toNat + 1) 0xFFFFFFFF ∧ e.on TSK_STATUS.TAKEOVER = true
      ∧ (∀ c : CtxIx, (e.ctxAt k c).mode ≠ .aborted) ∧ ∀ j : EngIx, j ≠ k → e.engAt j = s.dev.engAt j))
  ∧ (∀ (s : State) (k : EngIx) (q : Fin 16), s.dev.chipRuns = true → s.dev.linkHeld 22 = false → s.dev.engState k = engFailed →
      (s.dev.ctxAt k 0).mode = .aborted ∨ (s.dev.ctxAt k 1).mode = .aborted → s.dev.isSpare k = false → s.dev.engSlot k = some q →
      s.dev.tsk.take = [] → s.dev.on TSK_SPARE.NONE = true → s.dev.interrupted k = [] → (∀ c, s.dev.readyAt c = []) →
    Makes (.engineFaultReport k) s [.eng, .tsk, .reg (slotEngFld q).a, .reg Adr.TSK_STATUS] (fun e =>
      e.slotEng q = 0x1F ∧ e.tsk.orphans = s.dev.tsk.orphans ++ [(q.val, k.val)] ∧ e.orphaned q = true ∧ e.tsk.take = []
      ∧ (∀ c : CtxIx, (e.ctxAt k c).mode ≠ .aborted) ∧ ∀ j : EngIx, j ≠ k → e.engAt j = s.dev.engAt j))
  ∧ (∀ (s : State) (t : Takeover), s.dev.chipRuns = true → s.dev.linkHeld 22 = false →
      s.dev.tsk.take.find? (fun t => t.stage == .aDone) = some t → t.tasks = [] → t.slot < 16 → s.dev.lndStopped = false →
      s.dev.armed 32 = false →
    Makes (.takeoverComplete) s [.tsk, .reg Adr.TSK_TK_CYCLES, .reg (xbarFld t.slot).a, .reg Adr.LND_ARMED_LO, .reg (Adr.LND_ARMED_LO + 4), .reg (Adr.LND_BANK_TARGET_LO 32),
        .reg (Adr.LND_BANK_TARGET_LO 32 + 4)] (fun e =>
      e.get (xbarFld t.slot) = t.spare % 32 ∧ (∀ b, b < 64 → e.armed b = (b == 32 || s.dev.armed b)) ∧ e.get64 (Adr.LND_BANK_TARGET_LO 32) = 0
      ∧ e.tsk = { s.dev.tsk with take := s.dev.tsk.take.map (fun x => if x.slot == t.slot then { t with stage := .bQueued } else x) }))
  ∧ (∀ (s : State) (t : Takeover), s.dev.chipRuns = true → s.dev.linkHeld 22 = false →
      s.dev.tsk.take.find? (fun t => t.stage == .bDone) = some t → t.tasks = [] →
    Makes (.taskBComplete) s [.tsk, .reg Adr.TSK_STATUS] (fun e =>
      e.tsk = { s.dev.tsk with take := s.dev.tsk.take.filter (fun x => x.slot != t.slot) } ∧ e.on TSK_STATUS.TAKEOVER = !e.tsk.take.isEmpty))
  ∧ (∀ (s : State) (m : Master) (v : Word) (k : EngIx), Served s.dev m → v.getLsbD 13 = true → v.getLsbD 21 = false →
      bitsOf v.toNat 8 5 = k → s.dev.on TSK_SPARE.NONE = true →
      s.dev.engState k = engReady ∨ s.dev.engState k = engActive ∨ s.dev.engState k = engHalted → s.dev.engSlot k = none →
      s.dev.tsk.orphans = [] →
    Makes (.addSpare m v) s [.reg Adr.TSK_CTRL, .reg Adr.TSK_SPARE, .resp] (fun e =>
      e.resp = .okay 0 ∧ e.get TSK_SPARE.ENG = k.val ∧ e.on TSK_SPARE.NONE = false))
  ∧ (∀ (s : State) (m : Master) (v : Word), Served s.dev m → v.getLsbD 13 = false → v.getLsbD 21 = true →
    Makes (.unshed m v) s [.reg Adr.TSK_CTRL, .tsk, .resp] (fun e =>
      e.resp = .okay 0 ∧ e.tsk = { s.dev.tsk with unshed := some (bitsOf v.toNat 16 5) }))

/-- LORTIS_PARTIAL_SEND, LORTIS_FRAME_RECEIVE, DIGEST_COMPARE (R245, R247, R248, R249, R255): a block's shares are sent once, with
the saturated values counted; a received frame is dropped at the first check that fails, or kept; twins' digests are compared
and the lowest mismatch is held. -/
def Obligations.GangFrames : Prop :=
  (∀ (s : State) (g : GangBlock), s.dev.chipRuns = true → s.dev.linkHeld 27 = false →
      s.dev.gang.blocks.find? (fun g => g.sums.isSome && !g.sent) = some g →
    Makes (.lortisPartialSend) s [.gang, .regs .gang, .mac, .regs .mac, .tbs, .regs .tb, .mem, .ecc, .regs .ecc, .fab, .dmc, .ring, .regs .hif] (fun e =>
      e.gang = { s.dev.gang with blocks := s.dev.gang.blocks.map (fun x => if x.b == g.b then { x with sent := true } else x) }
      ∧ (e.reg Adr.GANG_SAT_CNT).toNat = min ((s.dev.reg Adr.GANG_SAT_CNT).toNat + s.dev.saturated g (g.sums.getD [])) 0xFFFFFFFF))
  ∧ (∀ (s : State) (f : InFrame) (t : List InFrame), s.dev.chipRuns = true → s.dev.linkHeld 27 = false → s.dev.lortis = f :: t →
      be f.bytes 18 1 ≠ 1 ∨ be f.bytes 19 1 ≠ b2n (s.dev.on GANG_CFG.MODE) ∨ be f.bytes 20 2 ≠ s.dev.get GANG_CFG.GANG_ID ∨ be f.bytes 23 1 ≠ s.dev.gangIx ∨ s.dev.peers.contains (be f.bytes 22 1) = false →
    Makes (.lortisFrameReceive) s [.lortis, .reg Adr.GANG_STATUS, .reg Adr.GANG_RXERR_CNT] (fun e =>
      e.lortis = t ∧ e.on GANG_STATUS.RX_ERR = true ∧ (e.reg Adr.GANG_RXERR_CNT).toNat = min ((s.dev.reg Adr.GANG_RXERR_CNT).toNat + 1) 0xFFFFFFFF))
  ∧ (∀ (s : State) (g : DigestBlock), s.dev.chipRuns = true → s.dev.linkHeld 27 = false → s.dev.gang.digests.find? digestReady = some g →
      bitOf g.flags 1 = false → (∀ x ∈ g.segs, bitOf x.flags 1 = false) →
      (∀ y, y < 768 → some ((g.own.getD []).getD y 0) = twinDigest g y) →
    Makes (.digestCompare) s [.gang] (fun e =>
      e.gang = { s.dev.gang with digests := s.dev.gang.digests.filter (fun x => x.b != g.b), released := e.gang.released } ∧ g.b ∈ e.gang.released))
  ∧ (∀ (s : State) (g : DigestBlock) (y : Nat), s.dev.chipRuns = true → s.dev.linkHeld 27 = false →
      s.dev.gang.digests.find? digestReady = some g → bitOf g.flags 1 = false → (∀ x ∈ g.segs, bitOf x.flags 1 = false) → y < 768 →
      some ((g.own.getD []).getD y 0) ≠ twinDigest g y → (∀ z, z < y → some ((g.own.getD []).getD z 0) = twinDigest g z) →
      s.dev.on GANG_STATUS.MISMATCH = false →
    Makes (.digestCompare) s [.gang, .reg Adr.GANG_STATUS, .reg Adr.GANG_MISMATCH_CNT, .reg Adr.GANG_MISMATCH_BLOCK_LO, .reg (Adr.GANG_MISMATCH_BLOCK_LO + 4),
        .reg Adr.GANG_MISMATCH_OUT] (fun e =>
      e.on GANG_STATUS.MISMATCH = true ∧ e.get64 Adr.GANG_MISMATCH_BLOCK_LO = g.b % 2 ^ 64 ∧ e.get GANG_MISMATCH_OUT.OUTPUT = y
      ∧ (∀ x ∈ e.gang.digests, x.b ≠ g.b)))

/-! ### Engine instructions -/

/-- The lane-by-lane vector instructions (R113, R114): VADD, VADDS, VSUB, VSUBS, VMULQ, VAND, VOR, VXOR, VANDN, VSHL, VSHR, VSRA,
VSHLS, VMIN, VMAX, VABS, VNEG, VMOV, VSAT and VCVT write each enabled lane of vd and set its OVF bit where it saturates. -/
def Obligations.LaneInstructions : Prop :=
  (∀ p ∈ ([(Instr.vadd, fun a b => (a + b, false)), (Instr.vadds, fun a b => clip (a.toInt + b.toInt)), (Instr.vsub, fun a b => (a - b,
        false)), (Instr.vsubs, fun a b => clip (a.toInt - b.toInt)), (Instr.vmulq, fun a b => clip (roundShift (a.toInt *
        b.toInt) 31)), (Instr.vand, fun a b => (a &&& b, false)), (Instr.vor, fun a b => (a ||| b, false)), (Instr.vxor, fun a b
        => (a ^^^ b, false)), (Instr.vandn, fun a b => (a &&& ~~~b, false))] : List (Op × (BitVec 32 → BitVec 32 → BitVec 32 × Bool))),
      OpA p.1 (fun w => w.f4 = 0 ∧ w.x = 0) (fun w r => SetsV (f1 w) (lanesOn r w)
        (fun l => p.2 (lane (r.getV (f2 w)) l) (lane (r.getV (f3 w)) l)) r))
  ∧ (∀ p ∈ ([(Instr.vshl, fun a n => (a <<< n, false)), (Instr.vshr, fun a n => (a >>> n, false)), (Instr.vsra, fun a n => (a.sshiftRight n,
        false)), (Instr.vshls, fun a n => clip (a.toInt * 2 ^ n))] : List (Op × (BitVec 32 → Nat → BitVec 32 × Bool))),
      OpA p.1 (fun w => w.f4 = 0 ∧ (if w.x.getLsbD 5 then w.f3 = 0 ∧ w.below 6 else w.x = 0)) (fun w r => SetsV (f1 w) (lanesOn r w)
        (fun l => p.2 (lane (r.getV (f2 w)) l) (if w.x.getLsbD 5 then w.xs 0 5 else (lane (r.getV (f3 w)) l).toNat % 32)) r))
  ∧ (OpA .vmin (fun w => w.f4 = 0 ∧ w.below 1) (fun w r => SetsV (f1 w) (lanesOn r w) (fun l =>
        (if (if w.x.getLsbD 0 then (lane (r.getV (f3 w)) l).ult (lane (r.getV (f2 w)) l)
        else (lane (r.getV (f3 w)) l).slt (lane (r.getV (f2 w)) l)) then lane (r.getV (f3 w)) l else lane (r.getV (f2 w)) l, false)) r))
  ∧ (OpA .vmax (fun w => w.f4 = 0 ∧ w.below 1) (fun w r => SetsV (f1 w) (lanesOn r w) (fun l =>
        (if (if w.x.getLsbD 0 then (lane (r.getV (f2 w)) l).ult (lane (r.getV (f3 w)) l)
        else (lane (r.getV (f2 w)) l).slt (lane (r.getV (f3 w)) l)) then lane (r.getV (f3 w)) l else lane (r.getV (f2 w)) l, false)) r))
  ∧ (∀ p ∈ ([(Instr.vabs, fun a => clip (a.toInt.natAbs : Int)), (Instr.vneg, fun a => clip (-a.toInt)), (Instr.vmov, fun a => (a, false))] : List (Op × (BitVec 32 → BitVec 32 × Bool))),
      OpA p.1 (fun w => w.f3 = 0 ∧ w.f4 = 0 ∧ w.x = 0) (fun w r => SetsV (f1 w) (lanesOn r w)
        (fun l => p.2 (lane (r.getV (f2 w)) l)) r))
  ∧ (OpA .vsat (fun w => w.f3 = 0 ∧ w.f4 = 0 ∧ w.below 5 ∧ w.x ≠ 0) (fun w r => SetsV (f1 w) (lanesOn r w) (fun l =>
        let z := (lane (r.getV (f2 w)) l).toInt
        (BitVec.ofInt 32 (max (-2 ^ w.xs 0 5) (min (2 ^ w.xs 0 5 - 1) z)), decide (z < -2 ^ w.xs 0 5 ∨ 2 ^ w.xs 0 5 ≤ z))) r))
  ∧ (OpA .vcvt (fun w => w.f3 = 0 ∧ w.f4 = 0 ∧ w.x.toNat < 7) (fun w r => SetsV (f1 w) (lanesOn r w) (fun l =>
        let a := lane (r.getV (f2 w)) l
        match w.x.toNat with
        | 0 => ((a.setWidth 16).signExtend 32, false)
        | 1 => ((a.setWidth 24).signExtend 32, false)
        | 2 => (BitVec.ofNat 32 (a.toNat % 2 ^ 16 * 2 ^ 16), false)
        | 3 => (BitVec.ofNat 32 (a.toNat % 2 ^ 24 * 2 ^ 8), false)
        | 4 => (BitVec.ofInt 32 (max (-2 ^ 15) (min (2 ^ 15 - 1) (roundShift a.toInt 16))),
            decide (roundShift a.toInt 16 < -2 ^ 15 ∨ 2 ^ 15 ≤ roundShift a.toInt 16))
        | 5 => (BitVec.ofInt 32 (max (-2 ^ 23) (min (2 ^ 23 - 1) (roundShift a.toInt 8))),
            decide (roundShift a.toInt 8 < -2 ^ 23 ∨ 2 ^ 23 ≤ roundShift a.toInt 8))
        | _ => (a.extractLsb' 0 8 ++ a.extractLsb' 8 8 ++ a.extractLsb' 16 8 ++ a.extractLsb' 24 8, false)) r))

/-- NOP, VSEL, VCMP, VBCAST, VSWZ, VACS, VCMUL and BFLY4 (R105, R113, R115 to R118): lanes selected, compared, broadcast, permuted,
added with a decision kept, multiplied as complex elements, and transformed; NOP changes no register, in either slot and on PE. -/
def Obligations.PermuteInstructions : Prop :=
  (OpA .vsel (fun w => w.f4 = 0 ∧ w.x = 0) (fun w r => SetsV (f1 w) (fun _ => true) (fun l => (if lanesOn r w l
        then lane (r.getV (f2 w)) l else lane (r.getV (f3 w)) l, false)) r))
  ∧ (OpA .vcmp (fun w => w.f4 = 0 ∧ f1 w < 8 ∧ w.x.toNat < 6) (fun w r t => SetsK (f1 w) (t.getK (f1 w)) r t ∧ ∀ l : Fin 32,
        let a := lane (r.getV (f2 w)) l
        let b := lane (r.getV (f3 w)) l
        (t.getK (f1 w)).getLsbD l = (lanesOn r w l && (match w.x.toNat with
          | 0 => a == b
          | 1 => a != b
          | 2 => a.slt b
          | 3 => a.sle b
          | 4 => a.ult b
          | _ => a.ule b))))
  ∧ (OpA .vbcast (fun w => w.f3 = 0 ∧ w.f4 = 0 ∧ w.x = 0) (fun w r => SetsV (f1 w) (lanesOn r w)
        (fun _ => ((r.getS (f2 w)).setWidth 32, false)) r))
  ∧ (OpA .vswz (fun w => w.f3 = 0 ∧ w.f4 = 0 ∧ w.below 5) (fun w r => SetsV (f1 w) (lanesOn r w)
        (fun l => (lane (r.getV (f2 w)) (l ^^^ w.xs 0 5), false)) r))
  ∧ (OpA .vacs (fun w => w.below 8) (fun w r t => t = { r with v := t.v, ovf := t.ovf, d := t.d }
        ∧ (∀ l : Fin 32,
          let a := clip ((lane (r.getV (f2 w)) l).toInt + (lane (r.getV (f3 w)) l).toInt)
          let b := clip ((lane (r.getV (f4 w)) l).toInt + (lane (r.getV (w.xs 0 5)) l).toInt)
          let sel := if w.x.getLsbD 7 then b.1.slt a.1 else a.1.slt b.1
          lane (t.getV (f1 w)) l = (if lanesOn r w l then (if sel then b.1 else a.1) else lane (r.getV (f1 w)) l)
            ∧ t.ovf.getLsbD l = (r.ovf.getLsbD l || (lanesOn r w l && (a.2 || b.2)))
            ∧ lane (t.getD (w.xs 5 2)) l = (if lanesOn r w l
        then BitVec.ofNat 32 (2 * (lane (r.getD (w.xs 5 2)) l).toNat + (if sel then 1 else 0))
                else lane (r.getD (w.xs 5 2)) l))
        ∧ (∀ j : Fin 32, j.val ≠ f1 w → t.getV j = r.getV j) ∧ ∀ j : Fin 4, j.val ≠ w.xs 5 2 → t.getD j = r.getD j))
  ∧ (OpA .vcmul (fun w => w.f4 = 0 ∧ w.below 1) (fun w r => SetsV (f1 w) (pairsOn r w) (fun l =>
        clip (roundShift (cxPart (cxMul (w.x.getLsbD 0) (cx (r.getV (f2 w)) (l / 2)) (cx (r.getV (f3 w)) (l / 2))) l) 31)) r))
  ∧ (OpA .bfly4 (fun w => w.f3 = 0 ∧ w.f4 = 0 ∧ w.below 3 ∧ w.xs 0 2 ≠ 3 ∧ f1 w % 4 = 0 ∧ f2 w % 4 = 0)
        (fun w r t => t = { r with v := t.v, ovf := t.ovf }
        ∧ (∀ l : Fin 32,
          let y := fun i => clip (roundShift (cxPart (bfly (w.x.getLsbD 2) (fun n => cx (r.getV (f2 w + n)) (l / 2)) i) l) (w.xs 0 2))
          (∀ i : Fin 4, lane (t.getV (f1 w + i)) l = if pairsOn r w l then (y i).1 else lane (r.getV (f1 w + i)) l)
            ∧ t.ovf.getLsbD l = (r.ovf.getLsbD l || (pairsOn r w l && ((y 0).2 || (y 1).2 || (y 2).2 || (y 3).2))))
        ∧ ∀ j : Fin 32, j.val / 4 ≠ f1 w / 4 → t.getV j = r.getV j))
  ∧ (OpA .nop (fun w => w.f1 = 0 ∧ w.f2 = 0 ∧ w.f3 = 0 ∧ w.f4 = 0 ∧ w.k = 0 ∧ w.x = 0) (fun _ r t => t = r))
  ∧ (OpB .nop (fun w => w.f1 = 0 ∧ w.f2 = 0 ∧ w.f3 = 0 ∧ w.f4 = 0 ∧ w.k = 0 ∧ w.x = 0) (fun _ => []) (fun _ _ r t => t = r))
  ∧ (OpPe .nop (fun w => w.f1 = 0 ∧ w.f2 = 0 ∧ w.f3 = 0 ∧ w.f4 = 0 ∧ w.k = 0 ∧ w.x = 0) (fun _ r t => t = r))

/-- VMAC, VMAC2, VCMAC, ACLR, AMOV, AADD, AADDV and NARW (R67, R69, R70, R71, R115, R116, R119): each adds to the enabled lanes of
an accumulator, sets them or narrows them, with WRAP, LOST and OVF as the lane arithmetic says; that arithmetic is modulo 2^80
with a count of wraps, and narrowing rounds to the nearest, ties to even. -/
def Obligations.AccumulatorInstructions : Prop :=
  (∀ (z : Int) (n : Nat), Nearest z n (roundShift z n))
  ∧ (∀ (l : Acc84) (z : Int), Adds l z (l.add z))
  ∧ (∀ l a : Acc84, a.wc ≠ 8 → Adds l (a.v.toInt + a.wc.toInt * 2 ^ 80) (l.addAcc a))
  ∧ (∀ l a : Acc84, a.wc = 8 → l.addAcc a = if l.wc = 8 then ⟨l, false, false⟩ else ⟨⟨if a.v.getLsbD 0 then 1 else 0, 8⟩, true, true⟩)
  ∧ (∀ (l : Acc84) (n i : Nat), i < 3 → Narrows l n (16 * i + 16) (l.narrow n (16 * i + 16)))
  ∧ (OpA .vmac (fun w => w.f4 = 0 ∧ f1 w < 8 ∧ w.below 2) (fun w r => SetsA (f1 w) (lanesOn r w) (fun l => (lane (r.getA (f1 w)) l).add
        ((if w.x.getLsbD 0 then -1 else 1) * (if w.x.getLsbD 1
        then ((lane (r.getV (f2 w)) l).toNat : Int) * (lane (r.getV (f3 w)) l).toNat
        else (lane (r.getV (f2 w)) l).toInt * (lane (r.getV (f3 w)) l).toInt))) r))
  ∧ (OpA .vmac2 (fun w => f1 w < 8 ∧ w.below 6) (fun w r => SetsA (f1 w) (lanesOn r w) (fun l => (lane (r.getA (f1 w)) l).add
        ((if w.x.getLsbD 5 then -1
        else 1) * ((lane (r.getV (f2 w)) l).toInt * (lane (r.getV (f3 w)) l).toInt + (lane (r.getV (f4 w)) l).toInt * (lane (r.getV (w.xs 0 5)) l).toInt))) r))
  ∧ (OpA .vcmac (fun w => w.f4 = 0 ∧ f1 w < 8 ∧ w.below 2) (fun w r => SetsA (f1 w) (pairsOn r w) (fun l => (lane (r.getA (f1 w)) l).add
        ((if w.x.getLsbD 1 then -1
        else 1) * cxPart (cxMul (w.x.getLsbD 0) (cx (r.getV (f2 w)) (l / 2)) (cx (r.getV (f3 w)) (l / 2))) l)) r))
  ∧ (OpA .aaddv (fun w => w.f3 = 0 ∧ w.f4 = 0 ∧ f1 w < 8 ∧ w.below 6) (fun w r => SetsA (f1 w) (lanesOn r w)
        (fun l => (lane (r.getA (f1 w)) l).add
        ((lane (r.getV (f2 w)) l).toInt * 2 ^ w.xs 0 6)) r))
  ∧ (OpA .amov (fun w => w.f3 = 0 ∧ w.f4 = 0 ∧ f1 w < 8 ∧ w.below 6) (fun w r => SetsA (f1 w) (lanesOn r w)
        (fun l => Acc84.zero.add ((lane (r.getV (f2 w)) l).toInt * 2 ^ w.xs 0 6)) r))
  ∧ (OpA .aadd (fun w => w.f3 = 0 ∧ w.f4 = 0 ∧ f1 w < 8 ∧ f2 w < 8 ∧ w.x = 0) (fun w r => SetsA (f1 w) (lanesOn r w)
        (fun l => (lane (r.getA (f1 w)) l).addAcc (lane (r.getA (f2 w)) l)) r))
  ∧ (OpA .aclr (fun w => w.f2 = 0 ∧ w.f3 = 0 ∧ w.f4 = 0 ∧ f1 w < 8 ∧ w.x = 0) (fun w r => SetsA (f1 w) (lanesOn r w)
        (fun _ => ⟨⟨0, 0⟩, false, false⟩) r))
  ∧ (OpA .narw (fun w => w.f3 = 0 ∧ w.f4 = 0 ∧ f2 w < 8 ∧ w.below 8 ∧ w.xs 6 2 ≠ 3 ∧ (w.xs 6 2 = 2 → f1 w % 2 = 0))
        (fun w r t => t = { r with v := t.v, ovf := t.ovf, lost := t.lost }
        ∧ (∀ l : Fin 32,
          let n := (lane (r.getA (f2 w)) l).narrow (w.xs 0 6) (16 * w.xs 6 2 + 16)
          lane (t.getV (f1 w)) l = (if lanesOn r w l then BitVec.ofInt 32 n.v else lane (r.getV (f1 w)) l)
            ∧ (w.xs 6 2 = 2 → lane (t.getV (f1 w + 1)) l = if lanesOn r w l then BitVec.ofInt 32 (n.v / 2 ^ 32)
        else lane (r.getV (f1 w + 1)) l)
            ∧ t.ovf.getLsbD l = (r.ovf.getLsbD l || (lanesOn r w l && n.ovf))
        ∧ t.lost.getLsbD l = (r.lost.getLsbD l || (lanesOn r w l && n.lost)))
        ∧ ∀ j : Fin 32, j.val ≠ f1 w → ¬(w.xs 6 2 = 2 ∧ j.val = f1 w + 1) → t.getV j = r.getV j))

/-- The scalar instructions ADD, SUB, AND, OR, XOR, SLL, SRL, SRA, MUL, MULH, SLT, SLTU, SEQ, ADDI, LI, SHI and the lane-0 SMAC and
NARS (R62, R109, R120, R138, R148): on a render engine and on PE, each reads the registers before its bundle and writes its
destination. -/
def Obligations.ScalarInstructions : Prop :=
  (∀ p ∈ ([(Instr.add, fun a b => a + b), (Instr.sub, fun a b => a - b), (Instr.and, fun a b => a &&& b), (Instr.or, fun a b => a ||| b),
        (Instr.xor, fun a b => a ^^^ b), (Instr.sll, fun a b => a <<< (b.toNat % 64)), (Instr.srl, fun a b => a >>> (b.toNat %
        64)), (Instr.sra, fun a b => a.sshiftRight (b.toNat % 64)), (Instr.mul, fun a b => a * b), (Instr.mulh, fun a b =>
        BitVec.ofInt 64 (a.toInt * b.toInt / 2 ^ 64)), (Instr.slt, fun a b => if a.slt b then 1 else 0), (Instr.sltu, fun a b =>
        if a.ult b then 1 else 0), (Instr.seq, fun a b => if a = b then 1 else 0)] : List (Op × (BitVec 64 → BitVec 64 → BitVec 64))),
      OpB p.1 (fun w => w.f4 = 0 ∧ w.k = 0 ∧ w.x = 0) (fun w => [(0, f1 w)])
        (fun w o r t => SetsS (f1 w) (p.2 (o.getS (f2 w)) (o.getS (f3 w))) r t)
      ∧ OpPe p.1 (fun w => w.f4 = 0 ∧ w.k = 0 ∧ w.x = 0) (fun w r t => SetsS (f1 w) (p.2 (r.getS (f2 w)) (r.getS (f3 w))) r t))
  ∧ (OpB .addi (fun w => w.f3 = 0 ∧ w.f4 = 0 ∧ w.k = 0 ∧ w.below 24) (fun w => [(0, f1 w)])
        (fun w o r t => SetsS (f1 w) (o.getS (f2 w) + w.simm) r t))
  ∧ (OpPe .addi (fun w => w.f3 = 0 ∧ w.f4 = 0 ∧ w.k = 0 ∧ w.below 24) (fun w r t => SetsS (f1 w) (r.getS (f2 w) + w.simm) r t))
  ∧ (OpB .li (fun w => w.f2 = 0 ∧ w.f3 = 0 ∧ w.f4 = 0 ∧ w.k = 0 ∧ w.below 26 ∧ w.xs 24 2 < 3 ∧ (w.xs 24 2 = 2 → w.xs 16 8 = 0))
        (fun w => [(0, f1 w)]) (fun w o r t => SetsS (f1 w) (t.getS (f1 w)) r t
        ∧ (f1 w ≠ 0 → ∀ i : Fin 64, (t.getS (f1 w)).getLsbD i
          = if 24 * w.xs 24 2 ≤ i.val ∧ i.val < 24 * w.xs 24 2 + 24 then w.x.getLsbD (i.val - 24 * w.xs 24 2)
        else (o.getS (f1 w)).getLsbD i)))
  ∧ (OpPe .li (fun w => w.f2 = 0 ∧ w.f3 = 0 ∧ w.f4 = 0 ∧ w.k = 0 ∧ w.below 26 ∧ w.xs 24 2 < 3 ∧ (w.xs 24 2 = 2 → w.xs 16 8 = 0))
        (fun w r t => SetsS (f1 w) (t.getS (f1 w)) r t
        ∧ (f1 w ≠ 0 → ∀ i : Fin 64, (t.getS (f1 w)).getLsbD i
          = if 24 * w.xs 24 2 ≤ i.val ∧ i.val < 24 * w.xs 24 2 + 24 then w.x.getLsbD (i.val - 24 * w.xs 24 2)
        else (r.getS (f1 w)).getLsbD i)))
  ∧ (OpB .shi (fun w => w.f3 = 0 ∧ w.f4 = 0 ∧ w.k = 0 ∧ w.below 8 ∧ w.xs 6 2 < 3) (fun w => [(0, f1 w)]) (fun w o r t => SetsS (f1 w)
        (match w.xs 6 2 with
          | 0 => (o.getS (f2 w)) <<< w.xs 0 6
          | 1 => (o.getS (f2 w)) >>> w.xs 0 6
          | _ => (o.getS (f2 w)).sshiftRight (w.xs 0 6)) r t))
  ∧ (OpPe .shi (fun w => w.f3 = 0 ∧ w.f4 = 0 ∧ w.k = 0 ∧ w.below 8 ∧ w.xs 6 2 < 3) (fun w r t => SetsS (f1 w)
        (match w.xs 6 2 with
          | 0 => (r.getS (f2 w)) <<< w.xs 0 6
          | 1 => (r.getS (f2 w)) >>> w.xs 0 6
          | _ => (r.getS (f2 w)).sshiftRight (w.xs 0 6)) r t))
  ∧ (OpB .smac (fun w => f1 w < 8 ∧ w.f4 = 0 ∧ w.k = 0 ∧ w.x = 0) (fun w => [(2, f1 w)]) (fun w o r t => SetsA (f1 w) (fun l => l == 0)
        (fun _ => (lane (o.getA (f1 w)) 0).add (((o.getS (f2 w)).setWidth 32).toInt * ((o.getS (f3 w)).setWidth 32).toInt)) r t))
  ∧ (OpB .nars (fun w => f2 w < 8 ∧ w.f3 = 0 ∧ w.f4 = 0 ∧ w.k = 0 ∧ w.below 14 ∧ w.xs 6 2 < 3)
        (fun w => [(0, f1 w)] ++ (if w.x.getLsbD 13 then [(2, f2 w)] else []))
        (fun w o r t => t = { r with s := t.s, a := t.a, ovf := t.ovf, lost := t.lost }
        ∧ SetsS (f1 w) (BitVec.ofInt 64 ((lane (o.getA (f2 w)) (w.xs 8 5)).narrow (w.xs 0 6) (16 * w.xs 6 2 + 16)).v) r { r with s := t.s }
        ∧ (∀ j : Fin 8, ∀ l : Fin 32, lane (t.getA j) l
          = if w.x.getLsbD 13 ∧ j.val = f2 w ∧ l.val = w.xs 8 5 then ⟨0, 0⟩ else lane (r.getA j) l)
        ∧ ∀ l : Fin 32, t.ovf.getLsbD l = (r.ovf.getLsbD l || (l.val == w.xs 8 5 && ((lane (o.getA (f2 w)) (w.xs 8 5)).narrow (w.xs 0 6) (16 * w.xs 6 2 + 16)).ovf))
          ∧ t.lost.getLsbD l = (r.lost.getLsbD l || (l.val == w.xs 8 5 && ((lane (o.getA (f2 w)) (w.xs 8 5)).narrow (w.xs 0 6) (16 * w.xs 6 2 + 16)).lost))))
  ∧ (OpPe .smac (fun w => w.f1 = 0 ∧ w.f4 = 0 ∧ w.k = 0 ∧ w.x = 0) (fun w r t => t = { r with a := t.a }
        ∧ ∀ j : Fin 8, ∀ l : Fin 32, lane (t.getA j) l = if j.val = 0 ∧ l.val = 0 then
          ((lane (r.getA 0) 0).add (((r.getS (f2 w)).setWidth 32).toInt * ((r.getS (f3 w)).setWidth 32).toInt)).l
        else lane (r.getA j) l))
  ∧ (OpPe .nars (fun w => w.f2 = 0 ∧ w.f3 = 0 ∧ w.f4 = 0 ∧ w.k = 0 ∧ w.below 14 ∧ w.xs 6 2 < 3 ∧ w.xs 8 5 = 0)
        (fun w r t => t = { r with s := t.s, a := t.a }
        ∧ SetsS (f1 w) (BitVec.ofInt 64 ((lane (r.getA 0) 0).narrow (w.xs 0 6) (16 * w.xs 6 2 + 16)).v) r { r with s := t.s }
        ∧ ∀ j : Fin 8, ∀ l : Fin 32, lane (t.getA j) l = if w.x.getLsbD 13 ∧ j.val = 0 ∧ l.val = 0 then ⟨0, 0⟩ else lane (r.getA j) l))

/-- CSET, CGET, CADD, KSET, KGET, VEXT, VINS, VCLS, DGET and DCLR (R65, R120): the moves between scalars, circular pointers, masks,
lanes and decision registers; CADD advances INDEX modulo the length; VCLS gives the least headroom of the enabled lanes. -/
def Obligations.MoveInstructions : Prop :=
  (OpB .cset (fun w => f1 w < 8 ∧ w.f3 = 0 ∧ w.f4 = 0 ∧ w.k = 0 ∧ w.x = 0) (fun w => [(4, f1 w)])
        (fun w o r t => SetsC (f1 w) (o.getS (f2 w)) r t))
  ∧ (OpB .cget (fun w => f2 w < 8 ∧ w.f3 = 0 ∧ w.f4 = 0 ∧ w.k = 0 ∧ w.x = 0) (fun w => [(0, f1 w)])
        (fun w o r t => SetsS (f1 w) (o.getC (f2 w)) r t))
  ∧ (OpB .cadd (fun w => f1 w < 8 ∧ w.f3 = 0 ∧ w.f4 = 0 ∧ w.k = 0 ∧ w.below 24) (fun w => [(4, f1 w)])
        (fun w o r t => SetsC (f1 w) (t.getC (f1 w)) r t
        ∧ (t.getC (f1 w)).toNat % 2 ^ 32 = (o.getC (f1 w)).toNat % 2 ^ 32
        ∧ (t.getC (f1 w)).toNat / 2 ^ 55 = (o.getC (f1 w)).toNat / 2 ^ 55
        ∧ (cIndex (t.getC (f1 w)) : Int) = ((cIndex (o.getC (f1 w)) : Int) + (o.getS (f2 w)).toInt + w.simm.toInt)
            % (if cLegal (o.getC (f1 w)) ∧ cLen (o.getC (f1 w)) ≠ 0 then 2 ^ cLen (o.getC (f1 w)) else 2 ^ 23)))
  ∧ (OpB .kset (fun w => f1 w < 8 ∧ w.f3 = 0 ∧ w.f4 = 0 ∧ w.k = 0 ∧ w.x = 0) (fun w => [(3, f1 w)])
        (fun w o r t => SetsK (f1 w) ((o.getS (f2 w)).setWidth 32) r t))
  ∧ (OpB .kget (fun w => f2 w < 8 ∧ w.f3 = 0 ∧ w.f4 = 0 ∧ w.k = 0 ∧ w.x = 0) (fun w => [(0, f1 w)])
        (fun w o r t => SetsS (f1 w) ((o.getK (f2 w)).setWidth 64) r t))
  ∧ (OpB .vext (fun w => w.f3 = 0 ∧ w.f4 = 0 ∧ w.k = 0 ∧ w.below 5) (fun w => [(0, f1 w)])
        (fun w o r t => SetsS (f1 w) ((lane (o.getV (f2 w)) (w.xs 0 5)).signExtend 64) r t))
  ∧ (OpB .vins (fun w => w.f3 = 0 ∧ w.f4 = 0 ∧ w.k = 0 ∧ w.below 5) (fun w => [(1, f1 w)]) (fun w o r t => SetsV (f1 w)
        (fun l => l == w.xs 0 5) (fun _ => ((o.getS (f2 w)).setWidth 32, false)) r t))
  ∧ (OpB .vcls (fun w => w.f3 = 0 ∧ w.f4 = 0 ∧ w.x = 0) (fun w => [(0, f1 w)]) (fun w o r t => SetsS (f1 w) (t.getS (f1 w)) r t
        ∧ (f1 w ≠ 0 → let n := (t.getS (f1 w)).toNat
          let fits := fun (l n : Nat) => decide (-2 ^ (31 - n) ≤ (lane (o.getV (f2 w)) l).toInt
        ∧ (lane (o.getV (f2 w)) l).toInt < 2 ^ (31 - n))
          n ≤ 31 ∧ (∀ l : Fin 32, lanesOn o w l = true → fits l n = true)
            ∧ (n = 31 ∨ ∃ l : Fin 32, lanesOn o w l = true ∧ fits l (n + 1) = false))))
  ∧ (OpB .dget (fun w => f2 w < 4 ∧ w.f3 = 0 ∧ w.f4 = 0 ∧ w.k = 0 ∧ w.below 5) (fun w => [(0, f1 w)])
        (fun w o r t => SetsS (f1 w) ((lane (o.getD (f2 w)) (w.xs 0 5)).setWidth 64) r t))
  ∧ (OpB .dclr (fun w => f1 w < 4 ∧ w.f2 = 0 ∧ w.f3 = 0 ∧ w.f4 = 0 ∧ w.k = 0 ∧ w.x = 0) (fun w => [(5, f1 w)])
        (fun w o r t => t = { r with d := t.d } ∧ ∀ j : Fin 4, ∀ l : Fin 32, lane (t.getD j) l = if j.val = f1 w then 0
        else lane (r.getD j) l))

/-- LD, ST, VLD, VST and TAPMOVE (R65, R121 to R124, R137, R148, R527): loads and stores of scalars and of enabled lanes in the room
and, for PE, in porch SRAM; the far forms are requests of the fabric. -/
def Obligations.LoadsAndStores : Prop :=
  (∀ (s : State) (k : EngIx) (c : CtxIx) (w : SlotWord) (a n : Nat), OpensB s.dev k c → w.slot = .b →
      w.f3 = 0 ∧ w.f4 = 0 ∧ w.k = 0 ∧ w.below 27 → (s.dev.ctxAt k c).unwritten 0 (f1 w) → (s.dev.ctxAt k c).goesOn →
      sumAddr (s.dev.ctxAt k c).before (f2 w) w = a → n = 2 ^ w.xs 24 2 → a % n = 0 → a + n ≤ 0x800000 → RoomGood s.dev k a n →
    Makes (.ld (.re k) w) s [.eng, .reg (Adr.ENG_CYCLES_LO k), .reg (Adr.ENG_CYCLES_LO k + 4)] (fun e =>
      (let x := s.dev.ctxAt k c
        let y := e.ctxAt k c
        let o := x.before
        let r := x.r
        let t := y.r.withPc x.r.pc
        Spares s.dev e k c ∧ (e.engAt k).hallIn = (s.dev.engAt k).hallIn ∧ AfterB x y
        ∧ SetsS (f1 w)
          (if w.x.getLsbD 26 then BitVec.ofNat 64 (ofBytes (s.dev.bytesAt (roomAddr k a) n)) else (BitVec.ofNat (8 * n) (ofBytes (s.dev.bytesAt (roomAddr k a) n))).signExtend 64) r t)))
  ∧ (∀ (s : State) (k : EngIx) (c : CtxIx) (w : SlotWord) (a n : Nat), OpensB s.dev k c → w.slot = .b →
      w.f3 = 0 ∧ w.f4 = 0 ∧ w.k = 0 ∧ w.below 28 ∧ w.x.getLsbD 27 = true → (s.dev.ctxAt k c).unwritten 0 (f1 w) →
      (s.dev.ctxAt k c).rep = none → (s.dev.ctxAt k c).goesOn → sumAddr (s.dev.ctxAt k c).before (f2 w) w = a → n = 2 ^ w.xs 24 2 →
      (s.dev.ctxAt k c).priv = true ∨ s.dev.inRegion k a n false = true → pantryBase ≤ a → a + n ≤ pantryBase + 0x4000000 →
      a % n = 0 → s.dev.isolated (a % pantryBase / 0x800000) = false → s.dev.masterHeld k = false →
      (∀ q ∈ s.dev.fab.outs, q.master ≠ k.val) → (∀ q ∈ s.dev.fab.held, q.master ≠ k.val) →
      (∀ u ∈ unitsOf a n, unitState s.dev.ecc u = .clean) →
    Makes (.ld (.re k) w) s [.eng, .fab, .reg (Adr.ENG_CYCLES_LO k), .reg (Adr.ENG_CYCLES_LO k + 4)] (fun e =>
      (let x := s.dev.ctxAt k c
        let y := e.ctxAt k c
        let o := x.before
        let r := x.r
        let t := y.r.withPc x.r.pc
        Spares s.dev e k c ∧ (e.engAt k).hallIn = (s.dev.engAt k).hallIn ∧ AfterB { x with farLoad := some 0 } y
        ∧ t = r ∧ e.fab = { s.dev.fab with outs := s.dev.fab.outs
            ++ [⟨k, 0, a % pantryBase / 0x800000, a, false, n, .farLoad k c (f1 w) (!w.x.getLsbD 26), some (.okay, s.dev.bytesAt a n), false⟩] })))
  ∧ (∀ (s : State) (k : EngIx) (c : CtxIx) (w : SlotWord) (a n : Nat), OpensB s.dev k c → w.slot = .b →
      w.f3 = 0 ∧ w.f4 = 0 ∧ w.k = 0 ∧ w.below 26 → (s.dev.ctxAt k c).goesOn → sumAddr (s.dev.ctxAt k c).before (f1 w) w = a →
      n = 2 ^ w.xs 24 2 → a % n = 0 → a + n ≤ 0x800000 → RoomGood s.dev k a n → s.dev.on ECC_INJ_CTRL.ARM = false →
    Makes (.st (.re k) w) s [.eng, .mem, .ecc, .reg (Adr.ENG_CYCLES_LO k), .reg (Adr.ENG_CYCLES_LO k + 4)] (fun e =>
      (let x := s.dev.ctxAt k c
        let y := e.ctxAt k c
        let o := x.before
        let r := x.r
        let t := y.r.withPc x.r.pc
        Spares s.dev e k c ∧ (e.engAt k).hallIn = (s.dev.engAt k).hallIn ∧ AfterB x y
        ∧ t = r ∧ ∀ j, e.byteAt j = if roomAddr k a ≤ j ∧ j < roomAddr k a + n then BitVec.ofNat 8 ((o.getS (f2 w)).toNat / 256 ^ (j - roomAddr k a)) else s.dev.byteAt j)))
  ∧ (∀ (s : State) (k : EngIx) (c : CtxIx) (w : SlotWord) (a n : Nat), OpensB s.dev k c → w.slot = .b →
      w.f3 = 0 ∧ w.f4 = 0 ∧ w.k = 0 ∧ w.below 28 ∧ w.x.getLsbD 27 = true ∧ w.x.getLsbD 26 = false → (s.dev.ctxAt k c).rep = none →
      (s.dev.ctxAt k c).goesOn → sumAddr (s.dev.ctxAt k c).before (f1 w) w = a → n = 2 ^ w.xs 24 2 →
      (s.dev.ctxAt k c).priv = true ∨ s.dev.inRegion k a n true = true → pantryBase ≤ a → a + n ≤ pantryBase + 0x4000000 → a % n = 0 →
      s.dev.isolated (a % pantryBase / 0x800000) = false → s.dev.masterHeld k = false → (∀ q ∈ s.dev.fab.outs, q.master ≠ k.val) →
      (∀ q ∈ s.dev.fab.held, q.master ≠ k.val) → (∀ u ∈ unitsOf a n, unitState s.dev.ecc u = .clean) →
      s.dev.on ECC_INJ_CTRL.ARM = false → s.dev.poolTouched a n = [] →
    Makes (.st (.re k) w) s [.eng, .fab, .mem, .ecc, .reg (Adr.ENG_CYCLES_LO k), .reg (Adr.ENG_CYCLES_LO k + 4)] (fun e =>
      (let x := s.dev.ctxAt k c
        let y := e.ctxAt k c
        let o := x.before
        let r := x.r
        let t := y.r.withPc x.r.pc
        Spares s.dev e k c ∧ (e.engAt k).hallIn = (s.dev.engAt k).hallIn ∧ AfterB x y
        ∧ t = r ∧ e.fab = { s.dev.fab with
            outs := s.dev.fab.outs ++ [⟨k, 0, a % pantryBase / 0x800000, a, true, n, .farStore k c, some (.okay, []), false⟩] } ∧ ∀ j, e.byteAt j = if a ≤ j ∧ j < a + n then BitVec.ofNat 8 ((o.getS (f2 w)).toNat / 256 ^ (j - a)) else s.dev.byteAt j)))
  ∧ (∀ (s : State) (k : EngIx) (c : CtxIx) (w : SlotWord), OpensB s.dev k c → w.slot = .b →
      w.f4 = 0 ∧ w.xs 24 2 < 3 ∧ (if w.xs 24 2 = 0 then w.f3 = 0 else w.f2 = 0 ∧ f3 w < 8) ∧ w.below 27 →
      (s.dev.ctxAt k c).unwritten 1 (f1 w) → (s.dev.ctxAt k c).goesOn →
      w.xs 24 2 = 0 ∨ cLegal ((s.dev.ctxAt k c).before.getC (f3 w)) = true → vAddr (s.dev.ctxAt k c).before w 0 % 4 = 0 →
      0 ≤ vAddr (s.dev.ctxAt k c).before w 0 → vAddr (s.dev.ctxAt k c).before w 0 < 0x800000 →
      (∀ l : Fin 32, lanesOn (s.dev.ctxAt k c).before w l = true → 0 ≤ vAddr (s.dev.ctxAt k c).before w (if w.x.getLsbD 26 then 0 else 4 * (l.val : Int)) ∧ vAddr (s.dev.ctxAt k c).before w (if w.x.getLsbD 26 then 0 else 4 * (l.val : Int)) < 0x800000
        ∧ RoomGood s.dev k (vAddr (s.dev.ctxAt k c).before w (if w.x.getLsbD 26 then 0 else 4 * (l.val : Int))).toNat 4) →
      (w.xs 24 2 = 2 → (s.dev.ctxAt k c).unwritten 4 (f3 w)) →
    Makes (.vld (.re k) w) s [.eng, .reg (Adr.ENG_CYCLES_LO k), .reg (Adr.ENG_CYCLES_LO k + 4)] (fun e =>
      (let x := s.dev.ctxAt k c
        let y := e.ctxAt k c
        let o := x.before
        let r := x.r
        let t := y.r.withPc x.r.pc
        Spares s.dev e k c ∧ (e.engAt k).hallIn = (s.dev.engAt k).hallIn ∧ AfterB x y
        ∧ SetsV (f1 w) (lanesOn o w) (fun l => (roomWord s.dev k (vAddr o w (if w.x.getLsbD 26 then 0 else 4 * ((l : Nat) : Int))).toNat, false)) r { t with c := r.c }
        ∧ (if w.xs 24 2 = 2 then SetsC (f3 w) (cStep (o.getC (f3 w)) w.simm.toInt) r { r with c := t.c } else t.c = r.c))))
  ∧ (∀ (s : State) (k : EngIx) (c : CtxIx) (w : SlotWord), OpensB s.dev k c → w.slot = .b →
      w.f4 = 0 ∧ w.xs 24 2 < 3 ∧ (if w.xs 24 2 = 0 then w.f3 = 0 else w.f2 = 0 ∧ f3 w < 8) ∧ w.below 26 → (s.dev.ctxAt k c).goesOn →
      w.xs 24 2 = 0 ∨ cLegal ((s.dev.ctxAt k c).before.getC (f3 w)) = true → vAddr (s.dev.ctxAt k c).before w 0 % 4 = 0 →
      0 ≤ vAddr (s.dev.ctxAt k c).before w 0 → vAddr (s.dev.ctxAt k c).before w 0 < 0x800000 →
      (∀ l : Fin 32, lanesOn (s.dev.ctxAt k c).before w l = true → 0 ≤ vAddr (s.dev.ctxAt k c).before w (4 * (l.val : Int)) ∧ vAddr (s.dev.ctxAt k c).before w (4 * (l.val : Int)) < 0x800000
        ∧ RoomGood s.dev k (vAddr (s.dev.ctxAt k c).before w (4 * (l.val : Int))).toNat 4) →
      (∀ l m : Fin 32, lanesOn (s.dev.ctxAt k c).before w l = true → lanesOn (s.dev.ctxAt k c).before w m = true → vAddr (s.dev.ctxAt k c).before w (4 * (l.val : Int)) = vAddr (s.dev.ctxAt k c).before w (4 * (m.val : Int)) → l = m) →
      s.dev.on ECC_INJ_CTRL.ARM = false → (w.xs 24 2 = 2 → (s.dev.ctxAt k c).unwritten 4 (f3 w)) →
    Makes (.vst (.re k) w) s [.eng, .mem, .ecc, .reg (Adr.ENG_CYCLES_LO k), .reg (Adr.ENG_CYCLES_LO k + 4)] (fun e =>
      (let x := s.dev.ctxAt k c
        let y := e.ctxAt k c
        let o := x.before
        let r := x.r
        let t := y.r.withPc x.r.pc
        Spares s.dev e k c ∧ (e.engAt k).hallIn = (s.dev.engAt k).hallIn ∧ AfterB x y
        ∧ (∀ l : Fin 32, lanesOn o w l = true → roomWord e k (vAddr o w (4 * (l.val : Int))).toNat = lane (o.getV (f1 w)) l)
        ∧ (∀ j, (∀ l : Fin 32, lanesOn o w l = true → j < roomAddr k (vAddr o w (4 * (l.val : Int))).toNat ∨ roomAddr k (vAddr o w (4 * (l.val : Int))).toNat + 4 ≤ j) → e.byteAt j = s.dev.byteAt j)
        ∧ t = { r with c := t.c } ∧ (if w.xs 24 2 = 2 then SetsC (f3 w) (cStep (o.getC (f3 w)) w.simm.toInt) r { r with c := t.c } else t.c = r.c))))
  ∧ (∀ (s : State) (k : EngIx) (c : CtxIx) (w : SlotWord), OpensB s.dev k c → w.slot = .b →
      w.f4 = 0 ∧ w.xs 24 2 < 3 ∧ (if w.xs 24 2 = 0 then w.f3 = 0 else w.f2 = 0 ∧ f3 w < 8) ∧ w.below 26 → (s.dev.ctxAt k c).goesOn →
      w.xs 24 2 = 0 ∨ cLegal ((s.dev.ctxAt k c).before.getC (f3 w)) = true → vAddr (s.dev.ctxAt k c).before w 0 % 4 = 0 →
      0 ≤ vAddr (s.dev.ctxAt k c).before w 0 → vAddr (s.dev.ctxAt k c).before w 0 < 0x800000 → w.xs 24 2 ≠ 0 →
      cLen ((s.dev.ctxAt k c).before.getC (f3 w)) = 6 → w.k = 0 →
      (∀ l : Fin 32, 0 ≤ vAddr (s.dev.ctxAt k c).before w (4 * (l.val : Int)) ∧ vAddr (s.dev.ctxAt k c).before w (4 * (l.val : Int)) < 0x800000 ∧ RoomGood s.dev k (vAddr (s.dev.ctxAt k c).before w (4 * (l.val : Int))).toNat 4) →
      s.dev.on ECC_INJ_CTRL.ARM = false → (w.xs 24 2 = 2 → (s.dev.ctxAt k c).unwritten 4 (f3 w)) →
    Makes (.vst (.re k) w) s [.eng, .mem, .ecc, .fresh, .reg (Adr.ENG_CYCLES_LO k), .reg (Adr.ENG_CYCLES_LO k + 4)] (fun e =>
      (let x := s.dev.ctxAt k c
        let y := e.ctxAt k c
        let o := x.before
        let r := x.r
        let t := y.r.withPc x.r.pc
        Spares s.dev e k c ∧ (e.engAt k).hallIn = (s.dev.engAt k).hallIn ∧ AfterB x y
        ∧ (∀ l : Fin 16, roomWord e k (vAddr o w (4 * (l.val : Int))).toNat = lane (o.getV (f1 w)) l
          ∨ roomWord e k (vAddr o w (4 * (l.val : Int))).toNat = lane (o.getV (f1 w)) (l.val + 16))
        ∧ t = { r with c := t.c } ∧ (if w.xs 24 2 = 2 then SetsC (f3 w) (cStep (o.getC (f3 w)) w.simm.toInt) r { r with c := t.c } else t.c = r.c))))
  ∧ (∀ (s : State) (k : EngIx) (c : CtxIx) (w : SlotWord) (a h : Nat), OpensB s.dev k c → w.slot = .b →
      f1 w < 8 ∧ w.f2 ≠ w.f3 ∧ w.f4 = 0 ∧ w.k = 0 ∧ w.x = 0 → (s.dev.ctxAt k c).unwritten 2 (f1 w) →
      (s.dev.ctxAt k c).unwritten 0 (f2 w) → (s.dev.ctxAt k c).unwritten 0 (f3 w) → (s.dev.ctxAt k c).goesOn →
      ((s.dev.ctxAt k c).before.getS (f2 w)).toNat = a → ((s.dev.ctxAt k c).before.getS (f3 w)).toNat = h → a % 4 = 0 → h % 4 = 0 →
      a + 8 ≤ 0x800000 → h + 4 ≤ 0x800000 → RoomGood s.dev k a 8 → RoomGood s.dev k h 4 → s.dev.on ECC_INJ_CTRL.ARM = false →
    Makes (.tapmove (.re k) w) s [.eng, .mem, .ecc, .reg (Adr.ENG_CYCLES_LO k), .reg (Adr.ENG_CYCLES_LO k + 4)] (fun e =>
      (let x := s.dev.ctxAt k c
        let y := e.ctxAt k c
        let o := x.before
        let r := x.r
        let t := y.r.withPc x.r.pc
        Spares s.dev e k c ∧ (e.engAt k).hallIn = (s.dev.engAt k).hallIn ∧ AfterB x y
        ∧ SetsA (f1 w) (fun l => l == 0) (fun _ => (lane (o.getA (f1 w)) 0).add ((roomWord s.dev k a).toInt * (roomWord s.dev k h).toInt)) r { t with s := r.s }
        ∧ (∀ j : Fin 32, t.getS j = if j.val = 0 then 0 else if j.val = f2 w then o.getS (f2 w) - 4 else if j.val = f3 w then o.getS (f3 w) + 4 else r.getS j)
        ∧ ∀ j, e.byteAt j = if roomAddr k (a + 4) ≤ j ∧ j < roomAddr k (a + 4) + 4 then s.dev.byteAt (j - 4) else s.dev.byteAt j)))
  ∧ (∀ (s : State) (w : SlotWord) (a n : Nat), PeRuns s.dev → w.slot = .b → w.f3 = 0 ∧ w.f4 = 0 ∧ w.k = 0 ∧ w.below 27 →
      sumAddr s.dev.pch.regs (f2 w) w = a → n = 2 ^ w.xs 24 2 → a % n = 0 → a + n ≤ 0x80000 →
      (∀ u ∈ unitsOf (porchBase + a) n, unitState s.dev.ecc u = .clean) →
    Makes (.ld .pe w) s [.pch] (fun e =>
      (let o := s.dev.pch.regs
        let t := e.pch.regs.withPc o.pc
        AfterPe s.dev e
        ∧ SetsS (f1 w)
          (if w.x.getLsbD 26 then BitVec.ofNat 64 (ofBytes (s.dev.bytesAt (porchBase + a) n)) else (BitVec.ofNat (8 * n) (ofBytes (s.dev.bytesAt (porchBase + a) n))).signExtend 64) o t)))
  ∧ (∀ (s : State) (w : SlotWord) (a n : Nat), PeRuns s.dev → w.slot = .b → w.f3 = 0 ∧ w.f4 = 0 ∧ w.k = 0 ∧ w.below 26 →
      sumAddr s.dev.pch.regs (f1 w) w = a → n = 2 ^ w.xs 24 2 → a % n = 0 → a + n ≤ 0xE000 ∨ 0x10000 ≤ a ∧ a + n ≤ 0x80000 →
      (∀ u ∈ unitsOf (porchBase + a) n, unitState s.dev.ecc u = .clean) →
    Makes (.st .pe w) s [.pch, .mem, .ecc] (fun e =>
      (let o := s.dev.pch.regs
        let t := e.pch.regs.withPc o.pc
        AfterPe s.dev e
        ∧ t = o ∧ ∀ j, e.byteAt j = if porchBase + a ≤ j ∧ j < porchBase + a + n then BitVec.ofNat 8 ((o.getS (f2 w)).toNat / 256 ^ (j - (porchBase + a))) else s.dev.byteAt j)))
  ∧ (∀ (s : State) (w : SlotWord) (a h : Nat), PeRuns s.dev → w.slot = .b → w.f1 = 0 ∧ w.f2 ≠ w.f3 ∧ w.f4 = 0 ∧ w.k = 0 ∧ w.x = 0 →
      (s.dev.pch.regs.getS (f2 w)).toNat = a → (s.dev.pch.regs.getS (f3 w)).toNat = h → a % 4 = 0 → h % 4 = 0 →
      a + 8 ≤ 0xE000 ∨ 0x10000 ≤ a ∧ a + 8 ≤ 0x80000 → h + 4 ≤ 0x80000 →
      (∀ u ∈ unitsOf (porchBase + a) 8, unitState s.dev.ecc u = .clean) →
      (∀ u ∈ unitsOf (porchBase + h) 4, unitState s.dev.ecc u = .clean) →
    Makes (.tapmove .pe w) s [.pch, .mem, .ecc] (fun e =>
      (let o := s.dev.pch.regs
        let t := e.pch.regs.withPc o.pc
        AfterPe s.dev e
        ∧ (∀ j : Fin 8, ∀ l : Fin 32, lane (t.getA j) l = if j.val = 0 ∧ l.val = 0 then
            ((lane (o.getA 0) 0).add ((BitVec.ofNat 32 (ofBytes (s.dev.bytesAt (porchBase + a) 4))).toInt
              * (BitVec.ofNat 32 (ofBytes (s.dev.bytesAt (porchBase + h) 4))).toInt)).l else lane (o.getA j) l)
        ∧ t = { o with a := t.a, s := t.s }
        ∧ (∀ j : Fin 32, t.getS j = if j.val = 0 then 0 else if j.val = f2 w then o.getS (f2 w) - 4 else if j.val = f3 w then o.getS (f3 w) + 4 else o.getS j)
        ∧ ∀ j, e.byteAt j = if porchBase + (a + 4) ≤ j ∧ j < porchBase + (a + 4) + 4 then s.dev.byteAt (j - 4) else s.dev.byteAt j)))

/-- PSTEP.LOAD, PSTEP.WAIT, GATHER and HSEND (R128, R129, R131, R132, R134, R135, R164 to R168): pair entries are read from the room
at issue and queued for the pair buffer; GATHER adds the products of stepped gains and interpolated taps; HSEND narrows lanes
and hands them to the hall input. -/
def Obligations.GatherUnit : Prop :=
  (∀ (s : State) (k : EngIx) (c : CtxIx) (w : SlotWord) (a b : Nat), OpensB s.dev k c → w.slot = .b →
      w.f3 = 0 ∧ w.f4 = 0 ∧ w.k = 0 ∧ w.below 18 ∧ w.xs 0 8 + (w.xs 8 8 + 1) ≤ 256 ∧ (w.x.getLsbD 16 = false → w.f2 = 0) →
      (s.dev.ctxAt k c).goesOn →
      ((s.dev.ctxAt k c).before.getS (f1 w)).toNat + (if w.x.getLsbD 17 then (if s.dev.blockGet (s.dev.ctxAt k c).block (HALL_SLOT_CFG.HALF (s.dev.ctxAt k c).slot) = 1 then 16 * s.dev.blockGet (s.dev.ctxAt k c).block (HALL_SLOT_PT_BASE1.BASE (s.dev.ctxAt k c).slot) else 16 * s.dev.blockGet (s.dev.ctxAt k c).block (HALL_SLOT_PT_BASE0.BASE (s.dev.ctxAt k c).slot)) else 0) = a →
      ((s.dev.ctxAt k c).before.getS (f2 w)).toNat = b → a % 16 = 0 → a + 16 * (w.xs 8 8 + 1) ≤ 0x800000 →
      RoomGood s.dev k a (16 * (w.xs 8 8 + 1)) →
      (w.x.getLsbD 16 = true → b % 2 = 0 ∧ b + 2 * (w.xs 8 8 + 1) ≤ 0x800000 ∧ RoomGood s.dev k b (2 * (w.xs 8 8 + 1))) →
    Makes (.pstepLoad (.re k) w) s [.eng, .reg (Adr.ENG_CYCLES_LO k), .reg (Adr.ENG_CYCLES_LO k + 4)] (fun e =>
      (let x := s.dev.ctxAt k c
        let y := e.ctxAt k c
        let o := x.before
        let r := x.r
        let t := y.r.withPc x.r.pc
        Spares s.dev e k c ∧ (e.engAt k).hallIn = (s.dev.engAt k).hallIn ∧ AfterB { x with pload := x.pload ++ [(⟨w.xs 0 8, (List.range (w.xs 8 8 + 1)).map (fun i =>
            ⟨roomWord s.dev k (a + 16 * i), roomWord s.dev k (a + 16 * i + 4), roomWord s.dev k (a + 16 * i + 8), roomWord s.dev k (a + 16 * i + 12),
              if w.x.getLsbD 16 then BitVec.ofNat 16 (ofBytes (s.dev.bytesAt (roomAddr k (b + 2 * i)) 2)) else 0⟩)⟩ : PairLoad)] } y
        ∧ t = r)))
  ∧ (∀ (s : State) (k : EngIx) (c : CtxIx) (w : SlotWord), OpensB s.dev k c → w.slot = .b →
      w.f1 = 0 ∧ w.f2 = 0 ∧ w.f3 = 0 ∧ w.f4 = 0 ∧ w.k = 0 ∧ w.x.toNat = 0x40000 → (s.dev.ctxAt k c).rep = none →
      (s.dev.ctxAt k c).goesOn → (s.dev.ctxAt k c).pload = [] →
    Makes (.pstepWait (.re k) w) s [.eng, .reg (Adr.ENG_CYCLES_LO k), .reg (Adr.ENG_CYCLES_LO k + 4)] (fun e =>
      (let x := s.dev.ctxAt k c
        let y := e.ctxAt k c
        let o := x.before
        let r := x.r
        let t := y.r.withPc x.r.pc
        Spares s.dev e k c ∧ (e.engAt k).hallIn = (s.dev.engAt k).hallIn ∧ AfterB x y
        ∧ t = r)))
  ∧ (∀ (s : State) (k : EngIx) (c : CtxIx) (w : SlotWord), OpensB s.dev k c → w.slot = .b →
      w.f1 = 0 ∧ w.f2 = 0 ∧ w.f3 = 0 ∧ w.f4 = 0 ∧ w.k = 0 ∧ w.x.toNat = 0x40000 → (s.dev.ctxAt k c).rep = none →
      (s.dev.ctxAt k c).pload ≠ [] →
    Makes (.pstepWait (.re k) w) s [] (fun e =>
      e.eng = s.dev.eng))
  ∧ (∀ (s : State) (k : EngIx) (c : CtxIx) (w : SlotWord), OpensB s.dev k c → w.slot = .b →
      w.f4 = 0 ∧ f1 w < 8 ∧ f3 w < 8 ∧ w.below 17 ∧ w.xs 0 8 + (w.xs 8 3 + 1) ≤ 256 ∧ w.x.getLsbD 16 = false ∧ w.xs 11 5 + (w.xs 8 3 + 1) ≤ 32 →
      (s.dev.ctxAt k c).unwritten 2 (f1 w) → (s.dev.ctxAt k c).goesOn → cLegal ((s.dev.ctxAt k c).before.getC (f3 w)) = true →
      cLen ((s.dev.ctxAt k c).before.getC (f3 w)) ≠ 0 →
      cLen ((s.dev.ctxAt k c).before.getC (f3 w)) = wlenOf (s.dev.blockGet (s.dev.ctxAt k c).block (HALL_SLOT_CFG.WLEN (s.dev.ctxAt k c).slot)) + 2 →
      (∀ q ∈ (s.dev.ctxAt k c).pload, ∀ j : Fin 256, w.xs 0 8 ≤ j.val → j.val < w.xs 0 8 + w.xs 8 3 + 1 → ¬(q.pb ≤ j.val ∧ j.val < q.pb + q.es.length)) →
      4096 * s.dev.blockGet (s.dev.ctxAt k c).block (HALL_SLOT_WIN_BASE.BASE (s.dev.ctxAt k c).slot) ≤ cBase ((s.dev.ctxAt k c).before.getC (f3 w)) →
      (cBase ((s.dev.ctxAt k c).before.getC (f3 w)) - 4096 * s.dev.blockGet (s.dev.ctxAt k c).block (HALL_SLOT_WIN_BASE.BASE (s.dev.ctxAt k c).slot)) % 2 ^ cLen ((s.dev.ctxAt k c).before.getC (f3 w)) = 0 →
      (cBase ((s.dev.ctxAt k c).before.getC (f3 w)) - 4096 * s.dev.blockGet (s.dev.ctxAt k c).block (HALL_SLOT_WIN_BASE.BASE (s.dev.ctxAt k c).slot)) / 2 ^ cLen ((s.dev.ctxAt k c).before.getC (f3 w)) < 64 →
      (∀ u, roomAddr k 0 ≤ u → u < roomAddr k 0x800000 → unitState s.dev.ecc u = .clean) →
    Makes (.gather (.re k) w) s [.eng, .reg Adr.HALL_CLAMP_CNT, .reg (Adr.ENG_CYCLES_LO k), .reg (Adr.ENG_CYCLES_LO k + 4)] (fun e =>
      (let x := s.dev.ctxAt k c
        let y := e.ctxAt k c
        let o := x.before
        let r := x.r
        let t := y.r.withPc x.r.pc
        Spares s.dev e k c ∧ (e.engAt k).hallIn = (s.dev.engAt k).hallIn ∧ (∃ n, AfterB { x with cycles := min (x.cycles + n) 0xFFFFFFFF } y)
        ∧ t = { r with a := t.a, ovf := t.ovf, lost := t.lost, wrap := t.wrap } ∧ (∀ j : Fin 8, j.val ≠ f1 w → t.getA j = r.getA j)
        ∧ (∀ l : Fin 32,
          let q := (if w.xs 11 5 ≤ l.val ∧ l.val < w.xs 11 5 + w.xs 8 3 + 1 then tapOf s.dev k x o w (l.val - w.xs 11 5) else none)
          let z := (match q with
            | some q => (lane (r.getA (f1 w)) l).add q.p
            | none => ⟨lane (r.getA (f1 w)) l, false, false⟩)
          lane (t.getA (f1 w)) l = z.l ∧ t.lost.getLsbD l = (r.lost.getLsbD l || z.lost) ∧ t.wrap.getLsbD l = (r.wrap.getLsbD l || z.wrap)
            ∧ t.ovf.getLsbD l = (r.ovf.getLsbD l || (match q with
              | some q => q.sat
              | none => false)))
        ∧ (e.reg Adr.HALL_CLAMP_CNT).toNat = min ((s.dev.reg Adr.HALL_CLAMP_CNT).toNat + (((List.range (w.xs 8 3 + 1)).filterMap (fun j => tapOf s.dev k x o w (j))).filter (fun q => q.clamped)).length) 0xFFFFFFFF)))
  ∧ (∀ (s : State) (k : EngIx) (c : CtxIx) (w : SlotWord), OpensB s.dev k c → w.slot = .b →
      w.f4 = 0 ∧ f1 w < 8 ∧ f3 w < 8 ∧ w.below 17 ∧ w.xs 0 8 + (w.xs 8 3 + 1) ≤ 256 ∧ w.x.getLsbD 16 = true →
      (s.dev.ctxAt k c).unwritten 2 (f1 w) → (s.dev.ctxAt k c).goesOn → cLegal ((s.dev.ctxAt k c).before.getC (f3 w)) = true →
      cLen ((s.dev.ctxAt k c).before.getC (f3 w)) ≠ 0 →
      cLen ((s.dev.ctxAt k c).before.getC (f3 w)) = wlenOf (s.dev.blockGet (s.dev.ctxAt k c).block (HALL_SLOT_CFG.WLEN (s.dev.ctxAt k c).slot)) + 2 →
      (∀ q ∈ (s.dev.ctxAt k c).pload, ∀ j : Fin 256, w.xs 0 8 ≤ j.val → j.val < w.xs 0 8 + w.xs 8 3 + 1 → ¬(q.pb ≤ j.val ∧ j.val < q.pb + q.es.length)) →
      cBase ((s.dev.ctxAt k c).before.getC (f3 w)) = 4096 * s.dev.blockGet (s.dev.ctxAt k c).block (HALL_SLOT_WIN_BASE.BASE (s.dev.ctxAt k c).slot) →
      (∀ j : Fin 8, (vat (s.dev.ctxAt k c).pbuf (w.xs 0 8 + j)).tag.toNat % 64 * 2 ^ cLen ((s.dev.ctxAt k c).before.getC (f3 w)) + cBase ((s.dev.ctxAt k c).before.getC (f3 w)) < 0x800000) →
      (∀ u, roomAddr k 0 ≤ u → u < roomAddr k 0x800000 → unitState s.dev.ecc u = .clean) →
    Makes (.gather (.re k) w) s [.eng, .reg Adr.HALL_CLAMP_CNT, .reg (Adr.ENG_CYCLES_LO k), .reg (Adr.ENG_CYCLES_LO k + 4)] (fun e =>
      (let x := s.dev.ctxAt k c
        let y := e.ctxAt k c
        let o := x.before
        let r := x.r
        let t := y.r.withPc x.r.pc
        Spares s.dev e k c ∧ (e.engAt k).hallIn = (s.dev.engAt k).hallIn ∧ (∃ n, AfterB { x with cycles := min (x.cycles + n) 0xFFFFFFFF } y)
        ∧ (let q := (List.range (w.xs 8 3 + 1)).filterMap (fun j => tapOf s.dev k x o w j)
        t = { r with a := t.a, ovf := t.ovf, lost := t.lost, wrap := t.wrap } ∧ (∀ j : Fin 8, j.val ≠ f1 w → t.getA j = r.getA j)
        ∧ (∀ l : Fin 32,
          let z := (if l.val = w.xs 11 5 ∧ q ≠ [] then (lane (r.getA (f1 w)) l).add ((q.map (fun q => q.p)).sum) else ⟨lane (r.getA (f1 w)) l, false, false⟩)
          lane (t.getA (f1 w)) l = z.l ∧ t.lost.getLsbD l = (r.lost.getLsbD l || z.lost) ∧ t.wrap.getLsbD l = (r.wrap.getLsbD l || z.wrap)
            ∧ t.ovf.getLsbD l = (r.ovf.getLsbD l || (l.val == w.xs 11 5 && q.any (fun q => q.sat)))))
        ∧ (e.reg Adr.HALL_CLAMP_CNT).toNat = min ((s.dev.reg Adr.HALL_CLAMP_CNT).toNat + (((List.range (w.xs 8 3 + 1)).filterMap (fun j => tapOf s.dev k x o w (j))).filter (fun q => q.clamped)).length) 0xFFFFFFFF)))
  ∧ (∀ (s : State) (k : EngIx) (c : CtxIx) (w : SlotWord), OpensB s.dev k c → w.slot = .b →
      w.f4 = 0 ∧ f1 w < 8 ∧ f3 w < 8 ∧ w.below 17 ∧ w.xs 0 8 + (w.xs 8 3 + 1) ≤ 256 ∧ w.x.getLsbD 16 = false ∧ w.xs 11 5 + (w.xs 8 3 + 1) ≤ 32 ∧ w.k = 0 →
      (s.dev.ctxAt k c).rep = none → cLegal ((s.dev.ctxAt k c).before.getC (f3 w)) = true →
      cLen ((s.dev.ctxAt k c).before.getC (f3 w)) ≠ 0 →
      (∃ q ∈ (s.dev.ctxAt k c).pload, q.pb ≤ w.xs 0 8 ∧ w.xs 0 8 < q.pb + q.es.length) → (s.dev.ctxAt k c).unwritten 2 (f1 w) →
    Makes (.gather (.re k) w) s [] (fun e =>
      e.eng = s.dev.eng))
  ∧ (∀ (s : State) (k : EngIx) (c : CtxIx) (w : SlotWord), OpensB s.dev k c → w.slot = .b → w.f4 = 0 ∧ f1 w < 8 ∧ w.below 1 →
      (s.dev.ctxAt k c).rep = none → (s.dev.ctxAt k c).goesOn → (s.dev.engAt k).hallIn.length < 8 →
      (w.x.getLsbD 0 = true → (s.dev.ctxAt k c).unwritten 2 (f1 w)) →
    Makes (.hsend (.re k) w) s [.eng, .reg (Adr.ENG_CYCLES_LO k), .reg (Adr.ENG_CYCLES_LO k + 4)] (fun e =>
      (let x := s.dev.ctxAt k c
        let y := e.ctxAt k c
        let o := x.before
        let r := x.r
        let t := y.r.withPc x.r.pc
        Spares s.dev e k c ∧ (e.engAt k).hallIn = (s.dev.engAt k).hallIn ++ [⟨c, ((List.range 32).filter (fun l => lanesOn o w l && decide ((o.getS (f2 w)).toNat + l < 768) && decide ((o.getS (f3 w)).toNat < s.dev.perLen))).map
            (fun l => ⟨(o.getS (f2 w)).toNat + l, (o.getS (f3 w)).toNat, ((lane (o.getA (f1 w)) l).narrow 20 48).v⟩)⟩] ∧ AfterB { x with sends := x.sends + 1 } y
        ∧ t = { r with a := t.a, ovf := t.ovf, lost := t.lost } ∧ (∀ j : Fin 8, j.val ≠ f1 w → t.getA j = r.getA j)
        ∧ (∀ l : Fin 32, lane (t.getA (f1 w)) l = (if w.x.getLsbD 0 ∧ lanesOn o w l then ⟨0, 0⟩ else lane (r.getA (f1 w)) l)
          ∧ t.ovf.getLsbD l = (r.ovf.getLsbD l || (lanesOn o w l && ((lane (o.getA (f1 w)) l).narrow 20 48).ovf))
          ∧ t.lost.getLsbD l = (r.lost.getLsbD l || (lanesOn o w l && ((lane (o.getA (f1 w)) l).narrow 20 48).lost))))))

/-- SDMA, SWAIT, FENCE.ROOM, FENCE.STREAM, BARRIER, TDONE, WAITWORK, GETP, MFLG, FCLR and ICINV (R109, R139, R140, R143, R144,
R146): stream entries are queued; waits and fences go on when their condition holds and stall otherwise; a task starts to end;
task state and flags are read and cleared. -/
def Obligations.StreamsAndTaskEnd : Prop :=
  (∀ (s : State) (k : EngIx) (c : CtxIx) (w : SlotWord) (a b n : Nat), OpensB s.dev k c → w.slot = .b →
      w.f4 = 0 ∧ w.k = 0 ∧ (w.x = 0 ∨ w.x.toNat = 2 ^ 24) → (s.dev.ctxAt k c).rep = none → (s.dev.ctxAt k c).goesOn →
      ((s.dev.ctxAt k c).before.getS (f1 w)).toNat = a → ((s.dev.ctxAt k c).before.getS (f2 w)).toNat = b →
      ((s.dev.ctxAt k c).before.getS (f3 w)).toNat = n → 0 < n → n % 64 = 0 → n ≤ 0x100000 → a % 64 = 0 → b % 64 = 0 →
      a + n ≤ 0x800000 → pantryBase ≤ b → b + n ≤ pantryBase + 0x4000000 →
      (s.dev.ctxAt k c).priv = true ∨ s.dev.inRegion k b n (w.x.getLsbD 24) = true → (s.dev.ctxAt k c).stream.length < 8 →
    Makes (.sdma (.re k) w) s [.eng, .reg (Adr.ENG_CYCLES_LO k), .reg (Adr.ENG_CYCLES_LO k + 4)] (fun e =>
      (let x := s.dev.ctxAt k c
        let y := e.ctxAt k c
        let o := x.before
        let r := x.r
        let t := y.r.withPc x.r.pc
        Spares s.dev e k c ∧ (e.engAt k).hallIn = (s.dev.engAt k).hallIn ∧ AfterB { x with stream := x.stream ++ [⟨a, b, n, w.x.getLsbD 24⟩] } y
        ∧ t = r)))
  ∧ (∀ (s : State) (k : EngIx) (c : CtxIx) (w : SlotWord), OpensB s.dev k c → w.slot = .b →
      w.f1 = 0 ∧ w.f2 = 0 ∧ w.f3 = 0 ∧ w.f4 = 0 ∧ w.k = 0 ∧ w.below 3 → (s.dev.ctxAt k c).rep = none → (s.dev.ctxAt k c).goesOn →
      (s.dev.ctxAt k c).stream.length ≤ w.x.toNat →
    Makes (.swait (.re k) w) s [.eng, .reg (Adr.ENG_CYCLES_LO k), .reg (Adr.ENG_CYCLES_LO k + 4)] (fun e =>
      (let x := s.dev.ctxAt k c
        let y := e.ctxAt k c
        let o := x.before
        let r := x.r
        let t := y.r.withPc x.r.pc
        Spares s.dev e k c ∧ (e.engAt k).hallIn = (s.dev.engAt k).hallIn ∧ AfterB x y
        ∧ t = r)))
  ∧ (∀ (s : State) (k : EngIx) (c : CtxIx) (w : SlotWord), OpensB s.dev k c → w.slot = .b →
      w.f1 = 0 ∧ w.f2 = 0 ∧ w.f3 = 0 ∧ w.f4 = 0 ∧ w.k = 0 ∧ w.below 3 → (s.dev.ctxAt k c).rep = none →
      w.x.toNat < (s.dev.ctxAt k c).stream.length →
    Makes (.swait (.re k) w) s [] (fun e =>
      e.eng = s.dev.eng))
  ∧ (∀ (s : State) (k : EngIx) (c : CtxIx) (w : SlotWord), OpensB s.dev k c → w.slot = .b →
      w.f1 = 0 ∧ w.f2 = 0 ∧ w.f3 = 0 ∧ w.f4 = 0 ∧ w.k = 0 ∧ w.x = 0 → (s.dev.ctxAt k c).rep = none → (s.dev.ctxAt k c).goesOn →
    Makes (.fenceRoom (.re k) w) s [.eng, .reg (Adr.ENG_CYCLES_LO k), .reg (Adr.ENG_CYCLES_LO k + 4)] (fun e =>
      (let x := s.dev.ctxAt k c
        let y := e.ctxAt k c
        let o := x.before
        let r := x.r
        let t := y.r.withPc x.r.pc
        Spares s.dev e k c ∧ (e.engAt k).hallIn = (s.dev.engAt k).hallIn ∧ AfterB x y
        ∧ t = r)))
  ∧ (∀ (s : State) (k : EngIx) (c : CtxIx) (w : SlotWord), OpensB s.dev k c → w.slot = .b →
      w.f1 = 0 ∧ w.f2 = 0 ∧ w.f3 = 0 ∧ w.f4 = 0 ∧ w.k = 0 ∧ w.x = 1 → (s.dev.ctxAt k c).rep = none → (s.dev.ctxAt k c).goesOn →
      (s.dev.ctxAt k c).stream = [] →
    Makes (.fenceStream (.re k) w) s [.eng, .reg (Adr.ENG_CYCLES_LO k), .reg (Adr.ENG_CYCLES_LO k + 4)] (fun e =>
      (let x := s.dev.ctxAt k c
        let y := e.ctxAt k c
        let o := x.before
        let r := x.r
        let t := y.r.withPc x.r.pc
        Spares s.dev e k c ∧ (e.engAt k).hallIn = (s.dev.engAt k).hallIn ∧ AfterB x y
        ∧ t = r)))
  ∧ (∀ (s : State) (k : EngIx) (c : CtxIx) (w : SlotWord), OpensB s.dev k c → w.slot = .b →
      w.f1 = 0 ∧ w.f2 = 0 ∧ w.f3 = 0 ∧ w.f4 = 0 ∧ w.k = 0 ∧ w.x = 1 → (s.dev.ctxAt k c).rep = none → (s.dev.ctxAt k c).stream ≠ [] →
    Makes (.fenceStream (.re k) w) s [] (fun e =>
      e.eng = s.dev.eng))
  ∧ (∀ (s : State) (k : EngIx) (c : CtxIx) (w : SlotWord), OpensB s.dev k c → w.slot = .b →
      w.f1 = 0 ∧ w.f2 = 0 ∧ w.f3 = 0 ∧ w.f4 = 0 ∧ w.k = 0 ∧ w.x = 0 → (s.dev.ctxAt k c).rep = none → (s.dev.ctxAt k c).goesOn →
      (s.dev.ctxAt k c).stream = [] → (s.dev.ctxAt k c).pload = [] → s.dev.storesOut k c = false →
      (∀ h ∈ (s.dev.engAt k).hallIn, h.ctx ≠ c.val) →
    Makes (.barrier (.re k) w) s [.eng, .reg (Adr.ENG_CYCLES_LO k), .reg (Adr.ENG_CYCLES_LO k + 4)] (fun e =>
      (let x := s.dev.ctxAt k c
        let y := e.ctxAt k c
        let o := x.before
        let r := x.r
        let t := y.r.withPc x.r.pc
        Spares s.dev e k c ∧ (e.engAt k).hallIn = (s.dev.engAt k).hallIn ∧ AfterB x y
        ∧ t = r)))
  ∧ (∀ (s : State) (k : EngIx) (c : CtxIx) (w : SlotWord), OpensB s.dev k c → w.slot = .b →
      w.f1 = 0 ∧ w.f2 = 0 ∧ w.f3 = 0 ∧ w.f4 = 0 ∧ w.k = 0 ∧ w.x = 0 → (s.dev.ctxAt k c).rep = none →
      (s.dev.ctxAt k c).stream ≠ [] ∨ (s.dev.ctxAt k c).pload ≠ [] ∨ s.dev.storesOut k c = true ∨ (∃ h ∈ (s.dev.engAt k).hallIn, h.ctx = c.val) →
    Makes (.barrier (.re k) w) s [] (fun e =>
      e.eng = s.dev.eng))
  ∧ (∀ (s : State) (k : EngIx) (c : CtxIx) (w : SlotWord), OpensB s.dev k c → w.slot = .b →
      w.f1 = 0 ∧ w.f2 = 0 ∧ w.f3 = 0 ∧ w.f4 = 0 ∧ w.k = 0 ∧ w.x = 0 → (s.dev.ctxAt k c).rep = none →
    Makes (.tdone (.re k) w) s [.eng, .reg (Adr.ENG_CYCLES_LO k), .reg (Adr.ENG_CYCLES_LO k + 4)] (fun e =>
      (let x := s.dev.ctxAt k c
        let y := e.ctxAt k c
        let o := x.before
        let r := x.r
        let t := y.r.withPc x.r.pc
        Spares s.dev e k c ∧ (e.engAt k).hallIn = (s.dev.engAt k).hallIn ∧ AfterStay x y ∧ y.nextAccept = none ∧ y.hallWait = (s.dev.engAt k).hallIn.length
        ∧ t = r)))
  ∧ (∀ (s : State) (k : EngIx) (c : CtxIx) (w : SlotWord), OpensB s.dev k c → w.slot = .b →
      w.f2 = 0 ∧ w.f3 = 0 ∧ w.f4 = 0 ∧ w.k = 0 ∧ w.x = 0 → (s.dev.ctxAt k c).rep = none → (s.dev.ctxAt k c).priv = true →
    Makes (.waitwork (.re k) w) s [.eng, .reg (Adr.ENG_CYCLES_LO k), .reg (Adr.ENG_CYCLES_LO k + 4)] (fun e =>
      (let x := s.dev.ctxAt k c
        let y := e.ctxAt k c
        let o := x.before
        let r := x.r
        let t := y.r.withPc x.r.pc
        Spares s.dev e k c ∧ (e.engAt k).hallIn = (s.dev.engAt k).hallIn ∧ AfterStay x y ∧ y.nextAccept = some ((o.getS (f1 w)).setWidth 4) ∧ y.hallWait = (s.dev.engAt k).hallIn.length
        ∧ t = r)))
  ∧ (∀ (s : State) (k : EngIx) (c : CtxIx) (w : SlotWord), OpensB s.dev k c → w.slot = .b →
      w.f2 = 0 ∧ w.f3 = 0 ∧ w.f4 = 0 ∧ w.k = 0 ∧ w.x.toNat < 5 → (s.dev.ctxAt k c).unwritten 0 (f1 w) → (s.dev.ctxAt k c).goesOn →
    Makes (.getp (.re k) w) s [.eng, .reg (Adr.ENG_CYCLES_LO k), .reg (Adr.ENG_CYCLES_LO k + 4)] (fun e =>
      (let x := s.dev.ctxAt k c
        let y := e.ctxAt k c
        let o := x.before
        let r := x.r
        let t := y.r.withPc x.r.pc
        Spares s.dev e k c ∧ (e.engAt k).hallIn = (s.dev.engAt k).hallIn ∧ AfterB x y
        ∧ SetsS (f1 w) (BitVec.ofNat 64 (match w.x.toNat with
          | 0 => x.slot
          | 1 => x.block
          | 2 => x.task
          | 3 => x.cls
          | _ => x.cycles)) r t)))
  ∧ (∀ (s : State) (k : EngIx) (c : CtxIx) (w : SlotWord), OpensB s.dev k c → w.slot = .b →
      w.f2 = 0 ∧ w.f3 = 0 ∧ w.f4 = 0 ∧ w.k = 0 ∧ w.x.toNat < 6 → (s.dev.ctxAt k c).unwritten 0 (f1 w) → (s.dev.ctxAt k c).goesOn →
    Makes (.mflg (.re k) w) s [.eng, .reg (Adr.ENG_CYCLES_LO k), .reg (Adr.ENG_CYCLES_LO k + 4)] (fun e =>
      (let x := s.dev.ctxAt k c
        let y := e.ctxAt k c
        let o := x.before
        let r := x.r
        let t := y.r.withPc x.r.pc
        Spares s.dev e k c ∧ (e.engAt k).hallIn = (s.dev.engAt k).hallIn ∧ AfterB x y
        ∧ SetsS (f1 w) (BitVec.ofNat 64 (match w.x.toNat with
          | 0 => o.ovf.toNat
          | 1 => o.lost.toNat
          | 2 => o.wrap.toNat
          | 3 => if x.memerr then 1 else 0
          | 4 => x.stream.length
          | _ => x.pload.length)) r t)))
  ∧ (∀ (s : State) (k : EngIx) (c : CtxIx) (w : SlotWord), OpensB s.dev k c → w.slot = .b →
      w.f2 = 0 ∧ w.f3 = 0 ∧ w.f4 = 0 ∧ w.k = 0 ∧ w.x.toNat < 3 → (s.dev.ctxAt k c).goesOn →
    Makes (.fclr (.re k) w) s [.eng, .reg (Adr.ENG_CYCLES_LO k), .reg (Adr.ENG_CYCLES_LO k + 4)] (fun e =>
      (let x := s.dev.ctxAt k c
        let y := e.ctxAt k c
        let o := x.before
        let r := x.r
        let t := y.r.withPc x.r.pc
        Spares s.dev e k c ∧ (e.engAt k).hallIn = (s.dev.engAt k).hallIn ∧ AfterB x y
        ∧ (let m := (o.getS (f1 w)).setWidth 32
        let q : BitVec 32 × BitVec 32 × BitVec 32 := (match x.bundle with
            | some b => (b.ovf, b.lost, b.wrap)
            | none => (0, 0, 0))
        t = (match w.x.toNat with
          | 0 => { r with ovf := (r.ovf &&& ~~~m) ||| q.1 }
          | 1 => { r with lost := (r.lost &&& ~~~m) ||| q.2.1 }
          | _ => { r with wrap := (r.wrap &&& ~~~m) ||| q.2.2 })))))
  ∧ (∀ (s : State) (k : EngIx) (c : CtxIx) (w : SlotWord), OpensB s.dev k c → w.slot = .b →
      w.f2 = 0 ∧ w.f3 = 0 ∧ w.f4 = 0 ∧ w.k = 0 ∧ w.x.toNat = 3 → (s.dev.ctxAt k c).goesOn →
    Makes (.fclr (.re k) w) s [.eng, .reg (Adr.ENG_CYCLES_LO k), .reg (Adr.ENG_CYCLES_LO k + 4)] (fun e =>
      (let x := s.dev.ctxAt k c
        let y := e.ctxAt k c
        let o := x.before
        let r := x.r
        let t := y.r.withPc x.r.pc
        Spares s.dev e k c ∧ (e.engAt k).hallIn = (s.dev.engAt k).hallIn ∧ AfterB { x with memerr := x.memerr && !((o.getS (f1 w)).getLsbD 0) } y
        ∧ t = r)))
  ∧ (∀ (s : State) (k : EngIx) (c : CtxIx) (w : SlotWord), OpensB s.dev k c → w.slot = .b →
      w.f1 = 0 ∧ w.f2 = 0 ∧ w.f3 = 0 ∧ w.f4 = 0 ∧ w.k = 0 ∧ w.x = 0 → (s.dev.ctxAt k c).rep = none → (s.dev.ctxAt k c).goesOn →
      (s.dev.ctxAt k c).priv = true →
    Makes (.icinv (.re k) w) s [.eng, .reg (Adr.ENG_CYCLES_LO k), .reg (Adr.ENG_CYCLES_LO k + 4)] (fun e =>
      (let x := s.dev.ctxAt k c
        let y := e.ctxAt k c
        let o := x.before
        let r := x.r
        let t := y.r.withPc x.r.pc
        Spares s.dev e k c ∧ (e.engAt k).hallIn = (s.dev.engAt k).hallIn ∧ AfterB x y
        ∧ t = r ∧ (e.engAt k).icache = [] ∧ (e.engAt k).icBad = [])))

/-- BR, BCOND, JAL, JR and REP (R142, R145, R148), on a render engine and on PE: a taken branch whose target is in the room goes
there with two cycles counted; a branch not taken goes on; REP makes the next bundle repeat. -/
def Obligations.Branches : Prop :=
  (∀ (s : State) (k : EngIx) (c : CtxIx) (w : SlotWord), OpensB s.dev k c → w.slot = .b →
      w.f1 = 0 ∧ w.f2 = 0 ∧ w.f3 = 0 ∧ w.f4 = 0 ∧ w.k = 0 ∧ w.below 24 → (s.dev.ctxAt k c).rep = none →
      0 ≤ ((s.dev.ctxAt k c).r.pc.toNat : Int) + 16 * w.simm.toInt →
      ((s.dev.ctxAt k c).r.pc.toNat : Int) + 16 * w.simm.toInt < 0x800000 →
    Makes (.br (.re k) w) s [.eng, .reg (Adr.ENG_CYCLES_LO k), .reg (Adr.ENG_CYCLES_LO k + 4)] (fun e =>
      (let x := s.dev.ctxAt k c
        let y := e.ctxAt k c
        let o := x.before
        let r := x.r
        let t := y.r.withPc x.r.pc
        Spares s.dev e k c ∧ (e.engAt k).hallIn = (s.dev.engAt k).hallIn ∧ AfterJump x y (((s.dev.ctxAt k c).r.pc.toNat : Int) + 16 * w.simm.toInt)
        ∧ t = r)))
  ∧ (∀ (s : State) (k : EngIx) (c : CtxIx) (w : SlotWord) (a b : BitVec 64), OpensB s.dev k c → w.slot = .b →
      w.f3 = 0 ∧ w.f4 = 0 ∧ w.k = 0 ∧ w.below 27 ∧ w.xs 24 3 < 6 → (s.dev.ctxAt k c).rep = none →
      (s.dev.ctxAt k c).before.getS (f1 w) = a → (s.dev.ctxAt k c).before.getS (f2 w) = b →
      (match w.xs 24 3 with
          | 0 => a == b
          | 1 => a != b
          | 2 => a.slt b
          | 3 => b.sle a
          | 4 => a.ult b
          | _ => b.ule a) = true →
      0 ≤ ((s.dev.ctxAt k c).r.pc.toNat : Int) + 16 * w.simm.toInt →
      ((s.dev.ctxAt k c).r.pc.toNat : Int) + 16 * w.simm.toInt < 0x800000 →
    Makes (.bcond (.re k) w) s [.eng, .reg (Adr.ENG_CYCLES_LO k), .reg (Adr.ENG_CYCLES_LO k + 4)] (fun e =>
      (let x := s.dev.ctxAt k c
        let y := e.ctxAt k c
        let o := x.before
        let r := x.r
        let t := y.r.withPc x.r.pc
        Spares s.dev e k c ∧ (e.engAt k).hallIn = (s.dev.engAt k).hallIn ∧ AfterJump x y (((s.dev.ctxAt k c).r.pc.toNat : Int) + 16 * w.simm.toInt)
        ∧ t = r)))
  ∧ (∀ (s : State) (k : EngIx) (c : CtxIx) (w : SlotWord) (a b : BitVec 64), OpensB s.dev k c → w.slot = .b →
      w.f3 = 0 ∧ w.f4 = 0 ∧ w.k = 0 ∧ w.below 27 ∧ w.xs 24 3 < 6 → (s.dev.ctxAt k c).rep = none → (s.dev.ctxAt k c).goesOn →
      (s.dev.ctxAt k c).before.getS (f1 w) = a → (s.dev.ctxAt k c).before.getS (f2 w) = b →
      (match w.xs 24 3 with
          | 0 => a == b
          | 1 => a != b
          | 2 => a.slt b
          | 3 => b.sle a
          | 4 => a.ult b
          | _ => b.ule a) = false →
    Makes (.bcond (.re k) w) s [.eng, .reg (Adr.ENG_CYCLES_LO k), .reg (Adr.ENG_CYCLES_LO k + 4)] (fun e =>
      (let x := s.dev.ctxAt k c
        let y := e.ctxAt k c
        let o := x.before
        let r := x.r
        let t := y.r.withPc x.r.pc
        Spares s.dev e k c ∧ (e.engAt k).hallIn = (s.dev.engAt k).hallIn ∧ AfterB x y
        ∧ t = r)))
  ∧ (∀ (s : State) (k : EngIx) (c : CtxIx) (w : SlotWord), OpensB s.dev k c → w.slot = .b →
      w.f2 = 0 ∧ w.f3 = 0 ∧ w.f4 = 0 ∧ w.k = 0 ∧ w.below 24 → (s.dev.ctxAt k c).unwritten 0 (f1 w) → (s.dev.ctxAt k c).rep = none →
      0 ≤ ((s.dev.ctxAt k c).r.pc.toNat : Int) + 16 * w.simm.toInt →
      ((s.dev.ctxAt k c).r.pc.toNat : Int) + 16 * w.simm.toInt < 0x800000 →
    Makes (.jal (.re k) w) s [.eng, .reg (Adr.ENG_CYCLES_LO k), .reg (Adr.ENG_CYCLES_LO k + 4)] (fun e =>
      (let x := s.dev.ctxAt k c
        let y := e.ctxAt k c
        let o := x.before
        let r := x.r
        let t := y.r.withPc x.r.pc
        Spares s.dev e k c ∧ (e.engAt k).hallIn = (s.dev.engAt k).hallIn ∧ AfterJump x y (((s.dev.ctxAt k c).r.pc.toNat : Int) + 16 * w.simm.toInt)
        ∧ SetsS (f1 w) (BitVec.ofNat 64 (x.r.pc.toNat + 16)) r t)))
  ∧ (∀ (s : State) (k : EngIx) (c : CtxIx) (w : SlotWord), OpensB s.dev k c → w.slot = .b →
      w.f2 = 0 ∧ w.f3 = 0 ∧ w.f4 = 0 ∧ w.k = 0 ∧ w.x = 0 → (s.dev.ctxAt k c).rep = none →
    Makes (.jr (.re k) w) s [.eng, .reg (Adr.ENG_CYCLES_LO k), .reg (Adr.ENG_CYCLES_LO k + 4)] (fun e =>
      (let x := s.dev.ctxAt k c
        let y := e.ctxAt k c
        let o := x.before
        let r := x.r
        let t := y.r.withPc x.r.pc
        Spares s.dev e k c ∧ (e.engAt k).hallIn = (s.dev.engAt k).hallIn ∧ AfterJump x y ((16 * ((o.getS (f1 w)).toNat / 16 % 2 ^ 19) : Nat) : Int)
        ∧ t = r)))
  ∧ (∀ (s : State) (k : EngIx) (c : CtxIx) (w : SlotWord), OpensB s.dev k c → w.slot = .b →
      w.f2 = 0 ∧ w.f3 = 0 ∧ w.f4 = 0 ∧ w.k = 0 ∧ (w.x.getLsbD 8 = false → w.f1 = 0) ∧ (if w.x.getLsbD 8 then w.x.toNat = 256 else w.below 8) →
      (s.dev.ctxAt k c).rep = none → (s.dev.ctxAt k c).goesOn →
    Makes (.rep (.re k) w) s [.eng, .reg (Adr.ENG_CYCLES_LO k), .reg (Adr.ENG_CYCLES_LO k + 4)] (fun e =>
      (let x := s.dev.ctxAt k c
        let y := e.ctxAt k c
        let o := x.before
        let r := x.r
        let t := y.r.withPc x.r.pc
        Spares s.dev e k c ∧ (e.engAt k).hallIn = (s.dev.engAt k).hallIn ∧ AfterB x { y with rep := none } ∧ y.rep = some ((if w.x.getLsbD 8 then (o.getS (f1 w)).toNat % 256 else w.x.toNat) + 1)
        ∧ t = r)))
  ∧ (∀ (s : State) (w : SlotWord), PeRuns s.dev → w.slot = .b → w.f1 = 0 ∧ w.f2 = 0 ∧ w.f3 = 0 ∧ w.f4 = 0 ∧ w.k = 0 ∧ w.below 24 →
      s.dev.pch.rep = none → 0 ≤ (s.dev.pch.regs.pc.toNat : Int) + 16 * w.simm.toInt →
      (s.dev.pch.regs.pc.toNat : Int) + 16 * w.simm.toInt < 0x80000 →
    Makes (.br .pe w) s [.pch] (fun e =>
      (let o := s.dev.pch.regs
        let t := e.pch.regs.withPc o.pc
        e.pch = { s.dev.pch with regs := e.pch.regs } ∧ (e.pch.regs.pc.toNat : Int) = (s.dev.pch.regs.pc.toNat : Int) + 16 * w.simm.toInt
        ∧ t = o)))
  ∧ (∀ (s : State) (w : SlotWord) (a b : BitVec 64), PeRuns s.dev → w.slot = .b →
      w.f3 = 0 ∧ w.f4 = 0 ∧ w.k = 0 ∧ w.below 27 ∧ w.xs 24 3 < 6 → s.dev.pch.rep = none → s.dev.pch.regs.getS (f1 w) = a →
      s.dev.pch.regs.getS (f2 w) = b →
      (match w.xs 24 3 with
          | 0 => a == b
          | 1 => a != b
          | 2 => a.slt b
          | 3 => b.sle a
          | 4 => a.ult b
          | _ => b.ule a) = true →
      0 ≤ (s.dev.pch.regs.pc.toNat : Int) + 16 * w.simm.toInt → (s.dev.pch.regs.pc.toNat : Int) + 16 * w.simm.toInt < 0x80000 →
    Makes (.bcond .pe w) s [.pch] (fun e =>
      (let o := s.dev.pch.regs
        let t := e.pch.regs.withPc o.pc
        e.pch = { s.dev.pch with regs := e.pch.regs } ∧ (e.pch.regs.pc.toNat : Int) = (s.dev.pch.regs.pc.toNat : Int) + 16 * w.simm.toInt
        ∧ t = o)))
  ∧ (∀ (s : State) (w : SlotWord) (a b : BitVec 64), PeRuns s.dev → w.slot = .b →
      w.f3 = 0 ∧ w.f4 = 0 ∧ w.k = 0 ∧ w.below 27 ∧ w.xs 24 3 < 6 → s.dev.pch.rep = none → s.dev.pch.regs.getS (f1 w) = a →
      s.dev.pch.regs.getS (f2 w) = b →
      (match w.xs 24 3 with
          | 0 => a == b
          | 1 => a != b
          | 2 => a.slt b
          | 3 => b.sle a
          | 4 => a.ult b
          | _ => b.ule a) = false →
    Makes (.bcond .pe w) s [.pch] (fun e =>
      (let o := s.dev.pch.regs
        let t := e.pch.regs.withPc o.pc
        AfterPe s.dev e
        ∧ t = o)))
  ∧ (∀ (s : State) (w : SlotWord), PeRuns s.dev → w.slot = .b → w.f2 = 0 ∧ w.f3 = 0 ∧ w.f4 = 0 ∧ w.k = 0 ∧ w.below 24 →
      s.dev.pch.rep = none → 0 ≤ (s.dev.pch.regs.pc.toNat : Int) + 16 * w.simm.toInt →
      (s.dev.pch.regs.pc.toNat : Int) + 16 * w.simm.toInt < 0x80000 →
    Makes (.jal .pe w) s [.pch] (fun e =>
      (let o := s.dev.pch.regs
        let t := e.pch.regs.withPc o.pc
        e.pch = { s.dev.pch with regs := e.pch.regs } ∧ (e.pch.regs.pc.toNat : Int) = (s.dev.pch.regs.pc.toNat : Int) + 16 * w.simm.toInt
        ∧ SetsS (f1 w) (BitVec.ofNat 64 (o.pc.toNat + 16)) o t)))
  ∧ (∀ (s : State) (w : SlotWord), PeRuns s.dev → w.slot = .b → w.f2 = 0 ∧ w.f3 = 0 ∧ w.f4 = 0 ∧ w.k = 0 ∧ w.x = 0 → s.dev.pch.rep = none →
      ((16 * ((s.dev.pch.regs.getS (f1 w)).toNat / 16 % 2 ^ 19) : Nat) : Int) < 0x80000 →
    Makes (.jr .pe w) s [.pch] (fun e =>
      (let o := s.dev.pch.regs
        let t := e.pch.regs.withPc o.pc
        e.pch = { s.dev.pch with regs := e.pch.regs } ∧ (e.pch.regs.pc.toNat : Int) = ((16 * ((s.dev.pch.regs.getS (f1 w)).toNat / 16 % 2 ^ 19) : Nat) : Int)
        ∧ t = o)))
  ∧ (∀ (s : State) (w : SlotWord), PeRuns s.dev → w.slot = .b →
      w.f2 = 0 ∧ w.f3 = 0 ∧ w.f4 = 0 ∧ w.k = 0 ∧ (w.x.getLsbD 8 = false → w.f1 = 0) ∧ (if w.x.getLsbD 8 then w.x.toNat = 256 else w.below 8) →
      s.dev.pch.rep = none →
    Makes (.rep .pe w) s [.pch] (fun e =>
      (let o := s.dev.pch.regs
        let t := e.pch.regs.withPc o.pc
        e.pch = { s.dev.pch with regs := e.pch.regs, rep := some ((if w.x.getLsbD 8 then (o.getS (f1 w)).toNat % 256 else w.x.toNat) + 1) } ∧ e.pch.regs.pc = o.pc + 16
        ∧ t = o)))

/-- A slot-A instruction in slot B, a slot-B instruction in slot A, and on PE every slot-B instruction outside its subset (R91, R92,
R102, R105, R148, R532): the task stops with fault 3 and nothing of its bundle happened; PE stops with fault 3. -/
def Obligations.IllegalInstructions : Prop :=
  (∀ (s : State) (p : Op) (k : EngIx) (c : CtxIx) (w : SlotWord), p ∈ slotAOps → OpensA s.dev k c → w.slot = .b →
      (s.dev.ctxAt k (other c)).mode = .free →
    Makes (p (.re k) w) s [.eng, .regs .eng] (fun e =>
      (e.ctxAt k c).mode = .draining ∧ (e.ctxAt k c).fault = some 3 ∧ (e.ctxAt k c).r = (s.dev.ctxAt k c).r
        ∧ (e.ctxAt k c).stream = (s.dev.ctxAt k c).stream ∧ (e.ctxAt k c).staged = [] ∧ e.engState k = engActive ∧ e.on (ENG_EVENT.FAULT k) = true
        ∧ (s.dev.on (ENG_EVENT.FAULT k) = false → e.get (ENG_FAULT.CODE k) = 3 ∧ e.get (ENG_FAULT.CTX k) = c.val
          ∧ e.get (ENG_FAULT_PC.PC k) = (s.dev.ctxAt k c).r.pc.toNat ∧ e.get (ENG_FAULT_TASK.TASK k) = (s.dev.ctxAt k c).task % 2 ^ 14)
        ∧ e.ctxAt k (other c) = s.dev.ctxAt k (other c) ∧ (∀ j : EngIx, j ≠ k → e.engAt j = s.dev.engAt j)))
  ∧ (∀ (s : State) (p : Op) (k : EngIx) (c : CtxIx) (w : SlotWord), p ∈ slotBOps → OpensB s.dev k c → w.slot = .a →
      (s.dev.ctxAt k (other c)).mode = .free → (∀ b, (s.dev.ctxAt k c).bundle = some b → b.ovf = 0 ∧ b.lost = 0 ∧ b.wrap = 0) →
      (s.dev.ctxAt k c).r.ovf = (s.dev.ctxAt k c).before.ovf → (s.dev.ctxAt k c).r.lost = (s.dev.ctxAt k c).before.lost →
      (s.dev.ctxAt k c).r.wrap = (s.dev.ctxAt k c).before.wrap → (s.dev.ctxAt k c).r.pc = (s.dev.ctxAt k c).before.pc →
    Makes (p (.re k) w) s [.eng, .regs .eng] (fun e =>
      (e.ctxAt k c).mode = .draining ∧ (e.ctxAt k c).fault = some 3 ∧ (e.ctxAt k c).r = (s.dev.ctxAt k c).before
        ∧ (e.ctxAt k c).stream = (s.dev.ctxAt k c).stream ∧ (e.ctxAt k c).staged = [] ∧ e.engState k = engActive ∧ e.on (ENG_EVENT.FAULT k) = true
        ∧ (s.dev.on (ENG_EVENT.FAULT k) = false → e.get (ENG_FAULT.CODE k) = 3 ∧ e.get (ENG_FAULT.CTX k) = c.val
          ∧ e.get (ENG_FAULT_PC.PC k) = (s.dev.ctxAt k c).r.pc.toNat ∧ e.get (ENG_FAULT_TASK.TASK k) = (s.dev.ctxAt k c).task % 2 ^ 14)
        ∧ e.ctxAt k (other c) = s.dev.ctxAt k (other c) ∧ (∀ j : EngIx, j ≠ k → e.engAt j = s.dev.engAt j)))
  ∧ (∀ (s : State) (p : Op) (w : SlotWord), p ∈ notOnPe ++ slotAOps → PeRuns s.dev →
    Makes (p .pe w) s [.pch, .sap, .regs .pch] (fun e =>
      e.get PCH_PE_FAULT.CODE = 3 ∧ e.get PCH_PE_FAULT.PC = s.dev.pch.regs.pc.toNat ∧ e.on PCH_STATUS.PE_FAULT = true
        ∧ e.on PCH_STATUS.SAFE_RUN = false ∧ e.pch.regs = s.dev.pch.regs
        ∧ (e.reg Adr.PCH_PE_FAULT_CNT).toNat = min ((s.dev.reg Adr.PCH_PE_FAULT_CNT).toNat + 1) 0xFFFFFFFF))

/-! ### Ethernet -/

/-- PORT_START, PORT_STOP, PORT_STOPPED, CNT_CLR, LINK_UP, LINK_DOWN, AN_COMPLETE and FILTER_VALID_SET (R312, R313, R314, R326,
R334, R348, R349): a port starts when its setup passes; it stops when no frame is on the wire; a link that falls ends what
waits; pause is resolved by Annex 28B; a filter entry is checked. -/
def Obligations.EthernetPorts : Prop :=
  (∀ (s : State) (m : Master) (p : PortIx) (v : Word), Served s.dev m → v.getLsbD 1 = false → v.getLsbD 0 = true →
      s.dev.on (MAC_CTRL.PORT_EN p) = false → s.dev.get (MAC_PHY_CFG.MODE p) ≠ 3 → s.dev.get (MAC_PHY_CFG.FEC p) ≠ 3 →
      (s.dev.get (MAC_PHY_CFG.MODE p) ≠ 0 → s.dev.get (MAC_PHY_CFG.FEC p) = 0) →
      s.dev.get (MAC_FC_WM.LOW p) < s.dev.get (MAC_FC_WM.HIGH p) → s.dev.get (MAC_FC_WM.HIGH p) ≤ 512 →
      p.val < 2 ∨ s.dev.on (MAC_PT_CFG.PASS_EN 2) = false →
    Makes (.portStart m p v) s [.reg (Adr.MAC_CTRL p), .reg (Adr.MAC_STATUS p), .resp] (fun e =>
      e.resp = .okay 0 ∧ e.on (MAC_CTRL.PORT_EN p) = true ∧ e.reg (Adr.MAC_STATUS p) = (s.dev.set (MAC_STATUS.RUNNING p) 1).reg (Adr.MAC_STATUS p)))
  ∧ (∀ (s : State) (m : Master) (p : PortIx) (v : Word), Served s.dev m → v.getLsbD 1 = false → v.getLsbD 0 = true →
      s.dev.on (MAC_CTRL.PORT_EN p) = false →
      s.dev.get (MAC_PHY_CFG.MODE p) = 3 ∨ (s.dev.get (MAC_PHY_CFG.MODE p) ≠ 0 ∧ s.dev.get (MAC_PHY_CFG.FEC p) ≠ 0) ∨ s.dev.get (MAC_FC_WM.HIGH p) ≤ s.dev.get (MAC_FC_WM.LOW p) →
    Makes (.portStart m p v) s [.reg (Adr.MAC_CTRL p), .reg (Adr.MAC_STATUS p), .resp] (fun e =>
      e.resp = .okay 0 ∧ e.on (MAC_CTRL.PORT_EN p) = true ∧ e.reg (Adr.MAC_STATUS p) = (s.dev.set (MAC_STATUS.CFG_BAD p) 1).reg (Adr.MAC_STATUS p)))
  ∧ (∀ (s : State) (m : Master) (p : PortIx) (v : Word), Served s.dev m → v.getLsbD 1 = false → v.getLsbD 0 = false →
      s.dev.on (MAC_CTRL.PORT_EN p) = true → s.dev.on (MAC_STATUS.RUNNING p) = true → (s.dev.macAt p).wire.isSome = true →
    Makes (.portStop m p v) s [.reg (Adr.MAC_CTRL p), .resp] (fun e =>
      e.resp = .okay 0 ∧ e.on (MAC_CTRL.PORT_EN p) = false ∧ e.on (MAC_STATUS.RUNNING p) = true))
  ∧ (∀ (s : State) (m : Master) (p : PortIx) (v : Word), Served s.dev m → v.getLsbD 1 = false → v.getLsbD 0 = false →
      s.dev.on (MAC_CTRL.PORT_EN p) = true → s.dev.on (MAC_STATUS.RUNNING p) = true → (s.dev.macAt p).wire = none →
      (∀ x ∈ (s.dev.macAt p).txq, ∀ r i q, x.2.src ≠ .host r i q ∧ x.2.src ≠ .ptp i) →
      s.dev.get (TB_PTP_TXWR.WR p) = s.dev.get (TB_PTP_TXCFG.RD p) →
    Makes (.portStop m p v) s [.reg (Adr.MAC_CTRL p), .resp, .reg (Adr.MAC_STATUS p), .mac, .reg (Adr.MAC_TX_LINK_DOWN p)] (fun e =>
      e.resp = .okay 0 ∧ e.on (MAC_CTRL.PORT_EN p) = false ∧ e.on (MAC_STATUS.RUNNING p) = false ∧ e.on (MAC_STATUS.RX_PAUSED p) = false
      ∧ e.macAt p = { s.dev.macAt p with txq := [], ctl := [], heldAll := false, heldCls := 0 } ∧ (e.reg (Adr.MAC_TX_LINK_DOWN p)).toNat = min ((s.dev.reg (Adr.MAC_TX_LINK_DOWN p)).toNat + (s.dev.macAt p).txq.length) 0xFFFFFFFF ∧ ∀ j : PortIx, j ≠ p → e.macAt j = s.dev.macAt j))
  ∧ (∀ (s : State) (p : PortIx), s.dev.chipRuns = true → s.dev.on (MAC_CTRL.PORT_EN p) = false → s.dev.on (MAC_STATUS.RUNNING p) = true →
      (s.dev.macAt p).wire = none → s.dev.get (TB_PTP_TXWR.WR p) = s.dev.get (TB_PTP_TXCFG.RD p) →
      (∀ x ∈ (s.dev.macAt p).txq, ∀ r i q, x.2.src ≠ .host r i q ∧ x.2.src ≠ .ptp i) →
    Makes (.portStopped p) s [.reg (Adr.MAC_STATUS p), .mac, .reg (Adr.MAC_TX_LINK_DOWN p)] (fun e =>
      e.on (MAC_STATUS.RUNNING p) = false ∧ e.on (MAC_STATUS.RX_PAUSED p) = false
      ∧ e.macAt p = { s.dev.macAt p with txq := [], ctl := [], heldAll := false, heldCls := 0 } ∧ (e.reg (Adr.MAC_TX_LINK_DOWN p)).toNat = min ((s.dev.reg (Adr.MAC_TX_LINK_DOWN p)).toNat + (s.dev.macAt p).txq.length) 0xFFFFFFFF ∧ ∀ j : PortIx, j ≠ p → e.macAt j = s.dev.macAt j))
  ∧ (∀ (s : State) (m : Master) (p : PortIx) (v : Word), Served s.dev m → v.getLsbD 1 = true →
      v.getLsbD 0 = s.dev.on (MAC_CTRL.PORT_EN p) →
    Makes (.cntClr m p v) s [.regs .mac, .resp] (fun e =>
      e.resp = .okay 0 ∧ (∀ a, Blk.mac.holds a → a ≠ Adr.MAC_CTRL p → e.reg a
        = if Adr.MAC_RX_OCTETS_LO p ≤ a ∧ a < Adr.MAC_RX_OCTETS_LO p + 184 then (if a % 4 = 0 then 0 else s.dev.reg a) else s.dev.reg a)))
  ∧ (∀ (s : State) (p : PortIx), s.dev.chipRuns = true → s.dev.macOn p = true → s.dev.netLocked p = true →
    Makes (.linkUp p) s [.reg (Adr.MAC_STATUS p)] (fun e =>
      e.reg (Adr.MAC_STATUS p) = (((s.dev.set (MAC_STATUS.LINK p) 1).set (MAC_STATUS.BLOCK_LOCK p) 1).set (MAC_STATUS.HI_BER p) 0).reg (Adr.MAC_STATUS p)))
  ∧ (∀ (s : State) (p : PortIx) (hiBer : Bool), s.dev.chipRuns = true → s.dev.on (MAC_STATUS.LINK p) = true →
      s.dev.on (MAC_STATUS.HI_BER p) = false → (s.dev.macAt p).wire = none → (s.dev.macAt p).heldAll = false →
      (s.dev.macAt p).heldCls = 0 → s.dev.get (TB_PTP_TXWR.WR p) = s.dev.get (TB_PTP_TXCFG.RD p) →
      (∀ x ∈ (s.dev.macAt p).txq, ∀ r i q, x.2.src ≠ .host r i q ∧ x.2.src ≠ .ptp i) →
    Makes (.linkDown p hiBer) s [.reg (Adr.MAC_STATUS p), .mac, .reg (Adr.MAC_AN_STATUS p), .reg (Adr.MAC_TX_LINK_DOWN p), .reg (Adr.MAC_LINK_DOWN p), .reg (Adr.MAC_HI_BER p)] (fun e =>
      e.on (MAC_STATUS.LINK p) = false ∧ e.on (MAC_STATUS.HI_BER p) = hiBer ∧ e.on (MAC_STATUS.RUNNING p) = s.dev.on (MAC_STATUS.RUNNING p)
      ∧ e.on (MAC_AN_STATUS.DONE p) = false ∧ (e.reg (Adr.MAC_LINK_DOWN p)).toNat = min ((s.dev.reg (Adr.MAC_LINK_DOWN p)).toNat + 1) 0xFFFFFFFF ∧ (e.reg (Adr.MAC_TX_LINK_DOWN p)).toNat = min ((s.dev.reg (Adr.MAC_TX_LINK_DOWN p)).toNat + (s.dev.macAt p).txq.length) 0xFFFFFFFF
      ∧ (e.reg (Adr.MAC_HI_BER p)).toNat = min ((s.dev.reg (Adr.MAC_HI_BER p)).toNat + (if hiBer then 1 else 0)) 0xFFFFFFFF ∧ e.macAt p = { s.dev.macAt p with txq := [], ctl := [] } ∧ ∀ j : PortIx, j ≠ p → e.macAt j = s.dev.macAt j))
  ∧ (∀ (s : State) (p : PortIx) (fd sym asm : Bool) (rf : Fin 4), s.dev.chipRuns = true → s.dev.get (MAC_PHY_CFG.MODE p) = 2 →
      s.dev.on (MAC_AN_CFG.AN_EN p) = true →
    Makes (.anComplete p fd sym asm rf) s [.reg (Adr.MAC_AN_STATUS p)] (fun e =>
      let ls := s.dev.on (MAC_AN_CFG.ADV_SYM p)
      let la := s.dev.on (MAC_AN_CFG.ADV_ASM p)
      e.on (MAC_AN_STATUS.DONE p) = true ∧ e.on (MAC_AN_STATUS.LP_FD p) = fd ∧ e.on (MAC_AN_STATUS.LP_SYM p) = sym ∧ e.on (MAC_AN_STATUS.LP_ASM p) = asm
      ∧ e.get (MAC_AN_STATUS.LP_RF p) = rf.val
      ∧ e.on (MAC_AN_STATUS.PAUSE_TX p) = (ls && sym || !ls && la && sym && asm) ∧ e.on (MAC_AN_STATUS.PAUSE_RX p) = (ls && sym || ls && la && !sym && asm)))
  ∧ (∀ (s : State) (m : Master) (p : PortIx) (n : Fin 128) (v : Word), Served s.dev m → v.getLsbD 31 = true →
      s.dev.on (MAC_FLT_ACTION.VALID p n) = false → (s.dev.setReg (Adr.MAC_FLT_ACTION p n) v).fltCheck p n = 0 →
    Makes (.filterValidSet m p n v) s [.reg (Adr.MAC_FLT_ACTION p n), .resp] (fun e =>
      e.resp = .okay 0 ∧ e.reg (Adr.MAC_FLT_ACTION p n) = v))
  ∧ (∀ (s : State) (m : Master) (p : PortIx) (n : Fin 128) (v : Word), Served s.dev m → v.getLsbD 31 = true →
      s.dev.on (MAC_FLT_ACTION.VALID p n) = false → (s.dev.setReg (Adr.MAC_FLT_ACTION p n) v).fltCheck p n ≠ 0 →
    Makes (.filterValidSet m p n v) s [.reg (Adr.MAC_FLT_ACTION p n), .reg (Adr.MAC_FLT_VERR p), .reg (Adr.MAC_STATUS p), .resp] (fun e =>
      e.resp = .okay 0 ∧ e.on (MAC_FLT_ACTION.VALID p n) = false ∧ e.get (MAC_FLT_VERR.INDEX p) = n.val ∧ e.get (MAC_FLT_VERR.CODE p) = (s.dev.setReg (Adr.MAC_FLT_ACTION p n) v).fltCheck p n
      ∧ e.on (MAC_STATUS.VERR p) = true ∧ (∀ i, i < 31 → (e.reg (Adr.MAC_FLT_ACTION p n)).getLsbD i = v.getLsbD i)))

/-- MAC_FRAME_RECEIVE, PAUSE_EXPIRY, XOFF_REFRESH, TX_FRAME_START, TX_FRAME_DONE and LAUNCH_TIME_REACHED (R316, R318, R320, R323,
R329, R333, R336, R338, R364): a received frame is counted by the first check it fails, or filtered; pauses hold and release
queues; the wire takes the frame of the lowest PRIO; late frames are dropped. -/
def Obligations.EthernetFrames : Prop :=
  (∀ (s : State) (p : PortIx) (l : List Byte) (corr uncorr : Nat), s.dev.chipRuns = true → s.dev.inStandby = false →
      s.dev.macOn p = true → s.dev.on (MAC_STATUS.RUNNING p) = true → s.dev.on (MAC_STATUS.LINK p) = true → l.length < 64 →
    Makes (.macFrameReceive p l none none corr uncorr) s [.reg (Adr.MAC_FEC_CORR p), .reg (Adr.MAC_FEC_UNCORR p), .reg (Adr.MAC_RX_RUNT p)] (fun e =>
      (e.reg (Adr.MAC_FEC_CORR p)).toNat = min ((s.dev.reg (Adr.MAC_FEC_CORR p)).toNat + corr) 0xFFFFFFFF ∧ (e.reg (Adr.MAC_FEC_UNCORR p)).toNat = min ((s.dev.reg (Adr.MAC_FEC_UNCORR p)).toNat + uncorr) 0xFFFFFFFF ∧ (e.reg (Adr.MAC_RX_RUNT p)).toNat = min ((s.dev.reg (Adr.MAC_RX_RUNT p)).toNat + 1) 0xFFFFFFFF))
  ∧ (∀ (s : State) (p : PortIx) (l : List Byte) (corr uncorr : Nat), s.dev.chipRuns = true → s.dev.inStandby = false →
      s.dev.macOn p = true → s.dev.on (MAC_STATUS.RUNNING p) = true → s.dev.on (MAC_STATUS.LINK p) = true → 64 ≤ l.length →
      s.dev.frameLimit p (l.take (l.length - 4)) < l.length → p.val < 2 ∨ s.dev.on (MAC_PT_CFG.PASS_EN 2) = false →
    Makes (.macFrameReceive p l none none corr uncorr) s [.reg (Adr.MAC_FEC_CORR p), .reg (Adr.MAC_FEC_UNCORR p), .reg (Adr.MAC_RX_OVERSIZE p)] (fun e =>
      (e.reg (Adr.MAC_FEC_CORR p)).toNat = min ((s.dev.reg (Adr.MAC_FEC_CORR p)).toNat + corr) 0xFFFFFFFF ∧ (e.reg (Adr.MAC_FEC_UNCORR p)).toNat = min ((s.dev.reg (Adr.MAC_FEC_UNCORR p)).toNat + uncorr) 0xFFFFFFFF ∧ (e.reg (Adr.MAC_RX_OVERSIZE p)).toNat = min ((s.dev.reg (Adr.MAC_RX_OVERSIZE p)).toNat + 1) 0xFFFFFFFF))
  ∧ (∀ (s : State) (p : PortIx) (l : List Byte) (corr uncorr : Nat), s.dev.chipRuns = true → s.dev.inStandby = false →
      s.dev.macOn p = true → s.dev.on (MAC_STATUS.RUNNING p) = true → s.dev.on (MAC_STATUS.LINK p) = true → 64 ≤ l.length →
      l.length ≤ s.dev.frameLimit p (l.take (l.length - 4)) → l.drop (l.length - 4) ≠ bytesOf 4 (crc32 (l.take (l.length - 4))) →
      p.val < 2 ∨ s.dev.on (MAC_PT_CFG.PASS_EN 2) = false →
    Makes (.macFrameReceive p l none none corr uncorr) s [.reg (Adr.MAC_FEC_CORR p), .reg (Adr.MAC_FEC_UNCORR p), .reg (Adr.MAC_RX_FCS p)] (fun e =>
      (e.reg (Adr.MAC_FEC_CORR p)).toNat = min ((s.dev.reg (Adr.MAC_FEC_CORR p)).toNat + corr) 0xFFFFFFFF ∧ (e.reg (Adr.MAC_FEC_UNCORR p)).toNat = min ((s.dev.reg (Adr.MAC_FEC_UNCORR p)).toNat + uncorr) 0xFFFFFFFF ∧ (e.reg (Adr.MAC_RX_FCS p)).toNat = min ((s.dev.reg (Adr.MAC_RX_FCS p)).toNat + 1) 0xFFFFFFFF))
  ∧ (∀ (s : State) (p : PortIx) (l : List Byte) (corr uncorr : Nat) (b : List Byte), s.dev.chipRuns = true → s.dev.inStandby = false →
      s.dev.macOn p = true → s.dev.on (MAC_STATUS.RUNNING p) = true → s.dev.on (MAC_STATUS.LINK p) = true → 60 ≤ b.length →
      b.length + 4 ≤ s.dev.frameLimit p b → l = b ++ bytesOf 4 (crc32 b) →
      p.val ≠ 0 ∨ (s.dev.get (MAC0_WAKE_CTRL.PAT_EN 0) = 0 ∧ s.dev.on (MAC0_WAKE_CTRL.MAGIC_EN 0) = false) →
      p.val < 2 ∨ s.dev.on (MAC_PT_CFG.PASS_EN 2) = false → etherType b ≠ 0x8808 →
      (∀ n : Fin 128, s.dev.on (MAC_FLT_ACTION.VALID p n) = false) → s.dev.on (MAC_CFG.DEFAULT p) = false →
    Makes (.macFrameReceive p l none none corr uncorr) s [.reg (Adr.MAC_FEC_CORR p), .reg (Adr.MAC_FEC_UNCORR p), .reg (Adr.MAC_RX_OCTETS_LO p), .reg (Adr.MAC_RX_OCTETS_LO p + 4), .reg (Adr.MAC_RX_FRAMES_LO p), .reg (Adr.MAC_RX_FRAMES_LO p + 4), .reg (Adr.MAC_RX_BROADCAST p), .reg (Adr.MAC_RX_MULTICAST p), .reg (Adr.MAC_RX_FILTER_MISS p)] (fun e =>
      (e.reg (Adr.MAC_FEC_CORR p)).toNat = min ((s.dev.reg (Adr.MAC_FEC_CORR p)).toNat + corr) 0xFFFFFFFF ∧ (e.reg (Adr.MAC_FEC_UNCORR p)).toNat = min ((s.dev.reg (Adr.MAC_FEC_UNCORR p)).toNat + uncorr) 0xFFFFFFFF ∧ e.get64 (Adr.MAC_RX_OCTETS_LO p) = (s.dev.get64 (Adr.MAC_RX_OCTETS_LO p) + l.length) % 2 ^ 64
      ∧ e.get64 (Adr.MAC_RX_FRAMES_LO p) = (s.dev.get64 (Adr.MAC_RX_FRAMES_LO p) + 1) % 2 ^ 64
      ∧ (e.reg (Adr.MAC_RX_BROADCAST p)).toNat = min ((s.dev.reg (Adr.MAC_RX_BROADCAST p)).toNat + (if be b 0 6 = 2 ^ 48 - 1 then 1 else 0)) 0xFFFFFFFF
      ∧ (e.reg (Adr.MAC_RX_MULTICAST p)).toNat = min ((s.dev.reg (Adr.MAC_RX_MULTICAST p)).toNat + (if be b 0 6 ≠ 2 ^ 48 - 1 ∧ be b 0 1 % 2 = 1 then 1 else 0)) 0xFFFFFFFF
      ∧ (e.reg (Adr.MAC_RX_FILTER_MISS p)).toNat = min ((s.dev.reg (Adr.MAC_RX_FILTER_MISS p)).toNat + 1) 0xFFFFFFFF))
  ∧ (∀ (s : State) (p : PortIx) (l : List Byte) (corr uncorr : Nat) (b : List Byte) (n : Nat), s.dev.chipRuns = true →
      s.dev.inStandby = false → s.dev.macOn p = true → s.dev.on (MAC_STATUS.RUNNING p) = true → s.dev.on (MAC_STATUS.LINK p) = true →
      60 ≤ b.length → b.length + 4 ≤ s.dev.frameLimit p b → l = b ++ bytesOf 4 (crc32 b) →
      p.val ≠ 0 ∨ (s.dev.get (MAC0_WAKE_CTRL.PAT_EN 0) = 0 ∧ s.dev.on (MAC0_WAKE_CTRL.MAGIC_EN 0) = false) →
      p.val < 2 ∨ s.dev.on (MAC_PT_CFG.PASS_EN 2) = false → etherType b ≠ 0x8808 → s.dev.fltFind p (frameKey b) = some n → n < 128 →
      s.dev.get (MAC_FLT_ACTION.ACTION p n) = 1 →
    Makes (.macFrameReceive p l none none corr uncorr) s [.reg (Adr.MAC_FEC_CORR p), .reg (Adr.MAC_FEC_UNCORR p), .reg (Adr.MAC_RX_OCTETS_LO p), .reg (Adr.MAC_RX_OCTETS_LO p + 4), .reg (Adr.MAC_RX_FRAMES_LO p), .reg (Adr.MAC_RX_FRAMES_LO p + 4), .reg (Adr.MAC_RX_BROADCAST p), .reg (Adr.MAC_RX_MULTICAST p), .reg (Adr.MAC_FLT_HITS p n), .reg (Adr.MAC_RX_FILTER_DROP p)] (fun e =>
      (e.reg (Adr.MAC_FEC_CORR p)).toNat = min ((s.dev.reg (Adr.MAC_FEC_CORR p)).toNat + corr) 0xFFFFFFFF ∧ (e.reg (Adr.MAC_FEC_UNCORR p)).toNat = min ((s.dev.reg (Adr.MAC_FEC_UNCORR p)).toNat + uncorr) 0xFFFFFFFF ∧ e.get64 (Adr.MAC_RX_OCTETS_LO p) = (s.dev.get64 (Adr.MAC_RX_OCTETS_LO p) + l.length) % 2 ^ 64
      ∧ e.get64 (Adr.MAC_RX_FRAMES_LO p) = (s.dev.get64 (Adr.MAC_RX_FRAMES_LO p) + 1) % 2 ^ 64
      ∧ (e.reg (Adr.MAC_RX_BROADCAST p)).toNat = min ((s.dev.reg (Adr.MAC_RX_BROADCAST p)).toNat + (if be b 0 6 = 2 ^ 48 - 1 then 1 else 0)) 0xFFFFFFFF
      ∧ (e.reg (Adr.MAC_RX_MULTICAST p)).toNat = min ((s.dev.reg (Adr.MAC_RX_MULTICAST p)).toNat + (if be b 0 6 ≠ 2 ^ 48 - 1 ∧ be b 0 1 % 2 = 1 then 1 else 0)) 0xFFFFFFFF
      ∧ (e.reg (Adr.MAC_FLT_HITS p n)).toNat = min ((s.dev.reg (Adr.MAC_FLT_HITS p n)).toNat + 1) 0xFFFFFFFF ∧ (e.reg (Adr.MAC_RX_FILTER_DROP p)).toNat = min ((s.dev.reg (Adr.MAC_RX_FILTER_DROP p)).toNat + 1) 0xFFFFFFFF))
  ∧ (∀ (s : State) (p : PortIx) (l : List Byte) (corr uncorr : Nat) (b : List Byte) (n : Nat), s.dev.chipRuns = true →
      s.dev.inStandby = false → s.dev.macOn p = true → s.dev.on (MAC_STATUS.RUNNING p) = true → s.dev.on (MAC_STATUS.LINK p) = true →
      60 ≤ b.length → b.length + 4 ≤ s.dev.frameLimit p b → l = b ++ bytesOf 4 (crc32 b) →
      p.val ≠ 0 ∨ (s.dev.get (MAC0_WAKE_CTRL.PAT_EN 0) = 0 ∧ s.dev.on (MAC0_WAKE_CTRL.MAGIC_EN 0) = false) →
      p.val < 2 ∨ s.dev.on (MAC_PT_CFG.PASS_EN 2) = false → etherType b ≠ 0x8808 → s.dev.fltFind p (frameKey b) = some n → n < 128 →
      s.dev.get (MAC_FLT_ACTION.ACTION p n) = 0 → s.dev.on (MAC_RXQ_CFG.EN p (s.dev.get (MAC_FLT_ACTION.QUEUE p n))) = true →
      s.dev.get (MAC_RXQ_CFG.KIND p (s.dev.get (MAC_FLT_ACTION.QUEUE p n))) = 1 → s.dev.feRunning = true →
    Makes (.macFrameReceive p l none none corr uncorr) s [.reg (Adr.MAC_FEC_CORR p), .reg (Adr.MAC_FEC_UNCORR p), .reg (Adr.MAC_RX_OCTETS_LO p), .reg (Adr.MAC_RX_OCTETS_LO p + 4), .reg (Adr.MAC_RX_FRAMES_LO p), .reg (Adr.MAC_RX_FRAMES_LO p + 4), .reg (Adr.MAC_RX_BROADCAST p), .reg (Adr.MAC_RX_MULTICAST p), .reg (Adr.MAC_FLT_HITS p n), .fe] (fun e =>
      (e.reg (Adr.MAC_FEC_CORR p)).toNat = min ((s.dev.reg (Adr.MAC_FEC_CORR p)).toNat + corr) 0xFFFFFFFF ∧ (e.reg (Adr.MAC_FEC_UNCORR p)).toNat = min ((s.dev.reg (Adr.MAC_FEC_UNCORR p)).toNat + uncorr) 0xFFFFFFFF ∧ e.get64 (Adr.MAC_RX_OCTETS_LO p) = (s.dev.get64 (Adr.MAC_RX_OCTETS_LO p) + l.length) % 2 ^ 64
      ∧ e.get64 (Adr.MAC_RX_FRAMES_LO p) = (s.dev.get64 (Adr.MAC_RX_FRAMES_LO p) + 1) % 2 ^ 64
      ∧ (e.reg (Adr.MAC_RX_BROADCAST p)).toNat = min ((s.dev.reg (Adr.MAC_RX_BROADCAST p)).toNat + (if be b 0 6 = 2 ^ 48 - 1 then 1 else 0)) 0xFFFFFFFF
      ∧ (e.reg (Adr.MAC_RX_MULTICAST p)).toNat = min ((s.dev.reg (Adr.MAC_RX_MULTICAST p)).toNat + (if be b 0 6 ≠ 2 ^ 48 - 1 ∧ be b 0 1 % 2 = 1 then 1 else 0)) 0xFFFFFFFF
      ∧ (e.reg (Adr.MAC_FLT_HITS p n)).toNat = min ((s.dev.reg (Adr.MAC_FLT_HITS p n)).toNat + 1) 0xFFFFFFFF ∧ e.fe = { s.dev.fe with inbox := s.dev.fe.inbox ++ [⟨p, b⟩] }))
  ∧ (∀ (s : State) (p : PortIx) (l : List Byte) (corr uncorr : Nat) (b : List Byte), s.dev.chipRuns = true → s.dev.inStandby = false →
      s.dev.macOn p = true → s.dev.on (MAC_STATUS.RUNNING p) = true → s.dev.on (MAC_STATUS.LINK p) = true → 60 ≤ b.length →
      b.length + 4 ≤ s.dev.frameLimit p b → l = b ++ bytesOf 4 (crc32 b) →
      p.val ≠ 0 ∨ (s.dev.get (MAC0_WAKE_CTRL.PAT_EN 0) = 0 ∧ s.dev.on (MAC0_WAKE_CTRL.MAGIC_EN 0) = false) → b.getD 12 0 = 0x88 →
      b.getD 13 0 = 0x08 → be b 14 2 = 1 → s.dev.fcRx p = true →
    Makes (.macFrameReceive p l none none corr uncorr) s [.reg (Adr.MAC_FEC_CORR p), .reg (Adr.MAC_FEC_UNCORR p), .reg (Adr.MAC_RX_OCTETS_LO p), .reg (Adr.MAC_RX_OCTETS_LO p + 4), .reg (Adr.MAC_RX_FRAMES_LO p), .reg (Adr.MAC_RX_FRAMES_LO p + 4), .reg (Adr.MAC_RX_BROADCAST p), .reg (Adr.MAC_RX_MULTICAST p), .reg (Adr.MAC_RX_PAUSE p), .reg (Adr.MAC_STATUS p), .mac] (fun e =>
      (e.reg (Adr.MAC_FEC_CORR p)).toNat = min ((s.dev.reg (Adr.MAC_FEC_CORR p)).toNat + corr) 0xFFFFFFFF ∧ (e.reg (Adr.MAC_FEC_UNCORR p)).toNat = min ((s.dev.reg (Adr.MAC_FEC_UNCORR p)).toNat + uncorr) 0xFFFFFFFF ∧ e.get64 (Adr.MAC_RX_OCTETS_LO p) = (s.dev.get64 (Adr.MAC_RX_OCTETS_LO p) + l.length) % 2 ^ 64
      ∧ e.get64 (Adr.MAC_RX_FRAMES_LO p) = (s.dev.get64 (Adr.MAC_RX_FRAMES_LO p) + 1) % 2 ^ 64
      ∧ (e.reg (Adr.MAC_RX_BROADCAST p)).toNat = min ((s.dev.reg (Adr.MAC_RX_BROADCAST p)).toNat + (if be b 0 6 = 2 ^ 48 - 1 then 1 else 0)) 0xFFFFFFFF
      ∧ (e.reg (Adr.MAC_RX_MULTICAST p)).toNat = min ((s.dev.reg (Adr.MAC_RX_MULTICAST p)).toNat + (if be b 0 6 ≠ 2 ^ 48 - 1 ∧ be b 0 1 % 2 = 1 then 1 else 0)) 0xFFFFFFFF
      ∧ (e.reg (Adr.MAC_RX_PAUSE p)).toNat = min ((s.dev.reg (Adr.MAC_RX_PAUSE p)).toNat + 1) 0xFFFFFFFF ∧ e.macAt p = { s.dev.macAt p with heldAll := be b 16 2 != 0 } ∧ ∀ j : PortIx, j ≠ p → e.macAt j = s.dev.macAt j
      ∧ e.on (MAC_STATUS.RX_PAUSED p) = (List.range 32).any (fun q => e.qHeld p q)))
  ∧ (∀ (s : State) (p : PortIx) (cls : Option (Fin 8)), s.dev.chipRuns = true →
    Makes (.pauseExpiry p cls) s [.reg (Adr.MAC_STATUS p), .mac] (fun e =>
      e.macAt p = (match cls with
        | none => { s.dev.macAt p with heldAll := false }
        | some c => { s.dev.macAt p with heldCls := (s.dev.macAt p).heldCls &&& ~~~((1 : BitVec 8) <<< c.val) })
      ∧ e.on (MAC_STATUS.RX_PAUSED p) = (List.range 32).any (fun q => e.qHeld p q) ∧ ∀ j : PortIx, j ≠ p → e.macAt j = s.dev.macAt j))
  ∧ (∀ (s : State) (p : PortIx), s.dev.chipRuns = true → s.dev.on (MAC_STATUS.XOFF p) = true → s.dev.fcTx p = true →
      1024 * s.dev.get (MAC_FC_WM.LOW p) ≤ s.dev.rxOcc p →
    Makes (.xoffRefresh p) s [.reg (Adr.MAC_STATUS p), .mac, .reg (Adr.MAC_TX_XOFF p)] (fun e =>
      e.macAt p = { s.dev.macAt p with ctl := (s.dev.macAt p).ctl ++ [s.dev.pauseFrame p 0xFFFF] } ∧ (e.reg (Adr.MAC_TX_XOFF p)).toNat = min ((s.dev.reg (Adr.MAC_TX_XOFF p)).toNat + 1) 0xFFFFFFFF ∧ e.on (MAC_STATUS.XOFF p) = true ∧ ∀ j : PortIx, j ≠ p → e.macAt j = s.dev.macAt j))
  ∧ (∀ (s : State) (p : PortIx) (l : List Byte) (t : List (List Byte)), s.dev.chipRuns = true → (s.dev.macAt p).wire = none →
      s.dev.on (MAC_STATUS.RUNNING p) = true → s.dev.on (MAC_STATUS.LINK p) = true → (s.dev.macAt p).ctl = l :: t →
    Makes (.txFrameStart p) s [.mac] (fun e =>
      e.macAt p = { s.dev.macAt p with ctl := t, wire := some ⟨32, ⟨l, .pause, false, none, false⟩, 0, false, false⟩ } ∧ ∀ j : PortIx, j ≠ p → e.macAt j = s.dev.macAt j))
  ∧ (∀ (s : State) (p : PortIx) (q : Nat) (f : TxFrame), s.dev.chipRuns = true → (s.dev.macAt p).wire = none →
      s.dev.on (MAC_STATUS.RUNNING p) = true → s.dev.on (MAC_STATUS.LINK p) = true → (s.dev.macAt p).ctl = [] →
      s.dev.txHead p q = some f → q < 32 →
      (∀ x ∈ (s.dev.macAt p).txq, x.1 < 33 ∧ x.2.launch = none ∧ (s.dev.txPrio p q < s.dev.txPrio p x.1 ∨ s.dev.txPrio p q = s.dev.txPrio p x.1 ∧ q ≤ x.1)) →
      (s.dev.macAt p).heldAll = false → (s.dev.macAt p).heldCls = 0 → s.dev.get (MAC_TXQ_CFG.TS_MODE p q) = 0 →
      s.dev.get (TB_PTP_TXWR.WR p) = s.dev.get (TB_PTP_TXCFG.RD p) → (∀ t, f.src ≠ .fwd t) →
    Makes (.txFrameStart p) s [.mac] (fun e =>
      e.macAt p = { s.dev.macAt p with txq := (s.dev.macAt p).txq.eraseP (fun x => x.1 == q), wire := some ⟨q, f, 0, false, false⟩ } ∧ ∀ j : PortIx, j ≠ p → e.macAt j = s.dev.macAt j))
  ∧ (∀ (s : State) (p : PortIx) (w : OnWire), s.dev.chipRuns = true → s.dev.macOn p = true → (s.dev.macAt p).wire = some w →
      w.f.src = .pause ∨ w.f.src = .gang ∨ (∃ t, w.f.src = .fwd t) → s.dev.on (MAC_PHY_CFG.LOOPBACK p) = false →
      s.dev.get (TB_PTP_TXWR.WR p) = s.dev.get (TB_PTP_TXCFG.RD p) →
    Makes (.txFrameDone p) s [.mac, .reg (Adr.MAC_TX_OCTETS_LO p), .reg (Adr.MAC_TX_OCTETS_LO p + 4), .reg (Adr.MAC_TX_FRAMES_LO p), .reg (Adr.MAC_TX_FRAMES_LO p + 4), .reg (Adr.MAC_TX_PAD p)] (fun e =>
      e.macAt p = { s.dev.macAt p with wire := none, sent := some (withFcs w.f.bytes w.f.stomp) } ∧ ∀ j : PortIx, j ≠ p → e.macAt j = s.dev.macAt j
      ∧ e.get64 (Adr.MAC_TX_OCTETS_LO p) = (s.dev.get64 (Adr.MAC_TX_OCTETS_LO p) + (max 60 w.f.bytes.length + 4)) % 2 ^ 64
      ∧ e.get64 (Adr.MAC_TX_FRAMES_LO p) = (s.dev.get64 (Adr.MAC_TX_FRAMES_LO p) + 1) % 2 ^ 64
      ∧ (e.reg (Adr.MAC_TX_PAD p)).toNat = min ((s.dev.reg (Adr.MAC_TX_PAD p)).toNat + (if w.f.bytes.length < 60 then 1 else 0)) 0xFFFFFFFF))
  ∧ (∀ (s : State) (p : PortIx) (q : Fin 33) (f : TxFrame) (sec ns flow leg : Nat), s.dev.chipRuns = true → s.dev.macOn p = true →
      (s.dev.macAt p).txq = [(q.val, f)] → f.launch = some (sec, ns) → f.src = .fe flow leg →
      s.dev.get (TB_PTP_TXWR.WR p) = s.dev.get (TB_PTP_TXCFG.RD p) →
      16 * (1000000000 * sec + ns) + 256 * s.dev.get (MAC_TXQ_CFG.LATE_WIN p q) < s.dev.macNow p →
      s.dev.on (MAC_TXQ_CFG.LATE_SEND p q) = false →
    Makes (.launchTimeReached p q) s [.mac, .reg (Adr.MAC_TX_LATE_DROP p), .reg (Adr.FE_TXF_LATE_CNT flow)] (fun e =>
      e.macAt p = { s.dev.macAt p with txq := [] } ∧ (e.reg (Adr.MAC_TX_LATE_DROP p)).toNat = min ((s.dev.reg (Adr.MAC_TX_LATE_DROP p)).toNat + 1) 0xFFFFFFFF ∧ (e.reg (Adr.FE_TXF_LATE_CNT flow)).toNat = min ((s.dev.reg (Adr.FE_TXF_LATE_CNT flow)).toNat + 1) 0xFFFFFFFF ∧ ∀ j : PortIx, j ≠ p → e.macAt j = s.dev.macAt j))
  ∧ (∀ (s : State) (p : PortIx) (q : Fin 32) (f : TxFrame) (sec ns flow leg : Nat), s.dev.chipRuns = true → s.dev.macOn p = true →
      (s.dev.macAt p).wire = none → s.dev.on (MAC_STATUS.RUNNING p) = true → s.dev.on (MAC_STATUS.LINK p) = true →
      (s.dev.macAt p).ctl = [] → (s.dev.macAt p).txq = [(q.val, f)] → f.launch = some (sec, ns) → f.src = .fe flow leg →
      s.dev.get (TB_PTP_TXWR.WR p) = s.dev.get (TB_PTP_TXCFG.RD p) → 16 * (1000000000 * sec + ns) ≤ s.dev.macNow p →
      s.dev.macNow p ≤ 16 * (1000000000 * sec + ns) + 256 * s.dev.get (MAC_TXQ_CFG.LATE_WIN p q) → (s.dev.macAt p).heldAll = false →
      (s.dev.macAt p).heldCls = 0 → s.dev.get (MAC_TXQ_CFG.TS_MODE p q) = 0 →
    Makes (.launchTimeReached p ⟨q, by omega⟩) s [.mac] (fun e =>
      e.macAt p = { s.dev.macAt p with txq := [], wire := some ⟨q, f, 0, false, false⟩ } ∧ ∀ j : PortIx, j ≠ p → e.macAt j = s.dev.macAt j))

/-! ### Media flows and time bases -/

/-- MEDIA_PACKET_RECEIVE, LEG_TIMEOUT, MEDIA_PACKET_SEND and CONCEAL_HOLD_END to CONCEAL_RESUME_END (R371 to R378, R380 to R386): a
media packet is matched, checked and placed in the jitter buffer, or counted as what it is; a leg without packets goes down; a
transmit packet is built from its template; a stream moves through HOLD, RAMP, MUTE and RESUME. -/
def Obligations.MediaFlows : Prop :=
  (∀ (s : State) (f : InFrame) (t : List InFrame), s.dev.chipRuns = true → s.dev.feRunning = true → s.dev.fe.inbox = f :: t →
      s.dev.flowOf f.port f.bytes = none →
    Makes (.mediaPacketReceive) s [.fe, .reg Adr.FE_NOFLOW_CNT] (fun e =>
      e.fe = { s.dev.fe with inbox := t } ∧ (e.reg (Adr.FE_NOFLOW_CNT)).toNat = min ((s.dev.reg (Adr.FE_NOFLOW_CNT)).toNat + 1) 0xFFFFFFFF))
  ∧ (∀ (s : State) (f : InFrame) (t : List InFrame) (i g u : Nat), s.dev.chipRuns = true → s.dev.feRunning = true →
      s.dev.fe.inbox = f :: t → s.dev.flowOf f.port f.bytes = some (i, g) → udpAt f.bytes = some u →
      s.dev.packetBad i f.bytes u = true →
    Makes (.mediaPacketReceive) s [.fe, .reg (Adr.FE_RXF_BAD_CNT i)] (fun e =>
      e.fe = { s.dev.fe with inbox := t } ∧ (e.reg (Adr.FE_RXF_BAD_CNT i)).toNat = min ((s.dev.reg (Adr.FE_RXF_BAD_CNT i)).toNat + 1) 0xFFFFFFFF))
  ∧ (∀ (s : State) (f : InFrame) (t : List InFrame) (i g u : Nat), s.dev.chipRuns = true → s.dev.feRunning = true →
      s.dev.fe.inbox = f :: t → s.dev.flowOf f.port f.bytes = some (i, g) → udpAt f.bytes = some u →
      s.dev.packetBad i f.bytes u = false → be f.bytes (u + 10) 2 ∈ (s.dev.rxFlow i).seqs →
    Makes (.mediaPacketReceive) s [.fe, .reg (Adr.FE_RXF_DUP_CNT i), .reg (Adr.FE_RXF_STATUS i)] (fun e =>
      e.fe = { s.dev.fe with inbox := t } ∧ (e.reg (Adr.FE_RXF_DUP_CNT i)).toNat = min ((s.dev.reg (Adr.FE_RXF_DUP_CNT i)).toNat + 1) 0xFFFFFFFF
      ∧ e.reg (Adr.FE_RXF_STATUS i) = (s.dev.set (if g = 0 then FE_RXF_STATUS.LEGA_UP i else FE_RXF_STATUS.LEGB_UP i) 1).reg (Adr.FE_RXF_STATUS i)))
  ∧ (∀ (s : State) (f : InFrame) (t : List InFrame) (i g u : Nat) (n : Int), s.dev.chipRuns = true → s.dev.feRunning = true →
      s.dev.fe.inbox = f :: t → s.dev.flowOf f.port f.bytes = some (i, g) → udpAt f.bytes = some u →
      s.dev.packetBad i f.bytes u = false → s.dev.packetCount i (be f.bytes (u + 12) 4) = n →
      (s.dev.rxFlow i).seqs.contains (be f.bytes (u + 10) 2) = false →
      n + (s.dev.rxLen i : Int) ≤ s.dev.firstFlow i (s.dev.openBlock * s.dev.perLen) + (2 ^ s.dev.aget (FE_RXF_CFG.DEPTH_LOG2 i) : Nat) →
      (∃ j : Nat, j < s.dev.rxLen i ∧ present (s.dev.rxFlow i) (n + (j : Int)) = true) →
    Makes (.mediaPacketReceive) s [.fe, .reg (Adr.FE_RXF_DUP_CNT i), .reg (Adr.FE_RXF_STATUS i)] (fun e =>
      e.fe = { s.dev.fe with inbox := t } ∧ (e.reg (Adr.FE_RXF_DUP_CNT i)).toNat = min ((s.dev.reg (Adr.FE_RXF_DUP_CNT i)).toNat + 1) 0xFFFFFFFF
      ∧ e.reg (Adr.FE_RXF_STATUS i) = (s.dev.set (if g = 0 then FE_RXF_STATUS.LEGA_UP i else FE_RXF_STATUS.LEGB_UP i) 1).reg (Adr.FE_RXF_STATUS i)))
  ∧ (∀ (s : State) (f : InFrame) (t : List InFrame) (i g u : Nat) (n : Int), s.dev.chipRuns = true → s.dev.feRunning = true →
      s.dev.fe.inbox = f :: t → s.dev.flowOf f.port f.bytes = some (i, g) → udpAt f.bytes = some u →
      s.dev.packetBad i f.bytes u = false → s.dev.packetCount i (be f.bytes (u + 12) 4) = n →
      (s.dev.rxFlow i).seqs.contains (be f.bytes (u + 10) 2) = false →
      s.dev.firstFlow i (s.dev.openBlock * s.dev.perLen) + (2 ^ s.dev.aget (FE_RXF_CFG.DEPTH_LOG2 i) : Nat) < n + (s.dev.rxLen i : Int) →
    Makes (.mediaPacketReceive) s [.fe, .reg (Adr.FE_RXF_EARLY_CNT i)] (fun e =>
      e.fe = { s.dev.fe with inbox := t } ∧ (e.reg (Adr.FE_RXF_EARLY_CNT i)).toNat = min ((s.dev.reg (Adr.FE_RXF_EARLY_CNT i)).toNat + 1) 0xFFFFFFFF))
  ∧ (∀ (s : State) (f : InFrame) (t : List InFrame) (i g u : Nat) (n : Int), s.dev.chipRuns = true → s.dev.feRunning = true →
      s.dev.fe.inbox = f :: t → s.dev.flowOf f.port f.bytes = some (i, g) → udpAt f.bytes = some u →
      s.dev.packetBad i f.bytes u = false → s.dev.packetCount i (be f.bytes (u + 12) 4) = n →
      (s.dev.rxFlow i).seqs.contains (be f.bytes (u + 10) 2) = false →
      (∀ j : Nat, j < s.dev.rxLen i → present (s.dev.rxFlow i) (n + (j : Int)) = false) →
      n + (s.dev.rxLen i : Int) ≤ s.dev.firstFlow i (s.dev.openBlock * s.dev.perLen) →
    Makes (.mediaPacketReceive) s [.fe, .reg (Adr.FE_RXF_LATE_CNT i)] (fun e =>
      e.fe = { s.dev.fe with inbox := t } ∧ (e.reg (Adr.FE_RXF_LATE_CNT i)).toNat = min ((s.dev.reg (Adr.FE_RXF_LATE_CNT i)).toNat + 1) 0xFFFFFFFF))
  ∧ (∀ (s : State) (f : InFrame) (t : List InFrame) (i g u : Nat) (n : Int), s.dev.chipRuns = true → s.dev.feRunning = true →
      s.dev.fe.inbox = f :: t → s.dev.flowOf f.port f.bytes = some (i, g) → udpAt f.bytes = some u →
      s.dev.packetBad i f.bytes u = false → s.dev.packetCount i (be f.bytes (u + 12) 4) = n →
      (s.dev.rxFlow i).seqs.contains (be f.bytes (u + 10) 2) = false →
      (∀ j : Nat, j < s.dev.rxLen i → present (s.dev.rxFlow i) (n + (j : Int)) = false) →
      s.dev.firstFlow i (s.dev.openBlock * s.dev.perLen) ≤ n →
      n + (s.dev.rxLen i : Int) ≤ s.dev.firstFlow i (s.dev.openBlock * s.dev.perLen) + (2 ^ s.dev.aget (FE_RXF_CFG.DEPTH_LOG2 i) : Nat) →
      inPantry (64 * s.dev.aget (FE_RXF_BUF.BUF i)) (4 * s.dev.rxCh i * 2 ^ s.dev.aget (FE_RXF_CFG.DEPTH_LOG2 i)) = true →
    Makes (.mediaPacketReceive) s [.fe, .mem, .ecc, .regs .ecc, .reg (Adr.FE_RXF_PKT_CNT i), .reg (Adr.FE_RXF_STATUS i)] (fun e =>
      e.fe = { s.dev.fe with inbox := t, rxf := e.fe.rxf } ∧ (∀ j, j ≠ i → e.rxFlow j = s.dev.rxFlow j)
      ∧ e.rxFlow i = ⟨(s.dev.rxFlow i).placed ++ [(n.toNat, s.dev.rxLen i)], (be f.bytes (u + 10) 2 :: (s.dev.rxFlow i).seqs).take 1024, some (be f.bytes (u + 16) 4)⟩
      ∧ (e.reg (Adr.FE_RXF_PKT_CNT i)).toNat = min ((s.dev.reg (Adr.FE_RXF_PKT_CNT i)).toNat + 1) 0xFFFFFFFF
      ∧ e.reg (Adr.FE_RXF_STATUS i) = ((if s.dev.aget (FE_RXF_CFG.SSRC_CHK i) = 0 ∧ (s.dev.rxFlow i).ssrc.getD (be f.bytes (u + 16) 4) ≠ be f.bytes (u + 16) 4
          then s.dev.set (FE_RXF_STATUS.SSRC_CHANGED i) 1 else s.dev).set (if g = 0 then FE_RXF_STATUS.LEGA_UP i else FE_RXF_STATUS.LEGB_UP i) 1).reg (Adr.FE_RXF_STATUS i)
      ∧ (∀ j c : Nat, j < s.dev.rxLen i → c < s.dev.rxCh i → ofBytes (e.bytesAt (s.dev.jitterAddr i (n + (j : Int)) + 4 * c) 4) = be f.bytes (rtpPayload f.bytes (u + 8) + (j * s.dev.rxCh i + c) * s.dev.sampleBytes i) (s.dev.sampleBytes i) * 2 ^ (32 - 8 * s.dev.sampleBytes i))
      ∧ (∀ a, (∀ j : Nat, j < s.dev.rxLen i → a < s.dev.jitterAddr i (n + (j : Int)) ∨ s.dev.jitterAddr i (n + (j : Int)) + 4 * s.dev.rxCh i ≤ a) → e.byteAt a = s.dev.byteAt a)))
  ∧ (∀ (s : State) (i : FlowIx) (g : Fin 2), s.dev.chipRuns = true → s.dev.feRunning = true →
    Makes (.legTimeout i g) s [.reg (Adr.FE_RXF_STATUS i)] (fun e =>
      e.reg (Adr.FE_RXF_STATUS i) = (s.dev.set (if g.val = 0 then FE_RXF_STATUS.LEGA_UP i else FE_RXF_STATUS.LEGB_UP i) 0).reg (Adr.FE_RXF_STATUS i)))
  ∧ (∀ (s : State) (i : FlowIx) (f : TxFlow) (x : Nat), s.dev.chipRuns = true → s.dev.feRunning = true → s.dev.txFlow i = some f →
      f.stop = some x → x ≤ s.dev.txRender i (f.next * s.dev.txLen i) →
    Makes (.mediaPacketSend i) s [.fe] (fun e =>
      e.fe = { s.dev.fe with txf := e.fe.txf } ∧ e.txFlow i = none ∧ (∀ j, j ≠ i.val → e.txFlow j = s.dev.txFlow j)))
  ∧ (∀ (s : State) (i : FlowIx) (f : TxFlow), s.dev.chipRuns = true → s.dev.feRunning = true → s.dev.txFlow i = some f →
      (∀ x, f.stop = some x → s.dev.txRender i (f.next * s.dev.txLen i) < x) →
      (∃ j, j < s.dev.txLen i * s.dev.txCh i ∧ s.dev.txSample (s.dev.aget (FE_TXF_SEQ.CH_BASE i) + j % s.dev.txCh i) (s.dev.txRender i (f.next * s.dev.txLen i + j / s.dev.txCh i)) = none) →
    Makes (.mediaPacketSend i) s [] (fun e =>
      True))
  ∧ (∀ (s : State) (i : FlowIx) (f : TxFlow) (v : Nat → Int), s.dev.chipRuns = true → s.dev.feRunning = true → s.dev.txFlow i = some f →
      (∀ x, f.stop = some x → s.dev.txRender i (f.next * s.dev.txLen i) < x) →
      (∀ j, j < s.dev.txLen i * s.dev.txCh i → s.dev.txSample (s.dev.aget (FE_TXF_SEQ.CH_BASE i) + j % s.dev.txCh i) (s.dev.txRender i (f.next * s.dev.txLen i + j / s.dev.txCh i)) = some (v j)) →
      s.dev.txHz i = s.dev.fs → s.dev.aget (FE_TXF_CFG.LEGA_EN i) = 1 → s.dev.aget (FE_TXF_CFG.LEGB_EN i) = 0 →
      inPantry (4096 * s.dev.get FE_TMPL_BASE.BASE + 64 * s.dev.aget (FE_TXF_TMPL.TMPL_A i)) 64 = true →
      (∀ w ∈ unitsOf (4096 * s.dev.get FE_TMPL_BASE.BASE + 64 * s.dev.aget (FE_TXF_TMPL.TMPL_A i)) 64, unitState s.dev.ecc w = .clean) →
      templateOk (s.dev.bytesAt (4096 * s.dev.get FE_TMPL_BASE.BASE + 64 * s.dev.aget (FE_TXF_TMPL.TMPL_A i)) 64) = false →
    Makes (.mediaPacketSend i) s [.fe, .reg Adr.FE_BAD_TMPL_CNT, .reg (Adr.FE_TXF_STATUS i)] (fun e =>
      e.fe = { s.dev.fe with txf := e.fe.txf } ∧ e.txFlow i = some { f with next := f.next + 1, seq := (f.seq + 1) % 65536 } ∧ (∀ j, j ≠ i.val → e.txFlow j = s.dev.txFlow j)
      ∧ (e.reg (Adr.FE_BAD_TMPL_CNT)).toNat = min ((s.dev.reg (Adr.FE_BAD_TMPL_CNT)).toNat + 1) 0xFFFFFFFF ∧ e.reg (Adr.FE_TXF_STATUS i) = (s.dev.set (FE_TXF_STATUS.TMPL_BAD i) 1).reg (Adr.FE_TXF_STATUS i)))
  ∧ (∀ (s : State) (i : FlowIx) (f : TxFlow) (v : Nat → Int) (p : PortIx) (q : Nat) (b : List Byte), s.dev.chipRuns = true →
      s.dev.feRunning = true → s.dev.txFlow i = some f → (∀ x, f.stop = some x → s.dev.txRender i (f.next * s.dev.txLen i) < x) →
      (∀ j, j < s.dev.txLen i * s.dev.txCh i → s.dev.txSample (s.dev.aget (FE_TXF_SEQ.CH_BASE i) + j % s.dev.txCh i) (s.dev.txRender i (f.next * s.dev.txLen i + j / s.dev.txCh i)) = some (v j)) →
      s.dev.txHz i = s.dev.fs → s.dev.aget (FE_TXF_CFG.LEGA_EN i) = 1 → s.dev.aget (FE_TXF_CFG.LEGB_EN i) = 0 →
      inPantry (4096 * s.dev.get FE_TMPL_BASE.BASE + 64 * s.dev.aget (FE_TXF_TMPL.TMPL_A i)) 64 = true →
      (∀ w ∈ unitsOf (4096 * s.dev.get FE_TMPL_BASE.BASE + 64 * s.dev.aget (FE_TXF_TMPL.TMPL_A i)) 64, unitState s.dev.ecc w = .clean) →
      templateOk (s.dev.bytesAt (4096 * s.dev.get FE_TMPL_BASE.BASE + 64 * s.dev.aget (FE_TXF_TMPL.TMPL_A i)) 64) = true →
      p.val = s.dev.aget (FE_TXF_CFG.LEGA_PORT i) → q = s.dev.aget (FE_TXF_CFG.QUEUE i) → s.dev.on (MAC_TXQ_CFG.EN p q) = true →
      s.dev.get (MAC_TXQ_CFG.KIND p q) = 1 →
      b = packetFrame (s.dev.bytesAt (4096 * s.dev.get FE_TMPL_BASE.BASE + 64 * s.dev.aget (FE_TXF_TMPL.TMPL_A i)) 64) f.seq
          ((f.next * s.dev.txLen i + (sget resetValue s.dev.act (Adr.FE_TXF_RTPOFS i)).toNat) % 2 ^ 32) ((List.range (s.dev.txLen i * s.dev.txCh i)).flatMap (fun j => encodeSample (s.dev.aget (FE_TXF_CFG.FMT i)) (v j))) →
      14 ≤ b.length → b.length + 4 ≤ s.dev.frameLimit p b → (s.dev.txHead p q).isSome = true →
    Makes (.mediaPacketSend i) s [.fe, .mac, .reg (Adr.FE_TXF_PKT_CNT i)] (fun e =>
      e.fe = { s.dev.fe with txf := e.fe.txf } ∧ e.txFlow i = some { f with next := f.next + 1, seq := (f.seq + 1) % 65536 } ∧ (∀ j, j ≠ i.val → e.txFlow j = s.dev.txFlow j)
      ∧ (e.reg (Adr.FE_TXF_PKT_CNT i)).toNat = min ((s.dev.reg (Adr.FE_TXF_PKT_CNT i)).toNat + 1) 0xFFFFFFFF ∧ e.macAt p = { s.dev.macAt p with txq := (s.dev.macAt p).txq
        ++ [(q, ⟨b, .fe i 0, false, some (s.dev.launch96 i (f.next * s.dev.txLen i) (f.next * s.dev.txLen i + s.dev.txLen i - 1) / 96000, 1000000000 * (s.dev.launch96 i (f.next * s.dev.txLen i) (f.next * s.dev.txLen i + s.dev.txLen i - 1) % 96000) / 96000), false⟩)] } ∧ (∀ j : PortIx, j ≠ p → e.macAt j = s.dev.macAt j)))
  ∧ (∀ (s : State) (x : Fin 1312), s.dev.chipRuns = true → (s.dev.concAt x).st = .hold → s.dev.holdLen ≤ (s.dev.concAt x).n →
    Makes (.concealHoldEnd x) s [.fe, .reg (Adr.FE_CONC (4 * concUser x + 1)), .reg (if x.val < 512 then Adr.FE_RXF_STATUS x else Adr.FE_NOFLOW_CNT)] (fun e =>
      e.fe = { s.dev.fe with conc := e.fe.conc } ∧ e.concAt x = { s.dev.concAt x with st := .ramp, n := 0 } ∧ (∀ y, y ≠ x.val → e.concAt y = s.dev.concAt y)
      ∧ e.reg Adr.FE_NOFLOW_CNT = s.dev.reg Adr.FE_NOFLOW_CNT
      ∧ (x.val < 512 → e.reg (Adr.FE_RXF_STATUS x) = (s.dev.set (FE_RXF_STATUS.CSTATE x) 2).reg (Adr.FE_RXF_STATUS x))
      ∧ (e.reg (Adr.FE_CONC (4 * concUser x + 1))).toNat = min ((s.dev.reg (Adr.FE_CONC (4 * concUser x + 1))).toNat + 1) 0xFFFFFFFF))
  ∧ (∀ (s : State) (x : Fin 1312), s.dev.chipRuns = true → (s.dev.concAt x).st = .ramp → s.dev.perLen ≤ (s.dev.concAt x).n →
    Makes (.concealRampEnd x) s [.fe, .reg (Adr.FE_CONC (4 * concUser x + 2)), .reg (if x.val < 512 then Adr.FE_RXF_STATUS x else Adr.FE_NOFLOW_CNT)] (fun e =>
      e.fe = { s.dev.fe with conc := e.fe.conc } ∧ e.concAt x = { s.dev.concAt x with st := .mute, n := 0 } ∧ (∀ y, y ≠ x.val → e.concAt y = s.dev.concAt y)
      ∧ e.reg Adr.FE_NOFLOW_CNT = s.dev.reg Adr.FE_NOFLOW_CNT
      ∧ (x.val < 512 → e.reg (Adr.FE_RXF_STATUS x) = (s.dev.set (FE_RXF_STATUS.CSTATE x) 3).reg (Adr.FE_RXF_STATUS x))
      ∧ (e.reg (Adr.FE_CONC (4 * concUser x + 2))).toNat = min ((s.dev.reg (Adr.FE_CONC (4 * concUser x + 2))).toNat + 1) 0xFFFFFFFF))
  ∧ (∀ (s : State) (x : Fin 1312), s.dev.chipRuns = true → (s.dev.concAt x).st = .resume → 16 ≤ (s.dev.concAt x).n →
    Makes (.concealResumeEnd x) s [.fe, .reg (if x.val < 512 then Adr.FE_RXF_STATUS x else Adr.FE_NOFLOW_CNT)] (fun e =>
      e.fe = { s.dev.fe with conc := e.fe.conc } ∧ e.concAt x = { s.dev.concAt x with st := .play, n := 0 } ∧ (∀ y, y ≠ x.val → e.concAt y = s.dev.concAt y)
      ∧ e.reg Adr.FE_NOFLOW_CNT = s.dev.reg Adr.FE_NOFLOW_CNT
      ∧ (x.val < 512 → e.reg (Adr.FE_RXF_STATUS x) = (s.dev.set (FE_RXF_STATUS.CSTATE x) 0).reg (Adr.FE_RXF_STATUS x))))

/-- TB_INCR_COMMIT, TB_OFFSET_ADD, TB_LOAD, TB_TIME_READ, TSQ_POP, PTP_TX_SUBMIT, TIME_OUT_EDGE, TIME_IN_CAPTURE and TIN_POP (R351,
R352, R353, R356, R358, R362, R365, R366): increments, offsets and loads are committed; a read of the fraction latches the rest
of the time; timestamps and captures are popped oldest first; edges come at their exact times. -/
def Obligations.TimeBases : Prop :=
  (∀ (s : State) (m : Master) (b : TbIx) (v : Word), Served s.dev m → s.dev.heldHigh (Adr.TBN_INCR_LO b) % 4 = 1 → 0x20000000 ≤ v.toNat →
      v.toNat ≤ 0x5FFFFFFF →
    Makes (.tbIncrCommit m b v) s [.reg (Adr.TBN_INCR_LO b), .reg (Adr.TBN_INCR_LO b + 4), .pairs, .resp] (fun e =>
      e.resp = .okay 0 ∧ e.tbIncr b = 2 ^ 32 + v.toNat ∧ e.heldHigh (Adr.TBN_INCR_LO b) = 0))
  ∧ (∀ (s : State) (m : Master) (b : TbIx) (v : Word), Served s.dev m →
      s.dev.heldHigh (Adr.TBN_INCR_LO b) % 4 ≠ 1 ∨ v.toNat < 0x20000000 ∨ 0x5FFFFFFF < v.toNat →
    Makes (.tbIncrCommit m b v) s [.reg Adr.TB_STATUS, .pairs, .resp] (fun e =>
      e.resp = .okay 0 ∧ e.reg Adr.TB_STATUS = (s.dev.set TB_STATUS.INCR_BAD 1).reg Adr.TB_STATUS ∧ e.heldHigh (Adr.TBN_INCR_LO b) = 0))
  ∧ (∀ (s : State) (m : Master) (b : TbIx) (v : Word), Served s.dev m →
    Makes (.tbOffsetAdd m b v) s [.tbs, .reg (Adr.TBN_ADJ_LO b), .reg (Adr.TBN_ADJ_LO b + 4), .pairs, .resp] (fun e =>
      e.resp = .okay 0 ∧ e.tbs = { s.dev.tbs with tb := e.tbs.tb } ∧ (∀ j : TbIx, j ≠ b → e.tbAt j = s.dev.tbAt j)
      ∧ e.tbAt b = { s.dev.tbAt b with adj := some ((s.dev.tbAt b).adj.getD 0
        + (BitVec.ofNat 64 (v.toNat + 2 ^ 32 * s.dev.heldHigh (Adr.TBN_ADJ_LO b))).toInt) } ∧ e.heldHigh (Adr.TBN_ADJ_LO b) = 0))
  ∧ (∀ (s : State) (m : Master) (b : TbIx) (v : Word), Served s.dev m → v.getLsbD 1 = true →
    Makes (.tbLoad m b v) s [.tbs, .reg (Adr.TBN_CTRL b), .resp] (fun e =>
      e.resp = .okay 0 ∧ e.on (TBN_CTRL.EN b) = v.getLsbD 0 ∧ e.tbs = { s.dev.tbs with tb := e.tbs.tb } ∧ (∀ j : TbIx, j ≠ b → e.tbAt j = s.dev.tbAt j)
      ∧ e.tbAt b = { s.dev.tbAt b with load := true }))
  ∧ (∀ (s : State) (m : Master) (b : TbIx), Served s.dev m → (s.dev.tbAt b).t < tbMod →
    Makes (.tbTimeRead m b) s [.reg (Adr.TBN_TIME_FRAC b), .reg (Adr.TBN_TIME_NS b), .reg (Adr.TBN_TIME_SEC_LO b), .reg (Adr.TBN_TIME_SEC_LO b + 4), .resp] (fun e =>
      e.resp = .okay ((s.dev.tbAt b).t / 2 ^ 16 % 65536) ∧ e.get (TBN_TIME_FRAC.FRAC b) = (s.dev.tbAt b).t / 2 ^ 16 % 65536
      ∧ e.get (TBN_TIME_NS.NS b) = (s.dev.tbAt b).t / 2 ^ 32 % 1000000000 ∧ e.get64 (Adr.TBN_TIME_SEC_LO b) = (s.dev.tbAt b).t / 2 ^ 32 / 1000000000))
  ∧ (∀ (s : State) (m : Master) (p : PortIx) (t q : Nat) (l : List (Nat × Nat)), Served s.dev m → vat s.dev.tbs.tsq p = (t, q) :: l →
      q < 65536 → l.length < 64 →
    Makes (.tsqPop m p) s [.tbs, .reg (Adr.TB_TSQ_POP p), .reg (Adr.TB_TSQ_STATUS p), .reg (Adr.TB_TSQ_FRAC p), .reg (Adr.TB_TSQ_NS p), .reg (Adr.TB_TSQ_SEC_LO p), .reg (Adr.TB_TSQ_SEC_LO p + 4), .resp] (fun e =>
      e.resp = .okay (65536 + q) ∧ e.tbs = { s.dev.tbs with tsq := e.tbs.tsq } ∧ vat e.tbs.tsq p = l ∧ (∀ j : PortIx, j ≠ p → vat e.tbs.tsq j = vat s.dev.tbs.tsq j)
      ∧ e.get (TB_TSQ_STATUS.COUNT p) = l.length ∧ e.get (TB_TSQ_POP.VALID p) = 1 ∧ e.get (TB_TSQ_POP.TS_SEQ p) = q
      ∧ e.get (TB_TSQ_FRAC.FRAC p) = 4096 * (t % 16)
      ∧ e.get (TB_TSQ_NS.NS p) = t / 16 % 1000000000 ∧ e.get64 (Adr.TB_TSQ_SEC_LO p) = t / 16000000000 % 2 ^ 48))
  ∧ (∀ (s : State) (m : Master) (p : PortIx), Served s.dev m → vat s.dev.tbs.tsq p = [] →
    Makes (.tsqPop m p) s [.reg (Adr.TB_TSQ_POP p), .resp] (fun e =>
      e.resp = .okay 0 ∧ e.reg (Adr.TB_TSQ_POP p) = 0))
  ∧ (∀ (s : State) (m : Master) (n : Fin 2) (c : Capture) (l : List Capture), Served s.dev m → vat s.dev.tbs.tin n = c :: l →
      l.length < 4 →
    Makes (.tinPop m n) s [.tbs, .reg (Adr.TB_TIN_POP n), .reg (Adr.TB_TIN_STATUS n), .reg (Adr.TB_TIN_FRAC n), .reg (Adr.TB_TIN_NS n), .reg (Adr.TB_TIN_SEC_LO n), .reg (Adr.TB_TIN_SEC_LO n + 4), .resp] (fun e =>
      e.resp = .okay (1 + 2 * c.falling.toNat) ∧ e.tbs = { s.dev.tbs with tin := e.tbs.tin } ∧ (∀ j : Fin 2, j ≠ n → vat e.tbs.tin j = vat s.dev.tbs.tin j) ∧ vat e.tbs.tin n = l
      ∧ e.get (TB_TIN_STATUS.COUNT n) = l.length ∧ e.get (TB_TIN_POP.VALID n) = 1 ∧ e.get (TB_TIN_POP.FALLING n) = c.falling.toNat
      ∧ e.get (TB_TIN_FRAC.FRAC n) = 4096 * (c.t % 16)
      ∧ e.get (TB_TIN_NS.NS n) = c.t / 16 % 1000000000 ∧ e.get64 (Adr.TB_TIN_SEC_LO n) = c.t / 16000000000 % 2 ^ 48))
  ∧ (∀ (s : State) (m : Master) (n : Fin 2), Served s.dev m → vat s.dev.tbs.tin n = [] →
    Makes (.tinPop m n) s [.reg (Adr.TB_TIN_POP n), .resp] (fun e =>
      e.resp = .okay 0 ∧ e.reg (Adr.TB_TIN_POP n) = 0))
  ∧ (∀ (s : State) (n : Fin 2) (falling : Bool), s.dev.chipRuns = true → s.dev.on (TB_TIN_CFG.EN n) = true →
      bitOf (s.dev.get (TB_TIN_CFG.EDGE n)) falling.toNat = true → (vat s.dev.tbs.tin n).length < 4 →
    Makes (.timeInCapture n falling) s [.tbs, .reg (Adr.TB_TIN_STATUS n)] (fun e =>
      e.tbs = { s.dev.tbs with tin := e.tbs.tin } ∧ (∀ j : Fin 2, j ≠ n → vat e.tbs.tin j = vat s.dev.tbs.tin j)
      ∧ vat e.tbs.tin n = vat s.dev.tbs.tin n ++ [⟨(s.dev.tbAt (s.dev.get (TB_TIN_CFG.TB_SEL n))).t / 2 ^ 28, falling⟩]
      ∧ e.get (TB_TIN_STATUS.COUNT n) = (vat s.dev.tbs.tin n).length + 1 ∧ e.on (TB_TIN_STATUS.OVF n) = s.dev.on (TB_TIN_STATUS.OVF n)))
  ∧ (∀ (s : State) (n : Fin 2) (falling : Bool), s.dev.chipRuns = true → s.dev.on (TB_TIN_CFG.EN n) = true →
      bitOf (s.dev.get (TB_TIN_CFG.EDGE n)) falling.toNat = true → 4 ≤ (vat s.dev.tbs.tin n).length →
    Makes (.timeInCapture n falling) s [.reg (Adr.TB_TIN_STATUS n)] (fun e =>
      e.reg (Adr.TB_TIN_STATUS n) = (s.dev.set (TB_TIN_STATUS.OVF n) 1).reg (Adr.TB_TIN_STATUS n)))
  ∧ (∀ (s : State) (n : Fin 2) (falling : Bool), s.dev.chipRuns = true →
      s.dev.on (TB_TIN_CFG.EN n) = false ∨ bitOf (s.dev.get (TB_TIN_CFG.EDGE n)) falling.toNat = false →
    Makes (.timeInCapture n falling) s [] (fun e =>
      True))
  ∧ (∀ (s : State) (n : Fin 2) (o : Nat), s.dev.chipRuns = true → (s.dev.toutAt n).off = some o →
      o ≤ (s.dev.tbAt (s.dev.get (TB_TOUT_CFG.TB_SEL n))).t / 2 ^ 28 →
    Makes (.timeOutEdge n) s [.tbs] (fun e =>
      e.tbs = { s.dev.tbs with tout := e.tbs.tout } ∧ (∀ j : Fin 2, j ≠ n → e.toutAt j = s.dev.toutAt j) ∧ e.toutAt n = { s.dev.toutAt n with on := false, off := none }))
  ∧ (∀ (s : State) (n : Fin 2) (o : Nat), s.dev.chipRuns = true → (s.dev.toutAt n).off = some o →
      (s.dev.tbAt (s.dev.get (TB_TOUT_CFG.TB_SEL n))).t / 2 ^ 28 < o →
    Makes (.timeOutEdge n) s [] (fun e =>
      True))
  ∧ (∀ (s : State) (n : Fin 2) (k : Nat), s.dev.chipRuns = true → (s.dev.toutAt n).off = none → s.dev.get (TB_TOUT_CFG.MODE n) = 1 →
      5 ≤ (s.dev.reg (Adr.TB_TOUT_WIDTH n)).toNat → (s.dev.reg (Adr.TB_TOUT_WIDTH n)).toNat < 1000000000 → k % 16000000000 = 0 →
      (s.dev.toutAt n).seek < k → k ≤ (s.dev.toutAt n).seek + 16000000000 →
      k ≤ (s.dev.tbAt (s.dev.get (TB_TOUT_CFG.TB_SEL n))).t / 2 ^ 28 →
    Makes (.timeOutEdge n) s [.tbs] (fun e =>
      e.tbs = { s.dev.tbs with tout := e.tbs.tout } ∧ (∀ j : Fin 2, j ≠ n → e.toutAt j = s.dev.toutAt j) ∧ e.toutAt n = ⟨true, k, some (k + 16 * (s.dev.reg (Adr.TB_TOUT_WIDTH n)).toNat)⟩))
  ∧ (∀ (s : State) (n : Fin 2) (j k : Nat), s.dev.chipRuns = true → (s.dev.toutAt n).off = none → s.dev.get (TB_TOUT_CFG.MODE n) = 2 →
      5 ≤ (s.dev.reg (Adr.TB_TOUT_WIDTH n)).toNat →
      20 * 2 ^ 16 ≤ (2 ^ 16 * (s.dev.reg (Adr.TB_TOUT_PERIOD_NS n)).toNat + s.dev.get (TB_TOUT_PERIOD_FRAC.FRAC n)) →
      2 ^ 16 * (s.dev.reg (Adr.TB_TOUT_WIDTH n)).toNat < (2 ^ 16 * (s.dev.reg (Adr.TB_TOUT_PERIOD_NS n)).toNat + s.dev.get (TB_TOUT_PERIOD_FRAC.FRAC n)) →
      k = 16 * (1000000000 * (s.dev.get64 (Adr.TB_TOUT_START_SEC_LO n) % 2 ^ 48) + s.dev.get (TB_TOUT_START_NS.NS n)) + (2 * j * (16 * (2 ^ 16 * (s.dev.reg (Adr.TB_TOUT_PERIOD_NS n)).toNat + s.dev.get (TB_TOUT_PERIOD_FRAC.FRAC n))) + 2 ^ 16) / (2 * 2 ^ 16) →
      (s.dev.toutAt n).seek < k →
      (∀ i : Nat, i < j → 16 * (1000000000 * (s.dev.get64 (Adr.TB_TOUT_START_SEC_LO n) % 2 ^ 48) + s.dev.get (TB_TOUT_START_NS.NS n)) + (2 * i * (16 * (2 ^ 16 * (s.dev.reg (Adr.TB_TOUT_PERIOD_NS n)).toNat + s.dev.get (TB_TOUT_PERIOD_FRAC.FRAC n))) + 2 ^ 16) / (2 * 2 ^ 16) ≤ (s.dev.toutAt n).seek) →
      k ≤ (s.dev.tbAt (s.dev.get (TB_TOUT_CFG.TB_SEL n))).t / 2 ^ 28 →
    Makes (.timeOutEdge n) s [.tbs] (fun e =>
      e.tbs = { s.dev.tbs with tout := e.tbs.tout } ∧ (∀ j : Fin 2, j ≠ n → e.toutAt j = s.dev.toutAt j) ∧ e.toutAt n = ⟨true, k, some (k + 16 * (s.dev.reg (Adr.TB_TOUT_WIDTH n)).toNat)⟩))
  ∧ (∀ (s : State) (n : Fin 2) (j k : Nat), s.dev.chipRuns = true → (s.dev.toutAt n).off = none → s.dev.get (TB_TOUT_CFG.MODE n) = 3 →
      5 ≤ (s.dev.reg (Adr.TB_TOUT_WIDTH n)).toNat → 1 ≤ (s.dev.reg (Adr.TB_TOUT_PERIOD_NS n)).toNat →
      (s.dev.reg (Adr.TB_TOUT_PERIOD_NS n)).toNat ≤ 50000000 →
      (s.dev.reg (Adr.TB_TOUT_WIDTH n)).toNat * (s.dev.reg (Adr.TB_TOUT_PERIOD_NS n)).toNat < 1000000000 →
      k = 16 * (1000000000 * (s.dev.get64 (Adr.TB_TOUT_START_SEC_LO n) % 2 ^ 48) + s.dev.get (TB_TOUT_START_NS.NS n)) + (2 * j * (16000000000) + (s.dev.reg (Adr.TB_TOUT_PERIOD_NS n)).toNat) / (2 * (s.dev.reg (Adr.TB_TOUT_PERIOD_NS n)).toNat) →
      (s.dev.toutAt n).seek < k →
      (∀ i : Nat, i < j → 16 * (1000000000 * (s.dev.get64 (Adr.TB_TOUT_START_SEC_LO n) % 2 ^ 48) + s.dev.get (TB_TOUT_START_NS.NS n)) + (2 * i * (16000000000) + (s.dev.reg (Adr.TB_TOUT_PERIOD_NS n)).toNat) / (2 * (s.dev.reg (Adr.TB_TOUT_PERIOD_NS n)).toNat) ≤ (s.dev.toutAt n).seek) →
      k ≤ (s.dev.tbAt (s.dev.get (TB_TOUT_CFG.TB_SEL n))).t / 2 ^ 28 →
    Makes (.timeOutEdge n) s [.tbs] (fun e =>
      e.tbs = { s.dev.tbs with tout := e.tbs.tout } ∧ (∀ j : Fin 2, j ≠ n → e.toutAt j = s.dev.toutAt j) ∧ e.toutAt n = ⟨true, k, some (k + 16 * (s.dev.reg (Adr.TB_TOUT_WIDTH n)).toNat)⟩))
  ∧ (∀ (s : State) (m : Master) (p : PortIx) (v : Word), Served s.dev m → v.toNat % 65536 = s.dev.get (TB_PTP_TXCFG.RD p) →
    Makes (.ptpTxSubmit m p v) s [.reg (Adr.TB_PTP_TXWR p), .resp] (fun e =>
      e.resp = .okay 0 ∧ e.get (TB_PTP_TXWR.WR p) = v.toNat % 65536))
  ∧ (∀ (s : State) (m : Master) (p : PortIx) (v : Word) (n q : Nat) (ts : Bool), Served s.dev m →
      v.toNat % 65536 ≠ s.dev.get (TB_PTP_TXCFG.RD p) → s.dev.ptpBusy p = false →
      inPantry (s.dev.ptpTxAddr p (s.dev.get (TB_PTP_TXCFG.RD p))) 512 = true →
      (∀ w ∈ unitsOf (s.dev.ptpTxAddr p (s.dev.get (TB_PTP_TXCFG.RD p))) 512, unitState s.dev.ecc w = .clean) →
      n = ofBytes (s.dev.bytesAt (s.dev.ptpTxAddr p (s.dev.get (TB_PTP_TXCFG.RD p))) 2) → 14 ≤ n → n ≤ 480 →
      q = ofBytes (s.dev.bytesAt (s.dev.ptpTxAddr p (s.dev.get (TB_PTP_TXCFG.RD p)) + 2) 1) % 32 →
      s.dev.on (MAC_TXQ_CFG.EN p q) = true → s.dev.get (MAC_TXQ_CFG.KIND p q) = 2 →
      n + 4 ≤ s.dev.frameLimit p (s.dev.bytesAt (s.dev.ptpTxAddr p (s.dev.get (TB_PTP_TXCFG.RD p)) + 32) n) →
      s.dev.byteAt (s.dev.ptpTxAddr p (s.dev.get (TB_PTP_TXCFG.RD p)) + 3) = (if ts then 1 else 0) → s.dev.txLive p = true →
    Makes (.ptpTxSubmit m p v) s [.reg (Adr.TB_PTP_TXWR p), .mac, .resp] (fun e =>
      e.resp = .okay 0 ∧ e.get (TB_PTP_TXWR.WR p) = v.toNat % 65536
      ∧ e.macAt p = { s.dev.macAt p with txq := (s.dev.macAt p).txq ++ [(q, ⟨s.dev.bytesAt (s.dev.ptpTxAddr p (s.dev.get (TB_PTP_TXCFG.RD p)) + 32) n, .ptp (s.dev.get (TB_PTP_TXCFG.RD p)), ts, none, false⟩)] }
      ∧ (∀ j : PortIx, j ≠ p → e.macAt j = s.dev.macAt j)))

/-! ### Host interface -/

/-- HIF_NOP, SHADOW_WRITE, DISARM, FENCE, HIF_BARRIER, XLT_INVAL and WAIT_PERIOD (R276 to R280, R282, R283, R286 to R288, R42, R43):
the command in progress of a ring does what its opcode says, or fails its check without effect, and completes: record and
watermark in the journal together. -/
def Obligations.HostCommands : Prop :=
  (∀ (s : State) (r : RingIx) (q : JEntry) (l : List Byte), s.dev.chipRuns = true → r.val < 8 → Heads s.dev r q l → field l 0 2 = 0 →
      Plain l → Zeros l 24 40 →
    Makes (.hifNop r) s [.ring, .mem, .ecc, .regs .ecc, .asn, .reg (Adr.HIF_RING_LAST_COMPLETED_LO r), .reg (Adr.HIF_RING_LAST_COMPLETED_LO r + 4)] (fun e =>
      Completed s.dev e r q 0 0 ∧ OnlyJournal s.dev e r ∧ MemOnly (s.dev.stateOf r q) s.dev e))
  ∧ (∀ (s : State) (r : RingIx) (q : JEntry) (l : List Byte), s.dev.chipRuns = true → r.val < 8 → Heads s.dev r q l → field l 0 2 = 0 →
      field l 4 4 ≤ 4032 → ¬Plain l ∨ ¬Zeros l 24 40 →
    Makes (.hifNop r) s [.ring, .mem, .ecc, .regs .ecc, .asn, .reg (Adr.HIF_RING_LAST_COMPLETED_LO r), .reg (Adr.HIF_RING_LAST_COMPLETED_LO r + 4)] (fun e =>
      Completed s.dev e r q 0x101 0 ∧ OnlyJournal s.dev e r ∧ MemOnly (s.dev.stateOf r q) s.dev e))
  ∧ (∀ (s : State) (r : RingIx) (q : JEntry) (l : List Byte), s.dev.chipRuns = true → r.val < 8 → Heads s.dev r q l → field l 4 4 ≤ 4032 →
      0x1000 ≤ field l 0 2 ∨ (field l 0 2 < 0x100 ∧ field l 0 2 ∉ [0x000, 0x001, 0x003, 0x010, 0x011, 0x020, 0x021, 0x030, 0x040]) →
    Makes (.hifNop r) s [.ring, .mem, .ecc, .regs .ecc, .asn, .reg (Adr.HIF_RING_LAST_COMPLETED_LO r), .reg (Adr.HIF_RING_LAST_COMPLETED_LO r + 4)] (fun e =>
      Completed s.dev e r q 0x100 0 ∧ OnlyJournal s.dev e r ∧ MemOnly (s.dev.stateOf r q) s.dev e))
  ∧ (∀ (s : State) (r : RingIx) (q : JEntry) (l : List Byte) (i : Instr) (o : Nat), s.dev.chipRuns = true → r.val < 8 → Heads s.dev r q l →
      4032 < field l 4 4 →
      (i, o) ∈ [(Instr.hifNop r, 0), (Instr.shadowWrite r, 1), (Instr.disarm r, 3), (Instr.fence r, 32), (Instr.hifBarrier r, 33), (Instr.xltInval r, 48), (Instr.waitPeriod r, 64)] →
      field l 0 2 = o →
    Makes (i) s [.ring, .mem, .ecc, .regs .ecc, .asn, .reg (Adr.HIF_RING_LAST_COMPLETED_LO r), .reg (Adr.HIF_RING_LAST_COMPLETED_LO r + 4)] (fun e =>
      Completed s.dev e r q 0x101 0 ∧ OnlyJournal s.dev e r ∧ MemOnly (s.dev.stateOf r q) s.dev e))
  ∧ (∀ (s : State) (r : RingIx) (q : JEntry) (l : List Byte) (i : Instr) (o : Nat), s.dev.chipRuns = true → r.val < 8 → Heads s.dev r q l →
      field l 4 4 ≤ 4032 →
      (i, o) ∈ [(Instr.disarm r, 3), (Instr.fence r, 32), (Instr.hifBarrier r, 33), (Instr.xltInval r, 48), (Instr.waitPeriod r, 64)] →
      field l 0 2 = o → ¬Plain l →
    Makes (i) s [.ring, .mem, .ecc, .regs .ecc, .asn, .reg (Adr.HIF_RING_LAST_COMPLETED_LO r), .reg (Adr.HIF_RING_LAST_COMPLETED_LO r + 4)] (fun e =>
      Completed s.dev e r q 0x101 0 ∧ OnlyJournal s.dev e r ∧ MemOnly (s.dev.stateOf r q) s.dev e))
  ∧ (∀ (s : State) (r : RingIx) (q : JEntry), s.dev.chipRuns = true → r.val < 8 → (s.dev.ringAt r).jrnl.find? (fun x => !x.done) = some q →
      0 < q.n →
      (∀ c : Bool, ∃ u ∈ unitsOf (s.dev.jrnlAddr c r q.unit) 64, unitState s.dev.ecc u = .ue ∨ unitState s.dev.ecc u = .poisoned) →
      (∀ i, i < q.n + 1 → inPantry (s.dev.jrnlAddr false r (q.unit + i)) 64 = true ∧ inPantry (s.dev.jrnlAddr true r (q.unit + i)) 64 = true) →
    Makes (.hifNop r) s [.ring, .mem, .ecc, .regs .ecc, .asn, .reg (Adr.HIF_RING_LAST_COMPLETED_LO r), .reg (Adr.HIF_RING_LAST_COMPLETED_LO r + 4), .reg Adr.HIF_JRNL_UE_CNT, .reg Adr.HIF_STATUS] (fun e =>
      Completed s.dev e r q 0x10A 0 ∧ OnlyJournal s.dev e r ∧ MemOnly (s.dev.stateOf r q) s.dev e
      ∧ (e.reg (Adr.HIF_JRNL_UE_CNT)).toNat = min ((s.dev.reg (Adr.HIF_JRNL_UE_CNT)).toNat + 1) 0xFFFFFFFF ∧ e.on HIF_STATUS.JRNL_UE = true ∧ e.on HIF_STATUS.JRNL_LOST = true))
  ∧ (∀ (s : State) (r : RingIx) (q : JEntry) (l : List Byte) (b : Nat), s.dev.chipRuns = true → r.val < 8 → Heads s.dev r q l →
      field l 0 2 = 3 → Plain l → Zeros l 32 32 → b < 64 →
    Makes (.disarm r) s [.ring, .mem, .ecc, .regs .ecc, .asn, .reg (Adr.HIF_RING_LAST_COMPLETED_LO r), .reg (Adr.HIF_RING_LAST_COMPLETED_LO r + 4), .reg Adr.LND_ARMED_LO, .reg (Adr.LND_ARMED_LO + 4), .reg Adr.LND_MISSED_LO, .reg (Adr.LND_MISSED_LO + 4), .reg Adr.LND_STATUS] (fun e =>
      e.armed b = (s.dev.armed b && !((field l 24 8).testBit b && !bitOf s.dev.dueMask b))
      ∧ Completed s.dev e r q (if (field l 24 8 &&& s.dev.get64 Adr.LND_ARMED_LO &&& s.dev.dueMask) = 0 then 0 else 0x107) (field l 24 8 &&& s.dev.get64 Adr.LND_ARMED_LO &&& s.dev.dueMask) ∧ OnlyJournal s.dev e r ∧ MemOnly (s.dev.stateOf r q) s.dev e))
  ∧ (∀ (s : State) (r : RingIx) (q : JEntry) (l : List Byte), s.dev.chipRuns = true → r.val < 8 → Heads s.dev r q l → field l 0 2 = 3 →
      Plain l → ¬Zeros l 32 32 →
    Makes (.disarm r) s [.ring, .mem, .ecc, .regs .ecc, .asn, .reg (Adr.HIF_RING_LAST_COMPLETED_LO r), .reg (Adr.HIF_RING_LAST_COMPLETED_LO r + 4)] (fun e =>
      Completed s.dev e r q 0x101 0 ∧ OnlyJournal s.dev e r ∧ MemOnly (s.dev.stateOf r q) s.dev e))
  ∧ (∀ (s : State) (r : RingIx) (q : JEntry) (l : List Byte) (k : Nat), s.dev.chipRuns = true → r.val < 8 → Heads s.dev r q l →
      field l 0 2 = 0x20 → Plain l → Zeros l 25 7 → Zeros l 40 24 → field l 24 1 = k → (k < 8 ∨ (16 ≤ k ∧ k < 20)) → k ≠ r.val →
      (q.seen.getD (jrnlIx k) (0, 0)).2 = (s.dev.ringAt k).restarts → field l 32 8 ≤ s.dev.get64 (Adr.HIF_RING_LAST_COMPLETED_LO k) →
    Makes (.fence r) s [.ring, .mem, .ecc, .regs .ecc, .asn, .reg (Adr.HIF_RING_LAST_COMPLETED_LO r), .reg (Adr.HIF_RING_LAST_COMPLETED_LO r + 4)] (fun e =>
      Completed s.dev e r q 0 (s.dev.get64 (Adr.HIF_RING_LAST_COMPLETED_LO k)) ∧ OnlyJournal s.dev e r ∧ MemOnly (s.dev.stateOf r q) s.dev e))
  ∧ (∀ (s : State) (r : RingIx) (q : JEntry) (l : List Byte) (k : Nat), s.dev.chipRuns = true → r.val < 8 → Heads s.dev r q l →
      field l 0 2 = 0x20 → Plain l → Zeros l 25 7 → Zeros l 40 24 → field l 24 1 = k → (k < 8 ∨ (16 ≤ k ∧ k < 20)) → k ≠ r.val →
      (q.seen.getD (jrnlIx k) (0, 0)).2 = (s.dev.ringAt k).restarts → s.dev.get64 (Adr.HIF_RING_LAST_COMPLETED_LO k) < field l 32 8 →
    Makes (.fence r) s [] (fun e =>
      True))
  ∧ (∀ (s : State) (r : RingIx) (q : JEntry) (l : List Byte) (k : Nat), s.dev.chipRuns = true → r.val < 8 → Heads s.dev r q l →
      field l 0 2 = 0x20 → Plain l → Zeros l 25 7 → Zeros l 40 24 → field l 24 1 = k → (k < 8 ∨ (16 ≤ k ∧ k < 20)) → k ≠ r.val →
      (q.seen.getD (jrnlIx k) (0, 0)).2 ≠ (s.dev.ringAt k).restarts →
    Makes (.fence r) s [.ring, .mem, .ecc, .regs .ecc, .asn, .reg (Adr.HIF_RING_LAST_COMPLETED_LO r), .reg (Adr.HIF_RING_LAST_COMPLETED_LO r + 4)] (fun e =>
      Completed s.dev e r q 0x108 (s.dev.get64 (Adr.HIF_RING_LAST_COMPLETED_LO k)) ∧ OnlyJournal s.dev e r ∧ MemOnly (s.dev.stateOf r q) s.dev e))
  ∧ (∀ (s : State) (r : RingIx) (q : JEntry) (l : List Byte), s.dev.chipRuns = true → r.val < 8 → Heads s.dev r q l → field l 0 2 = 0x20 →
      Plain l →
      ¬Zeros l 25 7 ∨ ¬Zeros l 40 24 ∨ field l 24 1 = r.val ∨ ¬(field l 24 1 < 8 ∨ (16 ≤ field l 24 1 ∧ field l 24 1 < 20)) →
    Makes (.fence r) s [.ring, .mem, .ecc, .regs .ecc, .asn, .reg (Adr.HIF_RING_LAST_COMPLETED_LO r), .reg (Adr.HIF_RING_LAST_COMPLETED_LO r + 4)] (fun e =>
      Completed s.dev e r q 0x101 0 ∧ OnlyJournal s.dev e r ∧ MemOnly (s.dev.stateOf r q) s.dev e))
  ∧ (∀ (s : State) (r : RingIx) (q : JEntry) (l : List Byte), s.dev.chipRuns = true → r.val < 8 → Heads s.dev r q l → field l 0 2 = 0x21 →
      Plain l → Zeros l 24 40 →
      ¬(∃ k ∈ [0, 1, 2, 3, 4, 5, 6, 7, 16, 17, 18, 19], k ≠ r.val ∧ (q.seen.getD (jrnlIx k) (0, 0)).2 = (s.dev.ringAt k).restarts ∧ s.dev.get64 (Adr.HIF_RING_LAST_COMPLETED_LO k) < (q.seen.getD (jrnlIx k) (0, 0)).1) →
    Makes (.hifBarrier r) s [.ring, .mem, .ecc, .regs .ecc, .asn, .reg (Adr.HIF_RING_LAST_COMPLETED_LO r), .reg (Adr.HIF_RING_LAST_COMPLETED_LO r + 4)] (fun e =>
      Completed s.dev e r q 0 0 ∧ OnlyJournal s.dev e r ∧ MemOnly (s.dev.stateOf r q) s.dev e))
  ∧ (∀ (s : State) (r : RingIx) (q : JEntry) (l : List Byte), s.dev.chipRuns = true → r.val < 8 → Heads s.dev r q l → field l 0 2 = 0x21 →
      Plain l → Zeros l 24 40 →
      (∃ k ∈ [0, 1, 2, 3, 4, 5, 6, 7, 16, 17, 18, 19], k ≠ r.val ∧ (q.seen.getD (jrnlIx k) (0, 0)).2 = (s.dev.ringAt k).restarts ∧ s.dev.get64 (Adr.HIF_RING_LAST_COMPLETED_LO k) < (q.seen.getD (jrnlIx k) (0, 0)).1) →
    Makes (.hifBarrier r) s [] (fun e =>
      True))
  ∧ (∀ (s : State) (r : RingIx) (q : JEntry) (l : List Byte), s.dev.chipRuns = true → r.val < 8 → Heads s.dev r q l → field l 0 2 = 0x40 →
      Plain l → Zeros l 24 8 → Zeros l 40 24 → field l 32 8 ≤ s.dev.period →
    Makes (.waitPeriod r) s [.ring, .mem, .ecc, .regs .ecc, .asn, .reg (Adr.HIF_RING_LAST_COMPLETED_LO r), .reg (Adr.HIF_RING_LAST_COMPLETED_LO r + 4)] (fun e =>
      Completed s.dev e r { q with till := some (field l 32 8) } 0 s.dev.period ∧ OnlyJournal s.dev e r ∧ MemOnly (s.dev.stateOf r q) s.dev e))
  ∧ (∀ (s : State) (r : RingIx) (q : JEntry) (l : List Byte), s.dev.chipRuns = true → r.val < 8 → Heads s.dev r q l → field l 0 2 = 0x40 →
      Plain l → Zeros l 24 8 → Zeros l 40 24 → s.dev.period < field l 32 8 →
    Makes (.waitPeriod r) s [.ring] (fun e =>
      OnlyJournal s.dev e r
      ∧ (e.ringAt r).jrnl = (s.dev.ringAt r).jrnl.map (fun x => if x.unit = q.unit then { q with till := some (field l 32 8) } else x)))
  ∧ (∀ (s : State) (r : RingIx) (q : JEntry) (l : List Byte), s.dev.chipRuns = true → r.val < 8 → Heads s.dev r q l → field l 0 2 = 0x30 →
      Plain l → Zeros l 25 7 → Zeros l 44 20 → field l 24 1 < 32 → field l 32 8 % 4096 = 0 → q.prog = 0 →
    Makes (.xltInval r) s [.ring, .mem, .ecc, .regs .ecc, .reg Adr.XLT_STATUS] (fun e =>
      Journals s.dev e r { q with prog := 1 } [] ∧ OnlyJournal s.dev e r ∧ MemOnly (s.dev.stateOf r q) s.dev e ∧ e.on XLT_STATUS.INV_BUSY = true
      ∧ e.xlt.inv = s.dev.xlt.inv ++ [if 16 ≤ field l 24 1 then ⟨none, field l 32 8 / 4096, 0, some r⟩
          else ⟨some (field l 24 1), field l 32 8 / 4096, field l 40 4, some r⟩]))
  ∧ (∀ (s : State) (r : RingIx) (q : JEntry) (l : List Byte), s.dev.chipRuns = true → r.val < 8 → Heads s.dev r q l → field l 0 2 = 0x30 →
      Plain l → Zeros l 25 7 → Zeros l 44 20 → field l 24 1 < 32 → field l 32 8 % 4096 = 0 → q.prog ≠ 0 →
    Makes (.xltInval r) s [] (fun e =>
      True))
  ∧ (∀ (s : State) (r : RingIx) (q : JEntry) (l : List Byte), s.dev.chipRuns = true → r.val < 8 → Heads s.dev r q l → field l 0 2 = 0x30 →
      Plain l → ¬Zeros l 25 7 ∨ ¬Zeros l 44 20 ∨ 32 ≤ field l 24 1 ∨ field l 32 8 % 4096 ≠ 0 →
    Makes (.xltInval r) s [.ring, .mem, .ecc, .regs .ecc, .asn, .reg (Adr.HIF_RING_LAST_COMPLETED_LO r), .reg (Adr.HIF_RING_LAST_COMPLETED_LO r + 4)] (fun e =>
      Completed s.dev e r q 0x101 0 ∧ OnlyJournal s.dev e r ∧ MemOnly (s.dev.stateOf r q) s.dev e))
  ∧ (∀ (s : State) (r : RingIx) (q : JEntry) (l : List Byte), s.dev.chipRuns = true → r.val < 8 → Heads s.dev r q l → field l 0 2 = 1 →
      field l 4 4 ≤ 4032 → field l 4 4 % 8 = 0 → Zeros l 32 32 → field l 2 2 = 0 ∨ field l 2 2 = 2 → field l 16 8 = 0 → Zeros l 24 8 →
      64 + field l 4 4 ≤ 64 * q.n → (∃ j, 8 * j < field l 4 4 ∧ shadowTarget (field l (64 + 8 * j) 4) = false) →
    Makes (.shadowWrite r) s [.ring, .mem, .ecc, .regs .ecc, .asn, .reg (Adr.HIF_RING_LAST_COMPLETED_LO r), .reg (Adr.HIF_RING_LAST_COMPLETED_LO r + 4)] (fun e =>
      Completed s.dev e r q 0x102 0 ∧ OnlyJournal s.dev e r ∧ MemOnly (s.dev.stateOf r q) s.dev e))
  ∧ (∀ (s : State) (r : RingIx) (q : JEntry) (l : List Byte), s.dev.chipRuns = true → r.val < 8 → Heads s.dev r q l → field l 0 2 = 1 →
      field l 4 4 ≤ 4032 →
      field l 4 4 % 8 ≠ 0 ∨ ¬Zeros l 32 32 ∨ 4 ≤ field l 2 2 ∨ (field l 2 2 % 2 = 0 ∧ (field l 16 8 ≠ 0 ∨ ¬Zeros l 24 8)) →
    Makes (.shadowWrite r) s [.ring, .mem, .ecc, .regs .ecc, .asn, .reg (Adr.HIF_RING_LAST_COMPLETED_LO r), .reg (Adr.HIF_RING_LAST_COMPLETED_LO r + 4)] (fun e =>
      Completed s.dev e r q 0x101 0 ∧ OnlyJournal s.dev e r ∧ MemOnly (s.dev.stateOf r q) s.dev e))
  ∧ (∀ (s : State) (r : RingIx) (q : JEntry) (l : List Byte) (a : Nat) (v : Word) (f : Found), s.dev.chipRuns = true → r.val < 8 →
      Heads s.dev r q l → field l 0 2 = 1 → field l 4 4 ≤ 4032 → field l 4 4 % 8 = 0 → Zeros l 32 32 →
      field l 2 2 = 0 ∨ field l 2 2 = 2 → field l 16 8 = 0 → Zeros l 24 8 → field l 4 4 = 8 → q.n = 2 → field l 64 4 = a →
      field l 68 4 = v.toNat → shadowTarget a = true → regAt a = some f → f.spec.half = .word → Writes s.dev hostMaster f →
      (∀ i, ¬ evBit a i) → a ≠ Adr.ECC_INJ_CTRL →
    Makes (.shadowWrite r) s [.ring, .mem, .ecc, .regs .ecc, .asn, .reg (Adr.HIF_RING_LAST_COMPLETED_LO r), .reg (Adr.HIF_RING_LAST_COMPLETED_LO r + 4), .reg a] (fun e =>
      Holds s.dev e f a v ∧ Completed s.dev e r q 0 1 ∧ OnlyJournal s.dev e r ∧ MemOnly (s.dev.stateOf r q) s.dev e))
  ∧ (∀ (s : State) (r : RingIx) (q : JEntry) (l : List Byte) (b : Nat), s.dev.chipRuns = true → r.val < 8 → Heads s.dev r q l →
      field l 0 2 = 1 → field l 4 4 ≤ 4032 → field l 4 4 % 8 = 0 → Zeros l 32 32 → field l 2 2 = 1 ∨ field l 2 2 = 3 →
      field l 4 4 = 0 → s.dev.lndStopped = false → b < 64 →
    Makes (.shadowWrite r) s [.ring, .mem, .ecc, .regs .ecc, .asn, .reg (Adr.HIF_RING_LAST_COMPLETED_LO r), .reg (Adr.HIF_RING_LAST_COMPLETED_LO r + 4), .regs .lnd] (fun e =>
      e.armed b = (s.dev.armed b || (decide (b < 49) && (field l 24 8).testBit b && !(s.dev.armed b || (field l 16 8 != 0 && decide (b < 16) && field l 16 8 % s.dev.interval != 0))))
      ∧ e.get64 (Adr.LND_BANK_TARGET_LO b) = (if (decide (b < 49) && (field l 24 8).testBit b && !(s.dev.armed b || (field l 16 8 != 0 && decide (b < 16) && field l 16 8 % s.dev.interval != 0))) then field l 16 8 else s.dev.get64 (Adr.LND_BANK_TARGET_LO b))
      ∧ (∃ status result, Completed s.dev e r q status result
        ∧ (status = 0x106 ↔ ∃ c, c < 49 ∧ (field l 24 8).testBit c = true ∧ (decide (c < 49) && (field l 24 8).testBit c && !(s.dev.armed c || (field l 16 8 != 0 && decide (c < 16) && field l 16 8 % s.dev.interval != 0))) = false)
        ∧ (status = 0x105 ↔ status ≠ 0x106 ∧ s.dev.hasPassed (field l 16 8) = true ∧ ∃ c, c < 49 ∧ (field l 24 8).testBit c = true)
        ∧ (status ≠ 0x106 → status ≠ 0x105 → status = 0 ∧ result = 0)
        ∧ (status = 0x106 ∨ status = 0x105 → result.testBit b = (decide (b < 49) && (field l 24 8).testBit b && (!(decide (b < 49) && (field l 24 8).testBit b && !(s.dev.armed b || (field l 16 8 != 0 && decide (b < 16) && field l 16 8 % s.dev.interval != 0))) || s.dev.hasPassed (field l 16 8)))))
      ∧ OnlyJournal s.dev e r ∧ MemOnly (s.dev.stateOf r q) s.dev e))

/-- COPY_IN, COPY_OUT, READ_HOST, WRITE_HOST and BULK_ABORT (R270, R272, R278, R283, R288, R292 to R294): a transfer moves 64 B
granules in address order and journals each, completes with the bytes moved, and is refused or aborted with what R283 says. -/
def Obligations.HostTransfers : Prop :=
  (∀ (s : State) (u : HostUpd) (r : RingIx) (q : JEntry) (l : List Byte) (h a n p : Nat), s.dev.chipRuns = true → r.val < 8 →
      Heads s.dev r q l → field l 0 2 = 0x10 → Plain l → Zeros l 44 20 → h = field l 24 8 → a = field l 32 8 → n = field l 40 4 →
      h % 64 = 0 → n % 64 = 0 → 0 < n → n ≤ 0x1000000 → Moves s.dev r → PantryOpen s.dev a n →
      RingMaps s.dev r (h + 64 * q.prog) false p → 64 * q.prog < n → s.dev.hostBad = [] → u.bad = none → 64 * q.prog + 64 < n →
    Makes (.copyIn u r 1) s [.ring, .mem, .ecc, .regs .ecc, .asn, .reg (Adr.HIF_RING_LAST_COMPLETED_LO r), .reg (Adr.HIF_RING_LAST_COMPLETED_LO r + 4), .bad, .xlt] (fun e =>
      Journals s.dev e r { q with prog := q.prog + 1 } [] ∧ e.bytesAt (a + 64 * q.prog) 64 = (s.dev.hostUpdate u).hostAt p 64
      ∧ OnlyJournal s.dev e r ∧ MemOnly ((a + 64 * q.prog, 64) :: s.dev.stateOf r q) s.dev e ∧ e.hostBad = (s.dev.hostUpdate u).hostBad))
  ∧ (∀ (s : State) (u : HostUpd) (r : RingIx) (q : JEntry) (l : List Byte) (h a n p : Nat), s.dev.chipRuns = true → r.val < 8 →
      Heads s.dev r q l → field l 0 2 = 0x10 → Plain l → Zeros l 44 20 → h = field l 24 8 → a = field l 32 8 → n = field l 40 4 →
      h % 64 = 0 → n % 64 = 0 → 0 < n → n ≤ 0x1000000 → Moves s.dev r → PantryOpen s.dev a n →
      RingMaps s.dev r (h + 64 * q.prog) false p → 64 * q.prog < n → s.dev.hostBad = [] → u.bad = none → n = 64 * q.prog + 64 →
    Makes (.copyIn u r 1) s [.ring, .mem, .ecc, .regs .ecc, .asn, .reg (Adr.HIF_RING_LAST_COMPLETED_LO r), .reg (Adr.HIF_RING_LAST_COMPLETED_LO r + 4), .bad, .xlt] (fun e =>
      Completed s.dev e r { q with prog := q.prog + 1 } 0 n ∧ e.bytesAt (a + 64 * q.prog) 64 = (s.dev.hostUpdate u).hostAt p 64
      ∧ OnlyJournal s.dev e r ∧ MemOnly ((a + 64 * q.prog, 64) :: s.dev.stateOf r q) s.dev e ∧ e.hostBad = (s.dev.hostUpdate u).hostBad))
  ∧ (∀ (s : State) (u : HostUpd) (r : RingIx) (q : JEntry) (l : List Byte) (k : Nat), s.dev.chipRuns = true → r.val < 8 →
      Heads s.dev r q l → field l 0 2 = 0x10 → Plain l → Zeros l 44 20 →
      ¬(field l 40 4 % 64 = 0 ∧ 0 < field l 40 4 ∧ field l 40 4 ≤ 0x1000000) ∨ field l 24 8 % 64 ≠ 0 ∨ field l 32 8 % 64 ≠ 0 →
    Makes (.copyIn u r k) s [.ring, .mem, .ecc, .regs .ecc, .asn, .reg (Adr.HIF_RING_LAST_COMPLETED_LO r), .reg (Adr.HIF_RING_LAST_COMPLETED_LO r + 4), .bad] (fun e =>
      Completed s.dev e r q 0x101 0 ∧ OnlyJournal s.dev e r ∧ MemOnly (s.dev.stateOf r q) s.dev e ∧ e.hostBad = (s.dev.hostUpdate u).hostBad))
  ∧ (∀ (s : State) (u : HostUpd) (r : RingIx) (q : JEntry) (l : List Byte) (k : Nat), s.dev.chipRuns = true → r.val < 8 →
      Heads s.dev r q l → field l 0 2 = 0x10 → Plain l → Zeros l 44 20 →
      field l 40 4 % 64 = 0 ∧ 0 < field l 40 4 ∧ field l 40 4 ≤ 0x1000000 → field l 24 8 % 64 = 0 → field l 32 8 % 64 = 0 →
      field l 32 8 < pantryBase ∨ (pantryBase + 0x4000000 < field l 32 8 + field l 40 4 ∧ field l 32 8 < roomBase) ∨ s.dev.touchesJrnl (field l 32 8) (field l 40 4) = true ∧ inPantry (field l 32 8) (field l 40 4) = true →
    Makes (.copyIn u r k) s [.ring, .mem, .ecc, .regs .ecc, .asn, .reg (Adr.HIF_RING_LAST_COMPLETED_LO r), .reg (Adr.HIF_RING_LAST_COMPLETED_LO r + 4), .bad] (fun e =>
      Completed s.dev e r q 0x103 0 ∧ OnlyJournal s.dev e r ∧ MemOnly (s.dev.stateOf r q) s.dev e ∧ e.hostBad = (s.dev.hostUpdate u).hostBad))
  ∧ (∀ (s : State) (u : HostUpd) (r : RingIx) (q : JEntry) (l : List Byte) (h a n p : Nat), s.dev.chipRuns = true → r.val < 8 →
      Heads s.dev r q l → field l 0 2 = 0x11 → Plain l → Zeros l 44 20 → h = field l 24 8 → a = field l 32 8 → n = field l 40 4 →
      h % 64 = 0 → n % 64 = 0 → 0 < n → n ≤ 0x1000000 → Moves s.dev r → PantryOpen s.dev a n →
      RingMaps s.dev r (h + 64 * q.prog) true p → 64 * q.prog < n → Quiet s.dev → 64 * q.prog + 64 < n →
    Makes (.copyOut u r 1) s [.ring, .mem, .ecc, .regs .ecc, .asn, .reg (Adr.HIF_RING_LAST_COMPLETED_LO r), .reg (Adr.HIF_RING_LAST_COMPLETED_LO r + 4), .bad, .xlt] (fun e =>
      Journals s.dev e r { q with prog := q.prog + 1 } [] ∧ HostPut (s.dev.hostUpdate u) e p (s.dev.bytesAt (a + 64 * q.prog) 64)
      ∧ OnlyJournal s.dev e r ∧ MemOnly (s.dev.stateOf r q) s.dev e ∧ e.hostBad = (s.dev.hostUpdate u).hostBad))
  ∧ (∀ (s : State) (u : HostUpd) (r : RingIx) (q : JEntry) (l : List Byte) (h a n p : Nat), s.dev.chipRuns = true → r.val < 8 →
      Heads s.dev r q l → field l 0 2 = 0x11 → Plain l → Zeros l 44 20 → h = field l 24 8 → a = field l 32 8 → n = field l 40 4 →
      h % 64 = 0 → n % 64 = 0 → 0 < n → n ≤ 0x1000000 → Moves s.dev r → PantryOpen s.dev a n →
      RingMaps s.dev r (h + 64 * q.prog) true p → 64 * q.prog < n → Quiet s.dev → n = 64 * q.prog + 64 →
    Makes (.copyOut u r 1) s [.ring, .mem, .ecc, .regs .ecc, .asn, .reg (Adr.HIF_RING_LAST_COMPLETED_LO r), .reg (Adr.HIF_RING_LAST_COMPLETED_LO r + 4), .bad, .xlt] (fun e =>
      Completed s.dev e r { q with prog := q.prog + 1 } 0 n ∧ HostPut (s.dev.hostUpdate u) e p (s.dev.bytesAt (a + 64 * q.prog) 64)
      ∧ OnlyJournal s.dev e r ∧ MemOnly (s.dev.stateOf r q) s.dev e ∧ e.hostBad = (s.dev.hostUpdate u).hostBad))
  ∧ (∀ (s : State) (u : HostUpd) (r : RingIx) (q : JEntry) (l : List Byte) (k : Nat), s.dev.chipRuns = true → r.val < 8 →
      Heads s.dev r q l → field l 0 2 = 0x11 → Plain l → Zeros l 44 20 →
      ¬(field l 40 4 % 64 = 0 ∧ 0 < field l 40 4 ∧ field l 40 4 ≤ 0x1000000) ∨ field l 24 8 % 64 ≠ 0 ∨ field l 32 8 % 64 ≠ 0 →
    Makes (.copyOut u r k) s [.ring, .mem, .ecc, .regs .ecc, .asn, .reg (Adr.HIF_RING_LAST_COMPLETED_LO r), .reg (Adr.HIF_RING_LAST_COMPLETED_LO r + 4), .bad] (fun e =>
      Completed s.dev e r q 0x101 0 ∧ OnlyJournal s.dev e r ∧ MemOnly (s.dev.stateOf r q) s.dev e ∧ e.hostBad = (s.dev.hostUpdate u).hostBad))
  ∧ (∀ (s : State) (u : HostUpd) (r : RingIx) (q : JEntry) (l : List Byte) (k : Nat), s.dev.chipRuns = true → r.val < 8 →
      Heads s.dev r q l → field l 0 2 = 0x11 → Plain l → Zeros l 44 20 →
      field l 40 4 % 64 = 0 ∧ 0 < field l 40 4 ∧ field l 40 4 ≤ 0x1000000 → field l 24 8 % 64 = 0 → field l 32 8 % 64 = 0 →
      field l 32 8 < pantryBase ∨ (pantryBase + 0x4000000 < field l 32 8 + field l 40 4 ∧ field l 32 8 < roomBase) ∨ s.dev.touchesJrnl (field l 32 8) (field l 40 4) = true ∧ inPantry (field l 32 8) (field l 40 4) = true →
    Makes (.copyOut u r k) s [.ring, .mem, .ecc, .regs .ecc, .asn, .reg (Adr.HIF_RING_LAST_COMPLETED_LO r), .reg (Adr.HIF_RING_LAST_COMPLETED_LO r + 4), .bad] (fun e =>
      Completed s.dev e r q 0x103 0 ∧ OnlyJournal s.dev e r ∧ MemOnly (s.dev.stateOf r q) s.dev e ∧ e.hostBad = (s.dev.hostUpdate u).hostBad))
  ∧ (∀ (s : State) (u : HostUpd) (r : RingIx) (q : JEntry) (l : List Byte) (h a n p : Nat), s.dev.chipRuns = true → 16 ≤ r.val →
      r.val < 20 → Heads s.dev r q l → field l 0 2 = 1 → (field l 2 2 = 0 ∨ field l 2 2 = 2) → Zeros l 32 32 → h = field l 16 8 →
      a = field l 24 8 → n = field l 4 4 → h % 64 = 0 → n % 64 = 0 → 0 < n → Moves s.dev r → PantryOpen s.dev a n →
      RingMaps s.dev r (h + 64 * q.prog) false p → 64 * q.prog < n → s.dev.hostBad = [] → u.bad = none → 64 * q.prog + 64 < n →
    Makes (.readHost u r 1) s [.ring, .mem, .ecc, .regs .ecc, .asn, .reg (Adr.HIF_RING_LAST_COMPLETED_LO r), .reg (Adr.HIF_RING_LAST_COMPLETED_LO r + 4), .bad, .xlt] (fun e =>
      Journals s.dev e r { q with prog := q.prog + 1 } [] ∧ e.bytesAt (a + 64 * q.prog) 64 = (s.dev.hostUpdate u).hostAt p 64
      ∧ OnlyJournal s.dev e r ∧ MemOnly ((a + 64 * q.prog, 64) :: s.dev.stateOf r q) s.dev e ∧ e.hostBad = (s.dev.hostUpdate u).hostBad))
  ∧ (∀ (s : State) (u : HostUpd) (r : RingIx) (q : JEntry) (l : List Byte) (h a n p : Nat), s.dev.chipRuns = true → 16 ≤ r.val →
      r.val < 20 → Heads s.dev r q l → field l 0 2 = 1 → (field l 2 2 = 0 ∨ field l 2 2 = 2) → Zeros l 32 32 → h = field l 16 8 →
      a = field l 24 8 → n = field l 4 4 → h % 64 = 0 → n % 64 = 0 → 0 < n → Moves s.dev r → PantryOpen s.dev a n →
      RingMaps s.dev r (h + 64 * q.prog) false p → 64 * q.prog < n → s.dev.hostBad = [] → u.bad = none → n = 64 * q.prog + 64 →
    Makes (.readHost u r 1) s [.ring, .mem, .ecc, .regs .ecc, .asn, .reg (Adr.HIF_RING_LAST_COMPLETED_LO r), .reg (Adr.HIF_RING_LAST_COMPLETED_LO r + 4), .bad, .xlt] (fun e =>
      Completed s.dev e r { q with prog := q.prog + 1 } 0 n ∧ e.bytesAt (a + 64 * q.prog) 64 = (s.dev.hostUpdate u).hostAt p 64
      ∧ OnlyJournal s.dev e r ∧ MemOnly ((a + 64 * q.prog, 64) :: s.dev.stateOf r q) s.dev e ∧ e.hostBad = (s.dev.hostUpdate u).hostBad))
  ∧ (∀ (s : State) (u : HostUpd) (r : RingIx) (q : JEntry) (l : List Byte) (k : Nat), s.dev.chipRuns = true → 16 ≤ r.val → r.val < 20 →
      Heads s.dev r q l → field l 0 2 = 1 → (field l 2 2 = 0 ∨ field l 2 2 = 2) → Zeros l 32 32 →
      ¬(field l 4 4 % 64 = 0 ∧ 0 < field l 4 4) ∨ field l 16 8 % 64 ≠ 0 ∨ field l 24 8 % 64 ≠ 0 →
    Makes (.readHost u r k) s [.ring, .mem, .ecc, .regs .ecc, .asn, .reg (Adr.HIF_RING_LAST_COMPLETED_LO r), .reg (Adr.HIF_RING_LAST_COMPLETED_LO r + 4), .bad] (fun e =>
      Completed s.dev e r q 0x101 0 ∧ OnlyJournal s.dev e r ∧ MemOnly (s.dev.stateOf r q) s.dev e ∧ e.hostBad = (s.dev.hostUpdate u).hostBad))
  ∧ (∀ (s : State) (u : HostUpd) (r : RingIx) (q : JEntry) (l : List Byte) (k : Nat), s.dev.chipRuns = true → 16 ≤ r.val → r.val < 20 →
      Heads s.dev r q l → field l 0 2 = 1 → (field l 2 2 = 0 ∨ field l 2 2 = 2) → Zeros l 32 32 →
      field l 4 4 % 64 = 0 ∧ 0 < field l 4 4 → field l 16 8 % 64 = 0 → field l 24 8 % 64 = 0 →
      field l 24 8 < pantryBase ∨ (pantryBase + 0x4000000 < field l 24 8 + field l 4 4 ∧ field l 24 8 < roomBase) ∨ s.dev.touchesJrnl (field l 24 8) (field l 4 4) = true ∧ inPantry (field l 24 8) (field l 4 4) = true →
    Makes (.readHost u r k) s [.ring, .mem, .ecc, .regs .ecc, .asn, .reg (Adr.HIF_RING_LAST_COMPLETED_LO r), .reg (Adr.HIF_RING_LAST_COMPLETED_LO r + 4), .bad] (fun e =>
      Completed s.dev e r q 0x103 0 ∧ OnlyJournal s.dev e r ∧ MemOnly (s.dev.stateOf r q) s.dev e ∧ e.hostBad = (s.dev.hostUpdate u).hostBad))
  ∧ (∀ (s : State) (u : HostUpd) (r : RingIx) (q : JEntry) (l : List Byte) (h a n p : Nat), s.dev.chipRuns = true → 16 ≤ r.val →
      r.val < 20 → Heads s.dev r q l → field l 0 2 = 2 → (field l 2 2 = 0 ∨ field l 2 2 = 2) → Zeros l 32 32 → h = field l 16 8 →
      a = field l 24 8 → n = field l 4 4 → h % 64 = 0 → n % 64 = 0 → 0 < n → Moves s.dev r → PantryOpen s.dev a n →
      RingMaps s.dev r (h + 64 * q.prog) true p → 64 * q.prog < n → Quiet s.dev → 64 * q.prog + 64 < n →
    Makes (.writeHost u r 1) s [.ring, .mem, .ecc, .regs .ecc, .asn, .reg (Adr.HIF_RING_LAST_COMPLETED_LO r), .reg (Adr.HIF_RING_LAST_COMPLETED_LO r + 4), .bad, .xlt] (fun e =>
      Journals s.dev e r { q with prog := q.prog + 1 } [] ∧ HostPut (s.dev.hostUpdate u) e p (s.dev.bytesAt (a + 64 * q.prog) 64)
      ∧ OnlyJournal s.dev e r ∧ MemOnly (s.dev.stateOf r q) s.dev e ∧ e.hostBad = (s.dev.hostUpdate u).hostBad))
  ∧ (∀ (s : State) (u : HostUpd) (r : RingIx) (q : JEntry) (l : List Byte) (h a n p : Nat), s.dev.chipRuns = true → 16 ≤ r.val →
      r.val < 20 → Heads s.dev r q l → field l 0 2 = 2 → (field l 2 2 = 0 ∨ field l 2 2 = 2) → Zeros l 32 32 → h = field l 16 8 →
      a = field l 24 8 → n = field l 4 4 → h % 64 = 0 → n % 64 = 0 → 0 < n → Moves s.dev r → PantryOpen s.dev a n →
      RingMaps s.dev r (h + 64 * q.prog) true p → 64 * q.prog < n → Quiet s.dev → n = 64 * q.prog + 64 →
    Makes (.writeHost u r 1) s [.ring, .mem, .ecc, .regs .ecc, .asn, .reg (Adr.HIF_RING_LAST_COMPLETED_LO r), .reg (Adr.HIF_RING_LAST_COMPLETED_LO r + 4), .bad, .xlt] (fun e =>
      Completed s.dev e r { q with prog := q.prog + 1 } 0 n ∧ HostPut (s.dev.hostUpdate u) e p (s.dev.bytesAt (a + 64 * q.prog) 64)
      ∧ OnlyJournal s.dev e r ∧ MemOnly (s.dev.stateOf r q) s.dev e ∧ e.hostBad = (s.dev.hostUpdate u).hostBad))
  ∧ (∀ (s : State) (u : HostUpd) (r : RingIx) (q : JEntry) (l : List Byte) (k : Nat), s.dev.chipRuns = true → 16 ≤ r.val → r.val < 20 →
      Heads s.dev r q l → field l 0 2 = 2 → (field l 2 2 = 0 ∨ field l 2 2 = 2) → Zeros l 32 32 →
      ¬(field l 4 4 % 64 = 0 ∧ 0 < field l 4 4) ∨ field l 16 8 % 64 ≠ 0 ∨ field l 24 8 % 64 ≠ 0 →
    Makes (.writeHost u r k) s [.ring, .mem, .ecc, .regs .ecc, .asn, .reg (Adr.HIF_RING_LAST_COMPLETED_LO r), .reg (Adr.HIF_RING_LAST_COMPLETED_LO r + 4), .bad] (fun e =>
      Completed s.dev e r q 0x101 0 ∧ OnlyJournal s.dev e r ∧ MemOnly (s.dev.stateOf r q) s.dev e ∧ e.hostBad = (s.dev.hostUpdate u).hostBad))
  ∧ (∀ (s : State) (u : HostUpd) (r : RingIx) (q : JEntry) (l : List Byte) (k : Nat), s.dev.chipRuns = true → 16 ≤ r.val → r.val < 20 →
      Heads s.dev r q l → field l 0 2 = 2 → (field l 2 2 = 0 ∨ field l 2 2 = 2) → Zeros l 32 32 →
      field l 4 4 % 64 = 0 ∧ 0 < field l 4 4 → field l 16 8 % 64 = 0 → field l 24 8 % 64 = 0 →
      field l 24 8 < pantryBase ∨ (pantryBase + 0x4000000 < field l 24 8 + field l 4 4 ∧ field l 24 8 < roomBase) ∨ s.dev.touchesJrnl (field l 24 8) (field l 4 4) = true ∧ inPantry (field l 24 8) (field l 4 4) = true →
    Makes (.writeHost u r k) s [.ring, .mem, .ecc, .regs .ecc, .asn, .reg (Adr.HIF_RING_LAST_COMPLETED_LO r), .reg (Adr.HIF_RING_LAST_COMPLETED_LO r + 4), .bad] (fun e =>
      Completed s.dev e r q 0x103 0 ∧ OnlyJournal s.dev e r ∧ MemOnly (s.dev.stateOf r q) s.dev e ∧ e.hostBad = (s.dev.hostUpdate u).hostBad))
  ∧ (∀ (s : State) (u : HostUpd) (r : RingIx) (q : JEntry) (l : List Byte) (k : Nat) (i : Instr) (o : Nat), s.dev.chipRuns = true →
      r.val < 8 → Heads s.dev r q l → field l 0 2 = o → ¬Plain l ∨ ¬Zeros l 44 20 →
      (i, o) ∈ [(Instr.copyIn u r k, 0x10), (Instr.copyOut u r k, 0x11)] →
    Makes (i) s [.ring, .mem, .ecc, .regs .ecc, .asn, .reg (Adr.HIF_RING_LAST_COMPLETED_LO r), .reg (Adr.HIF_RING_LAST_COMPLETED_LO r + 4), .bad] (fun e =>
      Completed s.dev e r q 0x101 0 ∧ OnlyJournal s.dev e r ∧ MemOnly (s.dev.stateOf r q) s.dev e ∧ e.hostBad = (s.dev.hostUpdate u).hostBad))
  ∧ (∀ (s : State) (u : HostUpd) (r : RingIx) (q : JEntry) (l : List Byte) (k : Nat) (i : Instr) (o : Nat), s.dev.chipRuns = true →
      16 ≤ r.val → r.val < 20 → Heads s.dev r q l → field l 0 2 = o → 4 ≤ field l 2 2 ∨ field l 2 2 % 2 = 1 ∨ ¬Zeros l 32 32 →
      (i, o) ∈ [(Instr.readHost u r k, 1), (Instr.writeHost u r k, 2)] →
    Makes (i) s [.ring, .mem, .ecc, .regs .ecc, .asn, .reg (Adr.HIF_RING_LAST_COMPLETED_LO r), .reg (Adr.HIF_RING_LAST_COMPLETED_LO r + 4), .bad] (fun e =>
      Completed s.dev e r q 0x101 0 ∧ OnlyJournal s.dev e r ∧ MemOnly (s.dev.stateOf r q) s.dev e ∧ e.hostBad = (s.dev.hostUpdate u).hostBad))
  ∧ (∀ (s : State) (u : HostUpd) (r : RingIx) (q : JEntry) (l : List Byte) (k : Nat), s.dev.chipRuns = true → 16 ≤ r.val → r.val < 20 →
      Heads s.dev r q l → field l 0 2 ≠ 1 → field l 0 2 ≠ 2 →
    Makes (.readHost u r k) s [.ring, .mem, .ecc, .regs .ecc, .asn, .reg (Adr.HIF_RING_LAST_COMPLETED_LO r), .reg (Adr.HIF_RING_LAST_COMPLETED_LO r + 4), .bad] (fun e =>
      Completed s.dev e r q 0x100 0 ∧ OnlyJournal s.dev e r ∧ MemOnly (s.dev.stateOf r q) s.dev e ∧ e.hostBad = (s.dev.hostUpdate u).hostBad))
  ∧ (∀ (s : State) (m : Master) (r : RingIx) (v : Word) (q : JEntry), Served s.dev m → v.getLsbD 2 = true → 16 ≤ r.val → r.val < 20 →
      (s.dev.ringAt r).jrnl.find? (fun x => !x.done) = some q → s.dev.hifReset = false →
      (inPantry (s.dev.jrnlAddr false r (q.unit + q.n)) 64 = true ∧ inPantry (s.dev.jrnlAddr true r (q.unit + q.n)) 64 = true) →
      s.dev.ringState r = 1 → v.getLsbD 0 = true → (s.dev.ringAt r).susp = none →
    Makes (.bulkAbort m r v) s [.reg (Adr.HIF_RING_CTRL r), .resp, .ring, .mem, .ecc, .regs .ecc, .asn, .reg (Adr.HIF_RING_LAST_COMPLETED_LO r), .reg (Adr.HIF_RING_LAST_COMPLETED_LO r + 4)] (fun e =>
      e.resp = .okay 0 ∧ Completed s.dev e r q 0x108 (64 * q.prog) ∧ OnlyJournal s.dev e r ∧ MemOnly (s.dev.stateOf r q) s.dev e ∧ e.ringState r = 1))
  ∧ (∀ (s : State) (m : Master) (r : RingIx) (v : Word) (q : JEntry) (x : Susp), Served s.dev m → v.getLsbD 2 = true → 16 ≤ r.val →
      r.val < 20 → (s.dev.ringAt r).jrnl.find? (fun x => !x.done) = some q → s.dev.hifReset = false →
      (inPantry (s.dev.jrnlAddr false r (q.unit + q.n)) 64 = true ∧ inPantry (s.dev.jrnlAddr true r (q.unit + q.n)) 64 = true) →
      s.dev.ringState r = 2 → v.getLsbD 0 = true → (s.dev.ringAt r).susp = some x → x.kind = .data →
      s.dev.on (HIF_RING_STATUS.DRAINING r) = false →
    Makes (.bulkAbort m r v) s [.reg (Adr.HIF_RING_CTRL r), .resp, .reg (Adr.HIF_RING_STATUS r), .ring, .mem, .ecc, .regs .ecc, .asn, .reg (Adr.HIF_RING_LAST_COMPLETED_LO r), .reg (Adr.HIF_RING_LAST_COMPLETED_LO r + 4)] (fun e =>
      e.resp = .okay 0 ∧ Completed s.dev e r q 0x108 (64 * q.prog) ∧ e.ringState r = 1 ∧ e.ringAt r = { s.dev.ringAt r with jrnl := (e.ringAt r).jrnl, susp := none }
      ∧ OtherRings [r, 20] s.dev e ∧ MemOnly (s.dev.stateOf r q) s.dev e))

/-- DOORBELL_WRITE, DESCRIPTOR_FETCH, COMMAND_ACCEPT, COMPLETION_POST, RING_ENABLE, RING_RESUME, RING_STOP, RING_DRAIN_END and
MSIX_MOD_EXPIRY (R266 to R275, R282, R284, R285, R289): indexes, descriptors, acceptance into the journal, completion records in
host memory, and the states of a ring. -/
def Obligations.HostRings : Prop :=
  (∀ (s : State) (u : HostUpd) (r : RingIx) (h : Word), s.dev.chipRuns = true → s.dev.on HIF_STATUS.LINK_UP = true →
      s.dev.hifReset = false → s.dev.ringState r ≠ 1 → s.dev.ringState r ≠ 2 →
    Makes (.doorbellWrite u r h) s [.reg (Adr.HIF_RING_HOST_IDX r), .bad] (fun e =>
      e.reg (Adr.HIF_RING_HOST_IDX r) = h ∧ e.hostBad = (s.dev.hostUpdate u).hostBad))
  ∧ (∀ (s : State) (u : HostUpd) (r : RingIx) (h : Word), s.dev.chipRuns = true → s.dev.on HIF_STATUS.LINK_UP = true →
      s.dev.hifReset = false → (s.dev.ringState r = 1 ∨ s.dev.ringState r = 2) → (r.val < 8 ∨ (16 ≤ r.val ∧ r.val ≠ 20)) →
      (h.toNat + 2 ^ 32 - (s.dev.reg (Adr.HIF_RING_DEV_IDX r)).toNat) % 2 ^ 32 ≤ s.dev.ringSize r →
    Makes (.doorbellWrite u r h) s [.reg (Adr.HIF_RING_HOST_IDX r), .bad] (fun e =>
      e.reg (Adr.HIF_RING_HOST_IDX r) = h ∧ e.hostBad = (s.dev.hostUpdate u).hostBad))
  ∧ (∀ (s : State) (u : HostUpd) (r : RingIx) (h : Word), s.dev.chipRuns = true → s.dev.on HIF_STATUS.LINK_UP = true →
      s.dev.hifReset = false → (s.dev.ringState r = 1 ∨ s.dev.ringState r = 2) → (r.val < 8 ∨ (16 ≤ r.val ∧ r.val ≠ 20)) →
      s.dev.ringSize r < (h.toNat + 2 ^ 32 - (s.dev.reg (Adr.HIF_RING_DEV_IDX r)).toNat) % 2 ^ 32 →
    Makes (.doorbellWrite u r h) s [.reg (Adr.HIF_RING_HOST_IDX r), .reg (Adr.HIF_RING_STATUS r), .ring, .bad] (fun e =>
      e.reg (Adr.HIF_RING_HOST_IDX r) = h ∧ e.hostBad = (s.dev.hostUpdate u).hostBad ∧ e.ringState r = 4 ∧ e.get (HIF_RING_STATUS.ERR r) = 1
      ∧ e.ringAt r = { s.dev.ringAt r with susp := none, fetched := [] } ∧ OtherRings [r, 20] s.dev e))
  ∧ (∀ (s : State) (u : HostUpd) (r : RingIx) (h : Word) (k : Nat), s.dev.chipRuns = true → s.dev.on HIF_STATUS.LINK_UP = true →
      s.dev.hifReset = false → (s.dev.ringState r = 1 ∨ s.dev.ringState r = 2) → (8 ≤ r.val ∧ r.val < 16) →
      k ≤ (s.dev.ringAt r).posted.length → (s.dev.ringAt r).posted.length ≤ s.dev.ringSize r →
      (h.toNat + (s.dev.ringAt r).posted.length) % 2 ^ 32 = ((s.dev.reg (Adr.HIF_RING_DEV_IDX r)).toNat + k) % 2 ^ 32 →
    Makes (.doorbellWrite u r h) s [.reg (Adr.HIF_RING_HOST_IDX r), .ring, .bad] (fun e =>
      e.reg (Adr.HIF_RING_HOST_IDX r) = h ∧ e.hostBad = (s.dev.hostUpdate u).hostBad ∧ e.ringAt r = { s.dev.ringAt r with posted := (s.dev.ringAt r).posted.drop k }
      ∧ Retired [r, 20] (((s.dev.ringAt r).posted.take k).filterMap (fun x => x.own)) s.dev e))
  ∧ (∀ (s : State) (u : HostUpd) (h : Word) (k : Nat), s.dev.chipRuns = true → s.dev.on HIF_STATUS.LINK_UP = true →
      s.dev.hifReset = false → (s.dev.ringState 20 = 1 ∨ s.dev.ringState 20 = 2) → s.dev.evc.queue = [] → s.dev.evc.wraps = 0 →
      k ≤ (s.dev.ringAt 20).posted.length → (s.dev.ringAt 20).posted.length ≤ s.dev.ringSize 20 →
      (s.dev.ringAt 20).posted.all (fun p => p.own == none) = true →
      (h.toNat + (s.dev.ringAt 20).posted.length) % 2 ^ 32 = ((s.dev.reg (Adr.HIF_RING_DEV_IDX 20)).toNat + k) % 2 ^ 32 →
    Makes (.doorbellWrite u 20 h) s [.reg (Adr.HIF_RING_HOST_IDX 20), .bad] (fun e =>
      e.reg (Adr.HIF_RING_HOST_IDX 20) = h ∧ e.hostBad = (s.dev.hostUpdate u).hostBad ∧ e.ringAt 20 = { s.dev.ringAt 20 with posted := (s.dev.ringAt 20).posted.drop k }))
  ∧ (∀ (s : State) (u : HostUpd) (r : RingIx) (p : Nat) (l : List Byte) (n k : Nat), s.dev.chipRuns = true →
      (r.val < 8 ∨ (16 ≤ r.val ∧ r.val < 20)) → Moves s.dev r → s.dev.on (HIF_RING_STATUS.DRAINING r) = false → s.dev.hostBad = [] →
      u.bad = none → n = (s.dev.ringAt r).fetched.length → n < k →
      k = (if 16 ≤ r.val then 1 else if n = 0 then 1 else 1 + (field ((s.dev.ringAt r).fetched.headD []) 4 4 + 63) / 64) →
      ((s.dev.reg (Adr.HIF_RING_HOST_IDX r)).toNat + 2 ^ 32 - (s.dev.reg (Adr.HIF_RING_DEV_IDX r)).toNat) % 2 ^ 32 = n + 1 →
      RingMaps s.dev r (s.dev.get64 (Adr.HIF_RING_BASE_LO r) / (64 * s.dev.ringSize r) * (64 * s.dev.ringSize r) + 64 * (((s.dev.reg (Adr.HIF_RING_DEV_IDX r)).toNat + n) % s.dev.ringSize r)) false p →
      l = (s.dev.hostUpdate u).hostAt p 64 → (n ≠ 0 → field ((s.dev.ringAt r).fetched.headD []) 4 4 ≤ 4032) →
    Makes (.descriptorFetch u r) s [.ring, .bad] (fun e =>
      e.ringAt r = { s.dev.ringAt r with fetched := (s.dev.ringAt r).fetched ++ [l] } ∧ e.hostBad = (s.dev.hostUpdate u).hostBad
      ∧ OtherRings [r, 20] s.dev e))
  ∧ (∀ (s : State) (u : HostUpd) (r : RingIx), s.dev.chipRuns = true →
      ((s.dev.reg (Adr.HIF_RING_HOST_IDX r)).toNat + 2 ^ 32 - (s.dev.reg (Adr.HIF_RING_DEV_IDX r)).toNat) % 2 ^ 32 ≤ (s.dev.ringAt r).fetched.length →
    Makes (.descriptorFetch u r) s [.bad] (fun e =>
      e.hostBad = (s.dev.hostUpdate u).hostBad))
  ∧ (∀ (s : State) (r : RingIx) (n : Nat), s.dev.chipRuns = true → (r.val < 8 ∨ (16 ≤ r.val ∧ r.val < 20)) → s.dev.ringState r = 1 →
      s.dev.on (HIF_RING_STATUS.DRAINING r) = false → (s.dev.ringAt r).fetched.length = n →
      field ((s.dev.ringAt r).fetched.headD []) 4 4 ≤ 4032 ∨ 16 ≤ r.val →
      n = (if 16 ≤ r.val then 1 else 1 + (field ((s.dev.ringAt r).fetched.headD []) 4 4 + 63) / 64) →
      s.dev.ringState (8 + s.dev.get (HIF_RING_CFG.CQ r)) ≠ 0 → s.dev.jrnlUsed r + n + 1 ≤ s.dev.jrnlUnits →
      s.dev.reserved (8 + s.dev.get (HIF_RING_CFG.CQ r)) < s.dev.ringSize (8 + s.dev.get (HIF_RING_CFG.CQ r)) →
      (∀ i j, i < n + 1 → j < n + 1 → s.dev.jrnlAddr false r ((s.dev.ringAt r).jw + i) ≠ s.dev.jrnlAddr true r ((s.dev.ringAt r).jw + j)) →
      (∀ x ∈ (s.dev.ringAt r).fetched, x.length = 64) →
      (∀ i, i < n + 1 → inPantry (s.dev.jrnlAddr false r ((s.dev.ringAt r).jw + i)) 64 = true ∧ inPantry (s.dev.jrnlAddr true r ((s.dev.ringAt r).jw + i)) 64 = true) →
    Makes (.commandAccept r) s [.ring, .mem, .ecc, .regs .ecc, .asn, .reg (Adr.HIF_RING_DEV_IDX r), .reg (Adr.HIF_RING_LAST_ACCEPTED_LO r), .reg (Adr.HIF_RING_LAST_ACCEPTED_LO r + 4)] (fun e =>
      (∀ c : Bool, (∀ i, i < n → e.bytesAt (s.dev.jrnlAddr c r ((s.dev.ringAt r).jw + i)) 64 = (s.dev.ringAt r).fetched.getD i []) ∧ e.bytesAt (s.dev.jrnlAddr c r ((s.dev.ringAt r).jw + n)) 64 = bytesOf 8 (s.dev.get64 (Adr.HIF_RING_LAST_ACCEPTED_LO r) + 1) ++ List.replicate 56 0)
      ∧ e.get64 (Adr.HIF_RING_LAST_ACCEPTED_LO r) = (s.dev.get64 (Adr.HIF_RING_LAST_ACCEPTED_LO r) + 1) % 2 ^ 64 ∧ vat e.asnCopy r = (s.dev.get64 (Adr.HIF_RING_LAST_ACCEPTED_LO r) + 1, (vat s.dev.asnCopy r).2)
      ∧ OtherCopies r s.dev e ∧ e.reg (Adr.HIF_RING_DEV_IDX r) = s.dev.reg (Adr.HIF_RING_DEV_IDX r) + BitVec.ofNat 32 n
      ∧ OtherRings [r, 20] s.dev e
      ∧ e.ringAt r = { s.dev.ringAt r with fetched := [], jw := (s.dev.ringAt r).jw + n + 1, jrnl := (s.dev.ringAt r).jrnl ++ [{
          asn := s.dev.get64 (Adr.HIF_RING_LAST_ACCEPTED_LO r) + 1, unit := (s.dev.ringAt r).jw, n := n, prog := 0, tag := field ((s.dev.ringAt r).fetched.headD []) 8 8, irq := (field ((s.dev.ringAt r).fetched.headD []) 2 2).testBit 1, done := false, posted := none, till := none,
          seen := [0, 1, 2, 3, 4, 5, 6, 7, 16, 17, 18, 19].map (fun k => (s.dev.get64 (Adr.HIF_RING_LAST_ACCEPTED_LO k), (s.dev.ringAt k).restarts)) }] }
      ∧ MemOnly ((List.range (n + 1)).flatMap (fun i => [(s.dev.jrnlAddr false r ((s.dev.ringAt r).jw + i), 64), (s.dev.jrnlAddr true r ((s.dev.ringAt r).jw + i), 64)])) s.dev e))
  ∧ (∀ (s : State) (r : RingIx) (n : Nat), s.dev.chipRuns = true → (r.val < 8 ∨ (16 ≤ r.val ∧ r.val < 20)) → s.dev.ringState r = 1 →
      s.dev.on (HIF_RING_STATUS.DRAINING r) = false → (s.dev.ringAt r).fetched.length = n →
      field ((s.dev.ringAt r).fetched.headD []) 4 4 ≤ 4032 ∨ 16 ≤ r.val →
      n = (if 16 ≤ r.val then 1 else 1 + (field ((s.dev.ringAt r).fetched.headD []) 4 4 + 63) / 64) →
      s.dev.ringState (8 + s.dev.get (HIF_RING_CFG.CQ r)) ≠ 0 →
      s.dev.jrnlUnits < s.dev.jrnlUsed r + n + 1 ∨ s.dev.ringSize (8 + s.dev.get (HIF_RING_CFG.CQ r)) ≤ s.dev.reserved (8 + s.dev.get (HIF_RING_CFG.CQ r)) →
    Makes (.commandAccept r) s [] (fun e =>
      True))
  ∧ (∀ (s : State) (u : HostUpd) (r : RingIx) (c : Nat) (q : JEntry) (p : Nat) (l : List Byte), s.dev.chipRuns = true →
      (r.val < 8 ∨ (16 ≤ r.val ∧ r.val < 20)) → c = 8 + s.dev.get (HIF_RING_CFG.CQ r) → Moves s.dev c → (s.dev.ringAt c).repost = [] →
      (s.dev.ringAt c).posted.length < s.dev.ringSize c → (s.dev.ringAt r).jrnl.find? (fun x => x.done && x.posted.isNone) = some q →
      inPantry (s.dev.jrnlAddr false r (q.unit + q.n)) 64 = true →
      (∀ w ∈ unitsOf (s.dev.jrnlAddr false r (q.unit + q.n)) 64, unitState s.dev.ecc w = .clean) →
      RingMaps s.dev c (s.dev.get64 (Adr.HIF_RING_BASE_LO c) / (32 * s.dev.ringSize c) * (32 * s.dev.ringSize c) + 32 * ((s.dev.reg (Adr.HIF_RING_DEV_IDX c)).toNat % s.dev.ringSize c)) true p →
      Quiet s.dev →
      l = s.dev.bytesAt (s.dev.jrnlAddr false r (q.unit + q.n) + 16) 31 ++ [BitVec.ofNat 8 ((s.dev.byteAt (s.dev.jrnlAddr false r (q.unit + q.n) + 47)).toNat % 128 + (if (s.dev.reg (Adr.HIF_RING_DEV_IDX c)).toNat / s.dev.ringSize c % 2 = 0 then 128 else 0))] →
      q.irq = false →
    Makes (.completionPost u r) s [.ring, .reg (Adr.HIF_RING_DEV_IDX c), .bad] (fun e =>
      HostPut (s.dev.hostUpdate u) e p l ∧ e.hostBad = (s.dev.hostUpdate u).hostBad ∧ e.reg (Adr.HIF_RING_DEV_IDX c) = s.dev.reg (Adr.HIF_RING_DEV_IDX c) + 1
      ∧ e.ringAt r = { s.dev.ringAt r with jrnl := (s.dev.ringAt r).jrnl.map (fun x => if x.unit == q.unit then { x with posted := some (c, (s.dev.reg (Adr.HIF_RING_DEV_IDX c)).toNat) } else x) }
      ∧ OtherRings [r, c, 20] s.dev e
      ∧ (e.ringAt c).posted = (s.dev.ringAt c).posted ++ [⟨(s.dev.reg (Adr.HIF_RING_DEV_IDX c)).toNat, l, some (r.val, q.unit)⟩]
      ∧ e.ringAt c = { s.dev.ringAt c with posted := (e.ringAt c).posted, modRun := (e.ringAt c).modRun, irqDue := (e.ringAt c).irqDue }
      ∧ (e.ringAt c).modRun = (s.dev.ringAt c).modRun ∧ (e.ringAt c).irqDue = (s.dev.ringAt c).irqDue))
  ∧ (∀ (s : State) (u : HostUpd) (r : RingIx) (c : Nat) (q : JEntry) (p : Nat) (l : List Byte), s.dev.chipRuns = true →
      (r.val < 8 ∨ (16 ≤ r.val ∧ r.val < 20)) → c = 8 + s.dev.get (HIF_RING_CFG.CQ r) → Moves s.dev c → (s.dev.ringAt c).repost = [] →
      (s.dev.ringAt c).posted.length < s.dev.ringSize c → (s.dev.ringAt r).jrnl.find? (fun x => x.done && x.posted.isNone) = some q →
      inPantry (s.dev.jrnlAddr false r (q.unit + q.n)) 64 = true →
      (∀ w ∈ unitsOf (s.dev.jrnlAddr false r (q.unit + q.n)) 64, unitState s.dev.ecc w = .clean) →
      RingMaps s.dev c (s.dev.get64 (Adr.HIF_RING_BASE_LO c) / (32 * s.dev.ringSize c) * (32 * s.dev.ringSize c) + 32 * ((s.dev.reg (Adr.HIF_RING_DEV_IDX c)).toNat % s.dev.ringSize c)) true p →
      Quiet s.dev →
      l = s.dev.bytesAt (s.dev.jrnlAddr false r (q.unit + q.n) + 16) 31 ++ [BitVec.ofNat 8 ((s.dev.byteAt (s.dev.jrnlAddr false r (q.unit + q.n) + 47)).toNat % 128 + (if (s.dev.reg (Adr.HIF_RING_DEV_IDX c)).toNat / s.dev.ringSize c % 2 = 0 then 128 else 0))] →
      s.dev.evc.queue = [] → s.dev.evc.wraps = 0 → s.dev.on (EVC_SRC_CFG.EN 251) = false →
      bitOf (s.dev.reg (Adr.HIF_MSIX_CTRL (s.dev.get (HIF_RING_CFG.VEC c)))).toNat 0 = false → q.irq = true →
      s.dev.get (HIF_RING_CFG.MOD c) = 0 ∨ (s.dev.ringAt c).modRun = false →
    Makes (.completionPost u r) s [.ring, .reg (Adr.HIF_RING_DEV_IDX c), .bad] (fun e =>
      HostPut (s.dev.hostUpdate u) e p l ∧ e.hostBad = (s.dev.hostUpdate u).hostBad ∧ e.reg (Adr.HIF_RING_DEV_IDX c) = s.dev.reg (Adr.HIF_RING_DEV_IDX c) + 1
      ∧ e.ringAt r = { s.dev.ringAt r with jrnl := (s.dev.ringAt r).jrnl.map (fun x => if x.unit == q.unit then { x with posted := some (c, (s.dev.reg (Adr.HIF_RING_DEV_IDX c)).toNat) } else x) }
      ∧ OtherRings [r, c, 20] s.dev e
      ∧ (e.ringAt c).posted = (s.dev.ringAt c).posted ++ [⟨(s.dev.reg (Adr.HIF_RING_DEV_IDX c)).toNat, l, some (r.val, q.unit)⟩]
      ∧ e.ringAt c = { s.dev.ringAt c with posted := (e.ringAt c).posted, modRun := (e.ringAt c).modRun, irqDue := (e.ringAt c).irqDue }
      ∧ (e.msix = s.dev.msix ++ [((s.dev.reg (Adr.HIF_MSIX_ADDR_LO (s.dev.get (HIF_RING_CFG.VEC c)))).toNat + 2 ^ 32 * (s.dev.reg (Adr.HIF_MSIX_ADDR_HI (s.dev.get (HIF_RING_CFG.VEC c)))).toNat, s.dev.reg (Adr.HIF_MSIX_DATA (s.dev.get (HIF_RING_CFG.VEC c))))])
      ∧ (s.dev.get (HIF_RING_CFG.MOD c) ≠ 0 → (e.ringAt c).modRun = true ∧ (e.ringAt c).irqDue = false)))
  ∧ (∀ (s : State) (u : HostUpd) (r : RingIx) (c : Nat) (q : JEntry) (p : Nat) (l : List Byte), s.dev.chipRuns = true →
      (r.val < 8 ∨ (16 ≤ r.val ∧ r.val < 20)) → c = 8 + s.dev.get (HIF_RING_CFG.CQ r) → Moves s.dev c → (s.dev.ringAt c).repost = [] →
      (s.dev.ringAt c).posted.length < s.dev.ringSize c → (s.dev.ringAt r).jrnl.find? (fun x => x.done && x.posted.isNone) = some q →
      inPantry (s.dev.jrnlAddr false r (q.unit + q.n)) 64 = true →
      (∀ w ∈ unitsOf (s.dev.jrnlAddr false r (q.unit + q.n)) 64, unitState s.dev.ecc w = .clean) →
      RingMaps s.dev c (s.dev.get64 (Adr.HIF_RING_BASE_LO c) / (32 * s.dev.ringSize c) * (32 * s.dev.ringSize c) + 32 * ((s.dev.reg (Adr.HIF_RING_DEV_IDX c)).toNat % s.dev.ringSize c)) true p →
      Quiet s.dev →
      l = s.dev.bytesAt (s.dev.jrnlAddr false r (q.unit + q.n) + 16) 31 ++ [BitVec.ofNat 8 ((s.dev.byteAt (s.dev.jrnlAddr false r (q.unit + q.n) + 47)).toNat % 128 + (if (s.dev.reg (Adr.HIF_RING_DEV_IDX c)).toNat / s.dev.ringSize c % 2 = 0 then 128 else 0))] →
      q.irq = true → s.dev.get (HIF_RING_CFG.MOD c) ≠ 0 → (s.dev.ringAt c).modRun = true → s.dev.evc.queue = [] →
      s.dev.evc.wraps = 0 → s.dev.on (EVC_SRC_CFG.EN 251) = false →
    Makes (.completionPost u r) s [.ring, .reg (Adr.HIF_RING_DEV_IDX c), .bad] (fun e =>
      HostPut (s.dev.hostUpdate u) e p l ∧ e.hostBad = (s.dev.hostUpdate u).hostBad ∧ e.reg (Adr.HIF_RING_DEV_IDX c) = s.dev.reg (Adr.HIF_RING_DEV_IDX c) + 1
      ∧ e.ringAt r = { s.dev.ringAt r with jrnl := (s.dev.ringAt r).jrnl.map (fun x => if x.unit == q.unit then { x with posted := some (c, (s.dev.reg (Adr.HIF_RING_DEV_IDX c)).toNat) } else x) }
      ∧ OtherRings [r, c, 20] s.dev e
      ∧ (e.ringAt c).posted = (s.dev.ringAt c).posted ++ [⟨(s.dev.reg (Adr.HIF_RING_DEV_IDX c)).toNat, l, some (r.val, q.unit)⟩]
      ∧ e.ringAt c = { s.dev.ringAt c with posted := (e.ringAt c).posted, modRun := (e.ringAt c).modRun, irqDue := (e.ringAt c).irqDue }
      ∧ e.msix = s.dev.msix ∧ (e.ringAt c).modRun = true ∧ (e.ringAt c).irqDue = true))
  ∧ (∀ (s : State) (r : RingIx), s.dev.chipRuns = true → (s.dev.ringAt r).modRun = true → (s.dev.ringAt r).irqDue = true → r.val ≠ 20 →
      s.dev.evc.queue = [] → s.dev.evc.wraps = 0 → s.dev.on (EVC_SRC_CFG.EN 251) = false →
      bitOf (s.dev.reg (Adr.HIF_MSIX_CTRL (s.dev.get (HIF_RING_CFG.VEC r)))).toNat 0 = false → s.dev.on HIF_STATUS.LINK_UP = true →
    Makes (.msixModExpiry r) s [.ring] (fun e =>
      e.ringAt r = { s.dev.ringAt r with irqDue := false } ∧ OtherRings [r, 20] s.dev e ∧ (e.msix = s.dev.msix ++ [((s.dev.reg (Adr.HIF_MSIX_ADDR_LO (s.dev.get (HIF_RING_CFG.VEC r)))).toNat + 2 ^ 32 * (s.dev.reg (Adr.HIF_MSIX_ADDR_HI (s.dev.get (HIF_RING_CFG.VEC r)))).toNat, s.dev.reg (Adr.HIF_MSIX_DATA (s.dev.get (HIF_RING_CFG.VEC r))))])))
  ∧ (∀ (s : State) (r : RingIx), s.dev.chipRuns = true → (s.dev.ringAt r).modRun = true → (s.dev.ringAt r).irqDue = false → r.val ≠ 20 →
    Makes (.msixModExpiry r) s [.ring] (fun e =>
      e.ringAt r = { s.dev.ringAt r with modRun := false } ∧ OtherRings [r, 20] s.dev e))
  ∧ (∀ (s : State) (m : Master) (r : RingIx) (v : Word), Served s.dev m → s.dev.hifReset = false →
      v.getLsbD 2 = false ∨ ¬(16 ≤ r.val ∧ r.val < 20) → v.getLsbD 0 = true → v.getLsbD 1 = false →
      (r.val < 8 ∨ (16 ≤ r.val ∧ r.val < 20)) → (s.dev.ringState r = 0 ∨ s.dev.ringState r = 3) →
      s.dev.on (HIF_RING_STATUS.DRAINING r) = false → (s.dev.ringAt r).jrnl.all (fun x => x.done) = true →
    Makes (.ringEnable m r v) s [.reg (Adr.HIF_RING_CTRL r), .resp, .ring, .reg (Adr.HIF_RING_STATUS r), .reg (Adr.HIF_RING_HOST_IDX r), .reg (Adr.HIF_RING_DEV_IDX r), .asn, .reg (Adr.HIF_RING_LAST_ACCEPTED_LO r), .reg (Adr.HIF_RING_LAST_ACCEPTED_LO r + 4), .reg (Adr.HIF_RING_LAST_COMPLETED_LO r), .reg (Adr.HIF_RING_LAST_COMPLETED_LO r + 4)] (fun e =>
      e.resp = .okay 0 ∧ e.ringState r = 1 ∧ e.get (HIF_RING_STATUS.ERR r) = 0 ∧ e.on (HIF_RING_STATUS.DRAINING r) = false
      ∧ e.reg (Adr.HIF_RING_HOST_IDX r) = 0 ∧ e.reg (Adr.HIF_RING_DEV_IDX r) = 0 ∧ OtherRings [r, 20] s.dev e ∧ e.get64 (Adr.HIF_RING_LAST_ACCEPTED_LO r) = 0 ∧ e.get64 (Adr.HIF_RING_LAST_COMPLETED_LO r) = 0 ∧ vat e.asnCopy r = (0, 0)
      ∧ OtherCopies r s.dev e
      ∧ e.ringAt r = { s.dev.ringAt r with fetched := [], susp := none, restarts := (s.dev.ringAt r).restarts + 1 }))
  ∧ (∀ (s : State) (m : Master) (r : RingIx) (v : Word), Served s.dev m → s.dev.hifReset = false →
      v.getLsbD 2 = false ∨ ¬(16 ≤ r.val ∧ r.val < 20) → v.getLsbD 0 = true → v.getLsbD 1 = false →
      (r.val < 8 ∨ (16 ≤ r.val ∧ r.val < 20)) → (s.dev.ringState r = 0 ∨ s.dev.ringState r = 3) →
      s.dev.on (HIF_RING_STATUS.DRAINING r) = false → ¬((s.dev.ringAt r).jrnl.all (fun x => x.done) = true) →
    Makes (.ringEnable m r v) s [.reg (Adr.HIF_RING_CTRL r), .resp, .reg (Adr.HIF_RING_STATUS r)] (fun e =>
      e.resp = .okay 0 ∧ e.on (HIF_RING_STATUS.DRAINING r) = true ∧ e.ringState r = s.dev.ringState r))
  ∧ (∀ (s : State) (m : Master) (r : RingIx) (v : Word), Served s.dev m → s.dev.hifReset = false →
      v.getLsbD 2 = false ∨ ¬(16 ≤ r.val ∧ r.val < 20) → v.getLsbD 0 = true → v.getLsbD 1 = false → (8 ≤ r.val ∧ r.val < 16) →
      (s.dev.ringState r = 0 ∨ s.dev.ringState r = 3) → s.dev.on (HIF_RING_STATUS.DRAINING r) = false →
    Makes (.ringEnable m r v) s [.reg (Adr.HIF_RING_CTRL r), .resp, .ring, .reg (Adr.HIF_RING_STATUS r), .reg (Adr.HIF_RING_HOST_IDX r), .reg (Adr.HIF_RING_DEV_IDX r)] (fun e =>
      e.resp = .okay 0 ∧ e.ringState r = 1 ∧ e.reg (Adr.HIF_RING_HOST_IDX r) = 0 ∧ e.reg (Adr.HIF_RING_DEV_IDX r) = 0
      ∧ (e.ringAt r).posted = [] ∧ (e.ringAt r).repost = [] ∧ (e.ringAt r).seq = 0
      ∧ Retired [r, 20] ((s.dev.ringAt r).posted.filterMap (fun x => x.own) ++ (s.dev.ringAt r).repost.filterMap (fun x => x.2)) s.dev e))
  ∧ (∀ (s : State) (m : Master) (r : RingIx) (v : Word), Served s.dev m → s.dev.hifReset = false →
      v.getLsbD 2 = false ∨ ¬(16 ≤ r.val ∧ r.val < 20) → v.getLsbD 0 = true → v.getLsbD 1 = false → 20 < r.val →
      (s.dev.ringState r = 0 ∨ s.dev.ringState r = 3) → s.dev.on (HIF_RING_STATUS.DRAINING r) = false →
    Makes (.ringEnable m r v) s [.reg (Adr.HIF_RING_CTRL r), .resp, .ring, .reg (Adr.HIF_RING_STATUS r), .reg (Adr.HIF_RING_HOST_IDX r), .reg (Adr.HIF_RING_DEV_IDX r)] (fun e =>
      e.resp = .okay 0 ∧ e.ringState r = 1 ∧ e.get (HIF_RING_STATUS.ERR r) = 0 ∧ e.on (HIF_RING_STATUS.DRAINING r) = false
      ∧ e.reg (Adr.HIF_RING_HOST_IDX r) = 0 ∧ e.reg (Adr.HIF_RING_DEV_IDX r) = 0 ∧ OtherRings [r, 20] s.dev e
      ∧ e.ringAt r = { s.dev.ringAt r with
          fetched := [], susp := none, posted := [], repost := [], seq := 0, gap := 0
          restarts := (s.dev.ringAt r).restarts + (if 25 ≤ r.val ∧ r.val < 33 then 1 else 0) }))
  ∧ (∀ (s : State) (m : Master) (r : RingIx) (v : Word), Served s.dev m → s.dev.hifReset = false →
      v.getLsbD 2 = false ∨ ¬(16 ≤ r.val ∧ r.val < 20) → v.getLsbD 0 = true → v.getLsbD 1 = true → s.dev.ringState r = 3 →
      s.dev.on (HIF_RING_STATUS.DRAINING r) = false →
      (r.val < 8 ∨ (16 ≤ r.val ∧ r.val < 20) ∨ (20 < r.val ∧ r.val < 25) ∨ 33 ≤ r.val) →
    Makes (.ringResume m r v) s [.reg (Adr.HIF_RING_CTRL r), .resp, .ring, .reg (Adr.HIF_RING_STATUS r), .reg (Adr.HIF_RING_HOST_IDX r), .reg (Adr.HIF_RING_DEV_IDX r)] (fun e =>
      e.resp = .okay 0 ∧ e.ringState r = 1 ∧ e.get (HIF_RING_STATUS.ERR r) = 0 ∧ e.on (HIF_RING_STATUS.DRAINING r) = false
      ∧ e.reg (Adr.HIF_RING_HOST_IDX r) = 0 ∧ e.reg (Adr.HIF_RING_DEV_IDX r) = 0 ∧ OtherRings [r, 20] s.dev e
      ∧ e.ringAt r = { s.dev.ringAt r with fetched := [], susp := none }))
  ∧ (∀ (s : State) (m : Master) (r : RingIx) (v : Word), Served s.dev m → s.dev.hifReset = false →
      v.getLsbD 2 = false ∨ ¬(16 ≤ r.val ∧ r.val < 20) → v.getLsbD 0 = true → v.getLsbD 1 = true → s.dev.ringState r = 3 →
      s.dev.on (HIF_RING_STATUS.DRAINING r) = false → 25 ≤ r.val → r.val < 33 →
    Makes (.ringResume m r v) s [.reg (Adr.HIF_RING_CTRL r), .resp, .ring, .reg (Adr.HIF_RING_STATUS r), .reg (Adr.HIF_RING_HOST_IDX r), .reg (Adr.HIF_RING_DEV_IDX r)] (fun e =>
      e.resp = .okay 0 ∧ e.ringState r = 1 ∧ e.get (HIF_RING_STATUS.ERR r) = 0 ∧ e.on (HIF_RING_STATUS.DRAINING r) = false
      ∧ e.reg (Adr.HIF_RING_HOST_IDX r) = 0 ∧ e.reg (Adr.HIF_RING_DEV_IDX r) = 0 ∧ OtherRings [r, 20] s.dev e
      ∧ e.ringAt r = { s.dev.ringAt r with fetched := [], susp := none, repost := [], restarts := (s.dev.ringAt r).restarts + 1 }))
  ∧ (∀ (s : State) (m : Master) (r : RingIx) (v : Word), Served s.dev m → s.dev.hifReset = false →
      v.getLsbD 2 = false ∨ ¬(16 ≤ r.val ∧ r.val < 20) → v.getLsbD 0 = true → v.getLsbD 1 = true → s.dev.ringState r = 3 →
      s.dev.on (HIF_RING_STATUS.DRAINING r) = false → (8 ≤ r.val ∧ r.val < 16) → (s.dev.ringAt r).posted = [] →
      (s.dev.ringAt r).repost = [] →
    Makes (.ringResume m r v) s [.reg (Adr.HIF_RING_CTRL r), .resp, .ring, .reg (Adr.HIF_RING_STATUS r), .reg (Adr.HIF_RING_HOST_IDX r), .reg (Adr.HIF_RING_DEV_IDX r)] (fun e =>
      e.resp = .okay 0 ∧ e.ringState r = 1 ∧ e.get (HIF_RING_STATUS.ERR r) = 0 ∧ e.on (HIF_RING_STATUS.DRAINING r) = false
      ∧ e.reg (Adr.HIF_RING_HOST_IDX r) = 0 ∧ e.reg (Adr.HIF_RING_DEV_IDX r) = 0 ∧ OtherRings [r, 20] s.dev e
      ∧ e.ringAt r = { s.dev.ringAt r with fetched := [], susp := none }))
  ∧ (∀ (s : State) (m : Master) (r : RingIx) (v : Word), Served s.dev m → s.dev.hifReset = false →
      v.getLsbD 2 = false ∨ ¬(16 ≤ r.val ∧ r.val < 20) → v.getLsbD 0 = true → v.getLsbD 1 = true → s.dev.ringState r = 3 →
      s.dev.on (HIF_RING_STATUS.DRAINING r) = false → (8 ≤ r.val ∧ r.val < 16) →
      s.dev.ringSize r < (s.dev.ringAt r).repost.length + (s.dev.ringAt r).posted.length →
    Makes (.ringResume m r v) s [.reg (Adr.HIF_RING_CTRL r), .resp, .reg (Adr.HIF_RING_STATUS r)] (fun e =>
      e.resp = .okay 0 ∧ e.ringState r = 3 ∧ e.get (HIF_RING_STATUS.ERR r) = 4))
  ∧ (∀ (s : State) (m : Master) (r : RingIx) (v : Word) (i k t p : Nat) (w l : List Byte) (q : JEntry), Served s.dev m →
      s.dev.hifReset = false → v.getLsbD 2 = false ∨ ¬(16 ≤ r.val ∧ r.val < 20) → v.getLsbD 0 = true → v.getLsbD 1 = true →
      s.dev.ringState r = 3 → s.dev.on (HIF_RING_STATUS.DRAINING r) = false → (8 ≤ r.val ∧ r.val < 16) →
      s.dev.on HIF_STATUS.LINK_UP = true → (s.dev.ringAt r).repost = [] → (s.dev.ringAt r).posted = [⟨i, w, some (k, t)⟩] → k < 20 →
      k ≠ r.val → (s.dev.ringAt k).jrnl.find? (fun x => x.unit == t) = some q → q.irq = false → Quiet s.dev →
      inPantry (s.dev.jrnlAddr false k (q.unit + q.n)) 64 = true →
      (∀ x ∈ unitsOf (s.dev.jrnlAddr false k (q.unit + q.n)) 64, unitState s.dev.ecc x = .clean) →
      RingMaps s.dev r (s.dev.get64 (Adr.HIF_RING_BASE_LO r) / (32 * s.dev.ringSize r) * (32 * s.dev.ringSize r) + 32 * (0 % s.dev.ringSize r)) true p →
      l = s.dev.bytesAt (s.dev.jrnlAddr false k (q.unit + q.n) + 16) 27 ++ [s.dev.byteAt (s.dev.jrnlAddr false k (q.unit + q.n) + 43) ||| 1]
        ++ s.dev.bytesAt (s.dev.jrnlAddr false k (q.unit + q.n) + 44) 3 ++ [BitVec.ofNat 8 ((s.dev.byteAt (s.dev.jrnlAddr false k (q.unit + q.n) + 47)).toNat % 128 + 128)] →
    Makes (.ringResume m r v) s [.reg (Adr.HIF_RING_CTRL r), .resp, .ring, .reg (Adr.HIF_RING_STATUS r), .reg (Adr.HIF_RING_HOST_IDX r), .reg (Adr.HIF_RING_DEV_IDX r)] (fun e =>
      e.resp = .okay 0 ∧ e.ringState r = 1 ∧ e.reg (Adr.HIF_RING_HOST_IDX r) = 0 ∧ e.reg (Adr.HIF_RING_DEV_IDX r) = 1
      ∧ HostPut s.dev e p l ∧ e.ringAt r = { s.dev.ringAt r with fetched := [], susp := none, posted := [⟨0, l, some (k, t)⟩] }
      ∧ e.ringAt k = { s.dev.ringAt k with jrnl := (s.dev.ringAt k).jrnl.map (fun x => if x.unit == t then { x with posted := some (r.val, 0) } else x) }
      ∧ OtherRings [r, k, 20] s.dev e))
  ∧ (∀ (s : State) (m : Master) (r : RingIx) (v : Word), Served s.dev m → s.dev.hifReset = false →
      v.getLsbD 2 = false ∨ ¬(16 ≤ r.val ∧ r.val < 20) → v.getLsbD 0 = false → s.dev.ringState r ≠ 0 → r.val ≠ 20 →
    Makes (.ringStop m r v) s [.reg (Adr.HIF_RING_CTRL r), .resp, .ring, .reg (Adr.HIF_RING_STATUS r)] (fun e =>
      e.resp = .okay 0 ∧ e.ringState r = 3 ∧ e.on (HIF_RING_STATUS.DRAINING r) = false
      ∧ e.ringAt r = { s.dev.ringAt r with fetched := [], susp := none } ∧ OtherRings [r, 20] s.dev e))
  ∧ (∀ (s : State) (m : Master) (r : RingIx) (v : Word), Served s.dev m → s.dev.hifReset = false →
      v.getLsbD 2 = false ∨ ¬(16 ≤ r.val ∧ r.val < 20) → v.getLsbD 0 = false → s.dev.ringState r = 0 →
    Makes (.ringStop m r v) s [.reg (Adr.HIF_RING_CTRL r), .resp] (fun e =>
      e.resp = .okay 0))
  ∧ (∀ (s : State) (r : RingIx), s.dev.chipRuns = true → (r.val < 8 ∨ (16 ≤ r.val ∧ r.val < 20)) →
      s.dev.on (HIF_RING_STATUS.DRAINING r) = true → (s.dev.ringAt r).jrnl.all (fun x => x.done) = true →
    Makes (.ringDrainEnd r) s [.ring, .reg (Adr.HIF_RING_STATUS r), .reg (Adr.HIF_RING_HOST_IDX r), .reg (Adr.HIF_RING_DEV_IDX r), .asn, .reg (Adr.HIF_RING_LAST_ACCEPTED_LO r), .reg (Adr.HIF_RING_LAST_ACCEPTED_LO r + 4), .reg (Adr.HIF_RING_LAST_COMPLETED_LO r), .reg (Adr.HIF_RING_LAST_COMPLETED_LO r + 4), .reg (Adr.HIF_RING_DISCARD_CNT r)] (fun e =>
      e.ringState r = 1 ∧ e.get (HIF_RING_STATUS.ERR r) = 0 ∧ e.on (HIF_RING_STATUS.DRAINING r) = false
      ∧ e.reg (Adr.HIF_RING_HOST_IDX r) = 0 ∧ e.reg (Adr.HIF_RING_DEV_IDX r) = 0 ∧ OtherRings [r, 20] s.dev e
      ∧ e.get64 (Adr.HIF_RING_LAST_ACCEPTED_LO r) = 0 ∧ e.get64 (Adr.HIF_RING_LAST_COMPLETED_LO r) = 0 ∧ vat e.asnCopy r = (0, 0)
      ∧ OtherCopies r s.dev e ∧ (e.reg (Adr.HIF_RING_DISCARD_CNT r)).toNat = min ((s.dev.reg (Adr.HIF_RING_DISCARD_CNT r)).toNat + ((s.dev.ringAt r).jrnl.filter (fun x => x.posted.isNone)).length) 0xFFFFFFFF
      ∧ e.ringAt r = { s.dev.ringAt r with fetched := [], susp := none, restarts := (s.dev.ringAt r).restarts + 1, jrnl := (s.dev.ringAt r).jrnl.filter (fun x => x.posted.isSome) }))
  ∧ (∀ (s : State) (r : RingIx), s.dev.chipRuns = true →
      s.dev.on (HIF_RING_STATUS.DRAINING r) = false ∨ ¬((s.dev.ringAt r).jrnl.all (fun x => x.done) = true) →
    Makes (.ringDrainEnd r) s [] (fun e =>
      True))
  ∧ (∀ (s : State) (m : Master) (v : Word), Served s.dev m → s.dev.hifReset = false → v.getLsbD 0 = true → v.getLsbD 1 = false →
      (s.dev.ringState 20 = 0 ∨ s.dev.ringState 20 = 3) → s.dev.on (HIF_RING_STATUS.DRAINING 20) = false → s.dev.evc.queue = [] →
      s.dev.evc.wraps = 0 → (s.dev.ringAt 20).posted.all (fun p => p.own == none) = true →
      (s.dev.ringAt 20).repost.all (fun p => p.2 == none) = true →
    Makes (.ringEnable m 20 v) s [.reg (Adr.HIF_RING_CTRL 20), .resp, .reg (Adr.HIF_RING_STATUS 20), .reg (Adr.HIF_RING_HOST_IDX 20), .reg (Adr.HIF_RING_DEV_IDX 20)] (fun e =>
      e.resp = .okay 0 ∧ e.ringState 20 = 1 ∧ e.get (HIF_RING_STATUS.ERR 20) = 0 ∧ e.reg (Adr.HIF_RING_HOST_IDX 20) = 0 ∧ e.reg (Adr.HIF_RING_DEV_IDX 20) = 0
      ∧ e.ringAt 20 = { s.dev.ringAt 20 with fetched := [], susp := none, posted := [], repost := [], seq := 0, gap := 0 }))
  ∧ (∀ (s : State) (m : Master) (v : Word), Served s.dev m → s.dev.hifReset = false → v.getLsbD 0 = true → v.getLsbD 1 = true →
      s.dev.ringState 20 = 3 → s.dev.on (HIF_RING_STATUS.DRAINING 20) = false → s.dev.evc.queue = [] → s.dev.evc.wraps = 0 →
      (s.dev.ringAt 20).posted = [] → (s.dev.ringAt 20).repost = [] →
    Makes (.ringResume m 20 v) s [.reg (Adr.HIF_RING_CTRL 20), .resp, .reg (Adr.HIF_RING_STATUS 20), .reg (Adr.HIF_RING_HOST_IDX 20), .reg (Adr.HIF_RING_DEV_IDX 20)] (fun e =>
      e.resp = .okay 0 ∧ e.ringState 20 = 1 ∧ e.get (HIF_RING_STATUS.ERR 20) = 0 ∧ e.reg (Adr.HIF_RING_HOST_IDX 20) = 0 ∧ e.reg (Adr.HIF_RING_DEV_IDX 20) = 0
      ∧ e.ringAt 20 = { s.dev.ringAt 20 with fetched := [], susp := none }))
  ∧ (∀ (s : State) (m : Master) (v : Word), Served s.dev m → s.dev.hifReset = false → v.getLsbD 0 = false → s.dev.ringState 20 ≠ 0 →
      s.dev.evc.queue = [] → s.dev.evc.wraps = 0 →
    Makes (.ringStop m 20 v) s [.reg (Adr.HIF_RING_CTRL 20), .resp, .reg (Adr.HIF_RING_STATUS 20)] (fun e =>
      e.resp = .okay 0 ∧ e.ringState 20 = 3 ∧ e.ringAt 20 = { s.dev.ringAt 20 with fetched := [], susp := none }))
  ∧ (∀ s : State, s.dev.chipRuns = true → (s.dev.ringAt 20).modRun = true → s.dev.evc.queue = [] → s.dev.evc.wraps = 0 →
      (s.dev.ringAt 20).irqDue = false →
    Makes (.msixModExpiry 20) s [] (fun e =>
      e.ringAt 20 = { s.dev.ringAt 20 with modRun := false }))
  ∧ (∀ s : State, s.dev.chipRuns = true → (s.dev.ringAt 20).modRun = true → (s.dev.ringAt 20).irqDue = true → s.dev.evc.queue = [] →
      s.dev.evc.wraps = 0 → s.dev.on (EVC_SRC_CFG.EN 251) = false →
      bitOf (s.dev.reg (Adr.HIF_MSIX_CTRL (s.dev.get (HIF_RING_CFG.VEC 20)))).toNat 0 = false → s.dev.on HIF_STATUS.LINK_UP = true →
    Makes (.msixModExpiry 20) s [] (fun e =>
      e.ringAt 20 = { s.dev.ringAt 20 with irqDue := false } ∧ (e.msix = s.dev.msix ++ [((s.dev.reg (Adr.HIF_MSIX_ADDR_LO (s.dev.get (HIF_RING_CFG.VEC 20)))).toNat + 2 ^ 32 * (s.dev.reg (Adr.HIF_MSIX_ADDR_HI (s.dev.get (HIF_RING_CFG.VEC 20)))).toNat, s.dev.reg (Adr.HIF_MSIX_DATA (s.dev.get (HIF_RING_CFG.VEC 20))))])))

/-- XLT_RESUME, XLT_RESUME_ABORT, XLT_INV, XLT_INV_ALL, XLT_INV_DONE and XLT_CTX_VALID (R272, R293, R295, R296, R299 to R303, R310):
a suspended access goes on, suspends again or ends; invalidations start and end; a context becomes valid when its setup passes. -/
def Obligations.HostTranslations : Prop :=
  (∀ (s : State) (u : HostUpd) (r : RingIx) (f : BitVec 16) (x : Susp) (p : Nat), s.dev.chipRuns = true →
      s.dev.on HIF_STATUS.LINK_UP = true → s.dev.hifReset = false → s.dev.ringState r = 2 → (s.dev.ringAt r).susp = some x →
      f.toNat = s.dev.get (XLT_CTX_FSEQ.FSEQ x.ctx) → x.ctx < 16 → r.val ≠ 20 → Maps s.dev x.ctx x.iova x.write p →
      (s.dev.ringAt r).repost = [] →
    Makes (.xltResume u r f) s [.ring, .reg (Adr.HIF_RING_STATUS r), .bad] (fun e =>
      e.ringState r = (if s.dev.on (HIF_RING_STATUS.DRAINING r) then 3 else 1) ∧ e.ringAt r = { s.dev.ringAt r with susp := none } ∧ OtherRings [r, 20] s.dev e ∧ e.hostBad = (s.dev.hostUpdate u).hostBad))
  ∧ (∀ (s : State) (u : HostUpd) (f : BitVec 16) (x : Susp) (p : Nat), s.dev.chipRuns = true → s.dev.on HIF_STATUS.LINK_UP = true →
      s.dev.hifReset = false → s.dev.ringState 20 = 2 → (s.dev.ringAt 20).susp = some x →
      f.toNat = s.dev.get (XLT_CTX_FSEQ.FSEQ x.ctx) → x.ctx < 16 → Maps s.dev x.ctx x.iova x.write p → (s.dev.ringAt 20).repost = [] →
      s.dev.on (HIF_RING_STATUS.DRAINING 20) = false → s.dev.evc.queue = [] → s.dev.evc.wraps = 0 →
      s.dev.on (EVC_SRC_CFG.EN 251) = false →
    Makes (.xltResume u 20 f) s [.reg (Adr.HIF_RING_STATUS 20), .bad] (fun e =>
      e.ringState 20 = 1 ∧ e.ringAt 20 = { s.dev.ringAt 20 with susp := none } ∧ e.hostBad = (s.dev.hostUpdate u).hostBad))
  ∧ (∀ (s : State) (u : HostUpd) (r : RingIx) (f : BitVec 16) (x : Susp), s.dev.chipRuns = true → s.dev.on HIF_STATUS.LINK_UP = true →
      s.dev.hifReset = false → s.dev.ringState r = 2 → (s.dev.ringAt r).susp = some x →
      f.toNat = s.dev.get (XLT_CTX_FSEQ.FSEQ x.ctx) → x.ctx < 16 → r.val ≠ 20 → s.dev.on (XLT_CTX_CFG.VALID x.ctx) = false →
      Quiet s.dev →
    Makes (.xltResume u r f) s [.ring, .reg (Adr.HIF_RING_STATUS r), .bad] (fun e =>
      e.ringState r = 2 ∧ e.ringAt r = s.dev.ringAt r ∧ OtherRings [r, 20] s.dev e ∧ e.hostBad = (s.dev.hostUpdate u).hostBad
      ∧ e.get (XLT_CTX_FSEQ.FSEQ x.ctx) = (s.dev.get (XLT_CTX_FSEQ.FSEQ x.ctx) + 1) % 65536 ∧ (e.reg (Adr.XLT_FAULT_CNT)).toNat = min ((s.dev.reg (Adr.XLT_FAULT_CNT)).toNat + 1) 0xFFFFFFFF))
  ∧ (∀ (s : State) (u : HostUpd) (r : RingIx) (f : BitVec 16), s.dev.chipRuns = true →
      s.dev.ringState r ≠ 2 ∨ (∃ x, (s.dev.ringAt r).susp = some x ∧ f.toNat ≠ s.dev.get (XLT_CTX_FSEQ.FSEQ x.ctx)) →
    Makes (.xltResume u r f) s [.bad] (fun e =>
      e.hostBad = (s.dev.hostUpdate u).hostBad))
  ∧ (∀ (s : State) (u : HostUpd) (r : RingIx) (f : BitVec 16), s.dev.chipRuns = true →
      s.dev.ringState r ≠ 2 ∨ (∃ x, (s.dev.ringAt r).susp = some x ∧ f.toNat ≠ s.dev.get (XLT_CTX_FSEQ.FSEQ x.ctx)) →
    Makes (.xltResumeAbort u r f) s [.bad] (fun e =>
      e.hostBad = (s.dev.hostUpdate u).hostBad))
  ∧ (∀ (s : State) (u : HostUpd) (r : RingIx) (f : BitVec 16) (x : Susp), s.dev.chipRuns = true → s.dev.on HIF_STATUS.LINK_UP = true →
      s.dev.hifReset = false → s.dev.ringState r = 2 → (s.dev.ringAt r).susp = some x →
      f.toNat = s.dev.get (XLT_CTX_FSEQ.FSEQ x.ctx) → x.ctx < 16 → r.val ≠ 20 → x.kind = .fetch →
    Makes (.xltResumeAbort u r f) s [.ring, .reg (Adr.HIF_RING_STATUS r), .bad] (fun e =>
      e.ringState r = 4 ∧ e.get (HIF_RING_STATUS.ERR r) = 2 ∧ e.ringAt r = { s.dev.ringAt r with susp := none, fetched := [] }
      ∧ OtherRings [r, 20] s.dev e ∧ e.hostBad = (s.dev.hostUpdate u).hostBad))
  ∧ (∀ (s : State) (u : HostUpd) (r : RingIx) (f : BitVec 16) (x : Susp), s.dev.chipRuns = true → s.dev.on HIF_STATUS.LINK_UP = true →
      s.dev.hifReset = false → s.dev.ringState r = 2 → (s.dev.ringAt r).susp = some x →
      f.toNat = s.dev.get (XLT_CTX_FSEQ.FSEQ x.ctx) → x.ctx < 16 → r.val ≠ 20 → x.kind = .record →
    Makes (.xltResumeAbort u r f) s [.ring, .reg (Adr.HIF_RING_STATUS r), .bad] (fun e =>
      e.ringState r = 4 ∧ e.get (HIF_RING_STATUS.ERR r) = 3 ∧ e.ringAt r = { s.dev.ringAt r with susp := none, fetched := [] }
      ∧ OtherRings [r, 20] s.dev e ∧ e.hostBad = (s.dev.hostUpdate u).hostBad))
  ∧ (∀ (s : State) (u : HostUpd) (f : BitVec 16) (x : Susp), s.dev.chipRuns = true → s.dev.on HIF_STATUS.LINK_UP = true →
      s.dev.hifReset = false → s.dev.ringState 20 = 2 → (s.dev.ringAt 20).susp = some x →
      f.toNat = s.dev.get (XLT_CTX_FSEQ.FSEQ x.ctx) → x.ctx < 16 → x.kind = .record →
    Makes (.xltResumeAbort u 20 f) s [.reg (Adr.HIF_RING_STATUS 20), .bad] (fun e =>
      e.ringState 20 = 4 ∧ e.get (HIF_RING_STATUS.ERR 20) = 3 ∧ e.ringAt 20 = { s.dev.ringAt 20 with susp := none, fetched := [] } ∧ e.hostBad = (s.dev.hostUpdate u).hostBad))
  ∧ (∀ (s : State) (u : HostUpd) (r : RingIx) (f : BitVec 16) (x : Susp) (q : JEntry), s.dev.chipRuns = true →
      s.dev.on HIF_STATUS.LINK_UP = true → s.dev.hifReset = false → s.dev.ringState r = 2 → (s.dev.ringAt r).susp = some x →
      f.toNat = s.dev.get (XLT_CTX_FSEQ.FSEQ x.ctx) → x.ctx < 16 → (r.val < 8 ∨ (16 ≤ r.val ∧ r.val < 20)) → x.kind = .data →
      (s.dev.ringAt r).jrnl.find? (fun x => !x.done) = some q →
      (inPantry (s.dev.jrnlAddr false r (q.unit + q.n)) 64 = true ∧ inPantry (s.dev.jrnlAddr true r (q.unit + q.n)) 64 = true) →
    Makes (.xltResumeAbort u r f) s [.ring, .mem, .ecc, .regs .ecc, .asn, .reg (Adr.HIF_RING_LAST_COMPLETED_LO r), .reg (Adr.HIF_RING_LAST_COMPLETED_LO r + 4), .reg (Adr.HIF_RING_STATUS r), .bad] (fun e =>
      e.ringState r = (if s.dev.on (HIF_RING_STATUS.DRAINING r) then 3 else 1) ∧ Completed s.dev e r q 0x108 (64 * q.prog)
      ∧ e.ringAt r = { s.dev.ringAt r with jrnl := (e.ringAt r).jrnl, susp := none } ∧ OtherRings [r, 20] s.dev e ∧ MemOnly (s.dev.stateOf r q) s.dev e ∧ e.hostBad = (s.dev.hostUpdate u).hostBad))
  ∧ (∀ (s : State) (u : HostUpd) (r : RingIx) (f : BitVec 16) (x : Susp) (c : Nat) (b : Nat × List Byte × Nat), s.dev.chipRuns = true →
      s.dev.on HIF_STATUS.LINK_UP = true → s.dev.hifReset = false → s.dev.ringState r = 2 → (s.dev.ringAt r).susp = some x →
      f.toNat = s.dev.get (XLT_CTX_FSEQ.FSEQ x.ctx) → x.ctx < 16 → x.kind = .data → r.val = 21 + c → c < 4 →
      s.dev.mix.capOut.find? (fun y => y.1 == c) = some b →
    Makes (.xltResumeAbort u r f) s [.ring, .reg (Adr.HIF_RING_STATUS r), .bad, .mix, .reg (Adr.HIF_RING_DISCARD_CNT r)] (fun e =>
      e.ringState r = (if s.dev.on (HIF_RING_STATUS.DRAINING r) then 3 else 1) ∧ (e.reg (Adr.HIF_RING_DISCARD_CNT r)).toNat = min ((s.dev.reg (Adr.HIF_RING_DISCARD_CNT r)).toNat + 1) 0xFFFFFFFF
      ∧ e.ringAt r = { s.dev.ringAt r with susp := none, gap := (s.dev.ringAt r).gap + 1 } ∧ e.mix = { s.dev.mix with capOut := s.dev.mix.capOut.erase b } ∧ OtherRings [r, 20] s.dev e ∧ e.hostBad = (s.dev.hostUpdate u).hostBad))
  ∧ (∀ (s : State) (u : HostUpd) (r : RingIx) (f : BitVec 16) (x : Susp) (p : PortIx) (g : RxFrame), s.dev.chipRuns = true →
      s.dev.on HIF_STATUS.LINK_UP = true → s.dev.hifReset = false → s.dev.ringState r = 2 → (s.dev.ringAt r).susp = some x →
      f.toNat = s.dev.get (XLT_CTX_FSEQ.FSEQ x.ctx) → x.ctx < 16 → x.kind = .data → 33 ≤ r.val →
      p.val = s.dev.get (HIF_RING_CFG.PORT r) → (s.dev.macAt p).rx.find? (fun y => y.q == s.dev.get (HIF_RING_CFG.QUEUE r)) = some g →
      s.dev.fcTx p = false →
    Makes (.xltResumeAbort u r f) s [.ring, .reg (Adr.HIF_RING_STATUS r), .bad, .mac, .reg (Adr.HIF_RING_DISCARD_CNT r)] (fun e =>
      e.ringState r = (if s.dev.on (HIF_RING_STATUS.DRAINING r) then 3 else 1) ∧ (e.reg (Adr.HIF_RING_DISCARD_CNT r)).toNat = min ((s.dev.reg (Adr.HIF_RING_DISCARD_CNT r)).toNat + 1) 0xFFFFFFFF
      ∧ e.ringAt r = { s.dev.ringAt r with susp := none } ∧ e.macAt p = { s.dev.macAt p with rx := (s.dev.macAt p).rx.erase g } ∧ (∀ j : PortIx, j ≠ p → e.macAt j = s.dev.macAt j) ∧ OtherRings [r, 20] s.dev e ∧ e.hostBad = (s.dev.hostUpdate u).hostBad))
  ∧ (∀ (s : State) (u : HostUpd) (r : RingIx) (f : BitVec 16) (x : Susp) (p : Nat), s.dev.chipRuns = true →
      s.dev.on HIF_STATUS.LINK_UP = true → s.dev.hifReset = false → s.dev.ringState r = 2 → (s.dev.ringAt r).susp = some x →
      f.toNat = s.dev.get (XLT_CTX_FSEQ.FSEQ x.ctx) → x.ctx < 16 → x.kind = .data → 25 ≤ r.val → r.val < 33 →
      (s.dev.ringAt r).repost = [] → s.dev.on (HIF_RING_STATUS.DRAINING r) = false →
      RingMaps s.dev r ((s.dev.get64 (Adr.HIF_RING_BASE_LO r) / (64 * s.dev.ringSize r) * (64 * s.dev.ringSize r) + 64 * ((s.dev.reg (Adr.HIF_RING_DEV_IDX r)).toNat % s.dev.ringSize r)) + 32) true p →
      Quiet s.dev →
    Makes (.xltResumeAbort u r f) s [.ring, .reg (Adr.HIF_RING_STATUS r), .bad, .reg (Adr.HIF_RING_DEV_IDX r)] (fun e =>
      e.ringState r = (if s.dev.on (HIF_RING_STATUS.DRAINING r) then 3 else 1) ∧ e.ringAt r = { s.dev.ringAt r with susp := none } ∧ e.reg (Adr.HIF_RING_DEV_IDX r) = s.dev.reg (Adr.HIF_RING_DEV_IDX r) + 1
      ∧ HostPut (s.dev.hostUpdate u) e p (bytesOf 2 4 ++ [0x80] ++ List.replicate 29 0) ∧ OtherRings [r, 20] s.dev e ∧ e.hostBad = (s.dev.hostUpdate u).hostBad))
  ∧ (∀ (s : State) (m : Master) (v : Word), Served s.dev m → v.getLsbD 5 = true → v.getLsbD 4 = false → Quiet s.dev →
    Makes (.xltInv m v) s [.reg Adr.XLT_INV, .reg Adr.XLT_STATUS, .resp] (fun e =>
      e.resp = .okay 0 ∧ e.on XLT_STATUS.INV_BUSY = true
      ∧ e.xlt = { s.dev.xlt with inv := s.dev.xlt.inv ++ [⟨some (v.toNat % 16), (s.dev.reg Adr.XLT_INV_ADDR_LO).toNat / 4096, s.dev.get XLT_INV_PAGES.PAGES, none⟩] }))
  ∧ (∀ (s : State) (m : Master) (v : Word), Served s.dev m → v.getLsbD 5 = true → v.getLsbD 4 = true → Quiet s.dev →
    Makes (.xltInvAll m v) s [.reg Adr.XLT_INV, .reg Adr.XLT_STATUS, .resp] (fun e =>
      e.resp = .okay 0 ∧ e.on XLT_STATUS.INV_BUSY = true ∧ e.xlt = { s.dev.xlt with inv := s.dev.xlt.inv ++ [⟨none, 0, 0, none⟩] }))
  ∧ (∀ (s : State) (m : Master) (v : Word) (i : Instr), Served s.dev m → v.getLsbD 5 = false → Quiet s.dev →
      (i = .xltInv m v ∨ i = .xltInvAll m v) →
    Makes (i) s [.reg Adr.XLT_INV, .resp] (fun e =>
      e.resp = .okay 0 ∧ e.xlt = s.dev.xlt))
  ∧ (∀ (s : State) (x : XltInv) (t : List XltInv), s.dev.chipRuns = true → s.dev.xlt.inv = x :: t → Quiet s.dev → x.ring = none →
    Makes (.xltInvDone) s [.reg Adr.XLT_STATUS] (fun e =>
      e.xlt = ⟨(s.dev.xlt.cache.filter (fun y => !(match x.ctx with | none => true | some c => y.ctx == c && (x.pages == 0 || (decide (x.page ≤ y.page) && decide (y.page < x.page + x.pages)))))), t⟩ ∧ e.on XLT_STATUS.INV_BUSY = !t.isEmpty))
  ∧ (∀ (s : State) (x : XltInv) (t : List XltInv) (r : RingIx) (q : JEntry), s.dev.chipRuns = true → s.dev.xlt.inv = x :: t → Quiet s.dev →
      x.ring = some r.val → r.val < 8 → (s.dev.ringAt r).jrnl.find? (fun y => !y.done) = some q →
      (inPantry (s.dev.jrnlAddr false r (q.unit + q.n)) 64 = true ∧ inPantry (s.dev.jrnlAddr true r (q.unit + q.n)) 64 = true) →
    Makes (.xltInvDone) s [.ring, .mem, .ecc, .regs .ecc, .asn, .reg (Adr.HIF_RING_LAST_COMPLETED_LO r), .reg (Adr.HIF_RING_LAST_COMPLETED_LO r + 4), .reg Adr.XLT_STATUS] (fun e =>
      e.xlt = ⟨(s.dev.xlt.cache.filter (fun y => !(match x.ctx with | none => true | some c => y.ctx == c && (x.pages == 0 || (decide (x.page ≤ y.page) && decide (y.page < x.page + x.pages)))))), t⟩ ∧ e.on XLT_STATUS.INV_BUSY = !t.isEmpty ∧ Completed s.dev e r q 0 0 ∧ OnlyJournal s.dev e r ∧ MemOnly (s.dev.stateOf r q) s.dev e))
  ∧ (∀ s : State, s.dev.chipRuns = true → s.dev.xlt.inv = [] →
    Makes (.xltInvDone) s [] (fun e =>
      True))
  ∧ (∀ (s : State) (m : Master) (c : Fin 16) (v : Word), Served s.dev m → s.dev.on (XLT_CTX_CFG.VALID c) = false → v.getLsbD 0 = true →
      v.toNat < 4 → s.dev.get64 (Adr.XLT_CTX_ROOT_LO c) % 2 ^ 14 = 0 → s.dev.get64 (Adr.XLT_CTX_ROOT_LO c) < 2 ^ 48 →
      ¬(∃ x ∈ s.dev.xlt.inv, x.ctx = none ∨ x.ctx = some c.val) →
    Makes (.xltCtxValid m c v) s [.reg (Adr.XLT_CTX_CFG c), .resp] (fun e =>
      e.resp = .okay 0 ∧ e.on (XLT_CTX_CFG.VALID c) = true ∧ e.on (XLT_CTX_CFG.MODE c) = v.getLsbD 1))
  ∧ (∀ (s : State) (m : Master) (c : Fin 16) (v : Word), Served s.dev m → s.dev.on (XLT_CTX_CFG.VALID c) = false → v.getLsbD 0 = true →
      4 ≤ v.toNat ∨ s.dev.get64 (Adr.XLT_CTX_ROOT_LO c) % 2 ^ 14 ≠ 0 ∨ 2 ^ 48 ≤ s.dev.get64 (Adr.XLT_CTX_ROOT_LO c) ∨ (∃ x ∈ s.dev.xlt.inv, x.ctx = none ∨ x.ctx = some c.val) →
    Makes (.xltCtxValid m c v) s [.reg (Adr.XLT_CTX_CFG c), .reg Adr.XLT_VERR, .reg Adr.XLT_STATUS, .resp] (fun e =>
      e.resp = .okay 0 ∧ e.on (XLT_CTX_CFG.VALID c) = false ∧ e.on (XLT_CTX_CFG.MODE c) = v.getLsbD 1 ∧ e.get XLT_VERR.CTX = c.val ∧ e.get XLT_VERR.CODE = (if 4 ≤ v.toNat ∨ s.dev.get64 (Adr.XLT_CTX_ROOT_LO c) % 2 ^ 14 ≠ 0 then 1 else if 2 ^ 48 ≤ s.dev.get64 (Adr.XLT_CTX_ROOT_LO c) then 2 else 3) ∧ e.on XLT_STATUS.CFG_ERR = true))
  ∧ (∀ (s : State) (m : Master) (c : Fin 16) (v : Word), Served s.dev m → s.dev.on (XLT_CTX_CFG.VALID c) = false → v.getLsbD 0 = false →
    Makes (.xltCtxValid m c v) s [.reg (Adr.XLT_CTX_CFG c), .resp] (fun e =>
      e.resp = .okay 0 ∧ e.on (XLT_CTX_CFG.VALID c) = false ∧ e.on (XLT_CTX_CFG.MODE c) = v.getLsbD 1))
  ∧ (∀ (s : State) (m : Master) (c : Fin 16) (v : Word), Served s.dev m → s.dev.on (XLT_CTX_CFG.VALID c) = true →
    Makes (.xltCtxValid m c v) s [.reg (Adr.XLT_CTX_CFG c), .resp] (fun e =>
      e.resp = .okay 0 ∧ e.reg (Adr.XLT_CTX_CFG c) = (s.dev.set (XLT_CTX_CFG.VALID c) v.toNat).reg (Adr.XLT_CTX_CFG c)))

/-- BAR0_ACCESS, BAR4_ACCESS, PCIE_LINK_UP, PCIE_LINK_DOWN, PCIE_FLR, PCIE_HOT_RESET and PCIE_PERST (R261, R263, R264, R272, R496,
R513, R567, R593): the host reaches registers in 4 B words and the pantry where enabled; the link comes up and goes down; resets
stop every ring in place. -/
def Obligations.PcieAccesses : Prop :=
  (∀ (s : State) (o : Nat) (f : Found), s.dev.chipRuns = true → s.dev.on HIF_STATUS.LINK_UP = true → s.dev.hifReset = false →
      s.dev.isolated 33 = false → regAt o = some f → o % 4 = 0 → f.spec.half = .word → f.special = false → (∀ i, ¬ evBit o i) →
      ¬(0x48000 ≤ o ∧ o < 0x49000) →
    Makes (.bar0Access o none 4) s [.reg o, .resp] (fun e =>
      e.resp = .bytes (bytesOf 4 ((s.dev.reg o).toNat &&& readMask f.spec.fields))
      ∧ ∀ x ∈ f.spec.fields, bitsOf (e.reg o).toNat x.lo x.w = if x.acc = .rc then 0 else bitsOf (s.dev.reg o).toNat x.lo x.w))
  ∧ (∀ (s : State) (o : Nat) (l : List Byte) (n : Nat) (f : Found), s.dev.chipRuns = true → s.dev.on HIF_STATUS.LINK_UP = true →
      s.dev.hifReset = false → s.dev.isolated 33 = false → regAt o = some f → o % 4 = 0 → f.spec.half = .word → f.special = false →
      (∀ i, ¬ evBit o i) → ¬(0x48000 ≤ o ∧ o < 0x49000) → l.length = 4 → Writes s.dev hostMaster f →
    Makes (.bar0Access o (some l) n) s [.reg o] (fun e =>
      Holds s.dev e f o (BitVec.ofNat 32 (ofBytes l))))
  ∧ (∀ (s : State) (o n : Nat), s.dev.chipRuns = true → s.dev.on HIF_STATUS.LINK_UP = true → s.dev.hifReset = false →
      (placeOf o).isSome = true → n ≠ 4 ∨ o % 4 ≠ 0 →
    Makes (.bar0Access o none n) s [.resp] (fun e =>
      e.resp = .abort))
  ∧ (∀ (s : State) (o n : Nat) (l : List Byte), s.dev.chipRuns = true → s.dev.on HIF_STATUS.LINK_UP = true → s.dev.hifReset = false →
      (placeOf o).isSome = true → l.length ≠ 4 ∨ o % 4 ≠ 0 →
    Makes (.bar0Access o (some l) n) s [] (fun e =>
      True))
  ∧ (∀ (s : State) (o n : Nat), s.dev.chipRuns = true → s.dev.on HIF_STATUS.LINK_UP = true → s.dev.hifReset = false → placeOf o = none →
    Makes (.bar0Access o none n) s [.resp, .reg Adr.FAB_STATUS, .reg Adr.FAB_DECODE_CNT, .reg Adr.FAB_ERR_ADDR_LO, .reg (Adr.FAB_ERR_ADDR_LO + 4), .reg Adr.FAB_ERR_INFO] (fun e =>
      e.resp = .unsupported ∧ e.on FAB_STATUS.DECODE = true ∧ (e.reg (Adr.FAB_DECODE_CNT)).toNat = min ((s.dev.reg (Adr.FAB_DECODE_CNT)).toNat + 1) 0xFFFFFFFF))
  ∧ (∀ (s : State) (o n : Nat) (l : List Byte), s.dev.chipRuns = true → s.dev.on HIF_STATUS.LINK_UP = true → s.dev.hifReset = false →
      placeOf o = none →
    Makes (.bar0Access o (some l) n) s [.reg Adr.FAB_STATUS, .reg Adr.FAB_DECODE_CNT, .reg Adr.FAB_ERR_ADDR_LO, .reg (Adr.FAB_ERR_ADDR_LO + 4), .reg Adr.FAB_ERR_INFO] (fun e =>
      e.on FAB_STATUS.DECODE = true ∧ (e.reg (Adr.FAB_DECODE_CNT)).toNat = min ((s.dev.reg (Adr.FAB_DECODE_CNT)).toNat + 1) 0xFFFFFFFF))
  ∧ (∀ (s : State) (o n : Nat) (l : Option (List Byte)) (i : Instr), s.dev.chipRuns = true →
      s.dev.on HIF_STATUS.LINK_UP = false ∨ s.dev.hifReset = true → (i = .bar0Access o l n ∨ i = .bar4Access o l n) →
    Makes (i) s [] (fun e =>
      True))
  ∧ (∀ (s : State) (o n : Nat), s.dev.chipRuns = true → s.dev.on HIF_STATUS.LINK_UP = true → s.dev.hifReset = false →
      s.dev.on HIF_CTRL.BAR4_EN = true → o + n ≤ 0x4000000 → (∀ t, t < 8 → s.dev.isolated t = false) →
      (∀ w ∈ unitsOf (pantryBase + o) n, unitState s.dev.ecc w = .clean) →
    Makes (.bar4Access o none n) s [.resp] (fun e =>
      e.resp = .bytes (s.dev.bytesAt (pantryBase + o) n)))
  ∧ (∀ (s : State) (o n : Nat), s.dev.chipRuns = true → s.dev.on HIF_STATUS.LINK_UP = true → s.dev.hifReset = false →
      s.dev.on HIF_CTRL.BAR4_EN = false →
    Makes (.bar4Access o none n) s [.resp] (fun e =>
      e.resp = .unsupported))
  ∧ (∀ (s : State) (o n : Nat) (l : List Byte), s.dev.chipRuns = true → s.dev.on HIF_STATUS.LINK_UP = true → s.dev.hifReset = false →
      s.dev.on HIF_CTRL.BAR4_EN = false ∨ s.dev.on HIF_CTRL.BAR4_WR_EN = false →
    Makes (.bar4Access o (some l) n) s [] (fun e =>
      True))
  ∧ (∀ (s : State) (o n : Nat) (l : List Byte), s.dev.chipRuns = true → s.dev.on HIF_STATUS.LINK_UP = true → s.dev.hifReset = false →
      s.dev.on HIF_CTRL.BAR4_EN = true → s.dev.on HIF_CTRL.BAR4_WR_EN = true →
      (∃ k ∈ [0, 1, 2, 3, 4, 5, 6, 7, 16, 17, 18, 19], s.dev.ringState k ≠ 0) → s.dev.touchesJrnl (pantryBase + o) l.length = true →
    Makes (.bar4Access o (some l) n) s [.reg Adr.HIF_BAR4_REFUSED_CNT] (fun e =>
      (e.reg (Adr.HIF_BAR4_REFUSED_CNT)).toNat = min ((s.dev.reg (Adr.HIF_BAR4_REFUSED_CNT)).toNat + 1) 0xFFFFFFFF))
  ∧ (∀ (s : State) (o n : Nat) (l : List Byte), s.dev.chipRuns = true → s.dev.on HIF_STATUS.LINK_UP = true → s.dev.hifReset = false →
      s.dev.on HIF_CTRL.BAR4_EN = true → s.dev.on HIF_CTRL.BAR4_WR_EN = true →
      ¬(∃ k ∈ [0, 1, 2, 3, 4, 5, 6, 7, 16, 17, 18, 19], s.dev.ringState k ≠ 0) ∨ s.dev.touchesJrnl (pantryBase + o) l.length = false →
      l ≠ [] →
      s.dev.poolSize = 0 ∨ (pantryBase + o) + l.length ≤ s.dev.poolBase ∨ s.dev.poolBase + 64 * s.dev.poolSize ≤ (pantryBase + o) →
      o + l.length ≤ 0x4000000 → (∀ t, t < 8 → s.dev.isolated t = false) →
      (∀ w ∈ unitsOf (pantryBase + o) l.length, unitState s.dev.ecc w = .clean) →
    Makes (.bar4Access o (some l) n) s [.mem, .ecc, .regs .ecc] (fun e =>
      e.bytesAt (pantryBase + o) l.length = l ∧ MemOnly [((pantryBase + o), l.length)] s.dev e))
  ∧ (∀ (s : State) (width speed : Nat), s.dev.chipRuns = true → s.dev.hifReset = false → s.dev.on CLK_STATUS.PCIE_LOCK = true →
    Makes (.pcieLinkUp width speed) s [.reg Adr.HIF_STATUS] (fun e =>
      e.on HIF_STATUS.LINK_UP = true ∧ e.get HIF_STATUS.WIDTH = width % 4 ∧ e.get HIF_STATUS.SPEED = speed % 8
      ∧ e.get HIF_STATUS.FW_OWNER = s.dev.get HIF_STATUS.FW_OWNER))
  ∧ (∀ (s : State) (width speed : Nat) (k : Fin 64), s.dev.chipRuns = true → s.dev.hifReset = false →
      s.dev.on CLK_STATUS.PCIE_LOCK = true → bitOf (s.dev.reg (Adr.HIF_MSIX_PBA (k / 32))).toNat (k % 32) = true →
      bitOf (s.dev.reg (Adr.HIF_MSIX_CTRL k)).toNat 0 = false →
    Makes (.pcieLinkUp width speed) s [.reg Adr.HIF_STATUS] (fun e =>
      ((s.dev.reg (Adr.HIF_MSIX_ADDR_LO k)).toNat + 2 ^ 32 * (s.dev.reg (Adr.HIF_MSIX_ADDR_HI k)).toNat, s.dev.reg (Adr.HIF_MSIX_DATA k)) ∈ e.msix))
  ∧ (∀ (s : State) (width speed : Nat), s.dev.chipRuns = true → s.dev.hifReset = true ∨ s.dev.on CLK_STATUS.PCIE_LOCK = false →
    Makes (.pcieLinkUp width speed) s [] (fun e =>
      True))
  ∧ (∀ s : State, s.dev.chipRuns = true → s.dev.evc.queue = [] → s.dev.evc.wraps = 0 →
    Makes (.pcieLinkDown) s (.reg Adr.HIF_STATUS :: .reg Adr.HIF_LINKDOWN_CNT :: stopParts) (fun e =>
      e.on HIF_STATUS.LINK_UP = false ∧ e.get HIF_STATUS.WIDTH = 0 ∧ e.get HIF_STATUS.SPEED = 0 ∧ AllStopped s.dev e
      ∧ (e.reg (Adr.HIF_LINKDOWN_CNT)).toNat = min ((s.dev.reg (Adr.HIF_LINKDOWN_CNT)).toNat + (if s.dev.on HIF_STATUS.LINK_UP then 1 else 0)) 0xFFFFFFFF))
  ∧ (∀ (s : State) (i : Instr), s.dev.chipRuns = true → (i = .pcieFlr ∨ i = .pcieHotReset) → s.dev.evc.queue = [] → s.dev.evc.wraps = 0 →
    Makes (i) s stopParts (fun e =>
      AllStopped s.dev e))
  ∧ (∀ s : State, s.dev.evc.queue = [] → s.dev.evc.wraps = 0 →
    Makes (.pciePerst) s (.pch :: .reg Adr.HIF_STATUS :: .reg Adr.HIF_LINKDOWN_CNT :: stopParts) (fun e =>
      e.on HIF_STATUS.LINK_UP = false ∧ e.get HIF_STATUS.WIDTH = 0 ∧ e.get HIF_STATUS.SPEED = 0 ∧ AllStopped s.dev e
      ∧ (e.reg (Adr.HIF_LINKDOWN_CNT)).toNat = min ((s.dev.reg (Adr.HIF_LINKDOWN_CNT)).toNat + (if s.dev.on HIF_STATUS.LINK_UP then 1 else 0)) 0xFFFFFFFF
      ∧ e.pch = { s.dev.pch with perstN := false } ∧ e.hifReset = true))

/-- FW_COMMAND_PRESENT, FW_DONE and FILTER_PREPARE (R198, R200, R203, R276, R281, R290): a firmware command is presented to its
owner, completed by the owner alone, and FILTER_PREPARE checks an image before it loads it. -/
def Obligations.FirmwareCommands : Prop :=
  (∀ (s : State) (r : RingIx) (q : JEntry) (l : List Byte), s.dev.chipRuns = true → r.val < 8 → Heads s.dev r q l → field l 4 4 ≤ 4032 →
      0x100 ≤ field l 0 2 → field l 0 2 < 0x1000 → (s.dev.get HIF_FW_PEND.RINGS).testBit r = false →
    Makes (.fwCommandPresent r) s [.reg Adr.HIF_FW_PEND, .reg (Adr.HIF_RING_FW_JADDR r)] (fun e =>
      e.get HIF_FW_PEND.RINGS = (s.dev.get HIF_FW_PEND.RINGS) ||| 2 ^ r.val ∧ e.reg (Adr.HIF_RING_FW_JADDR r) = BitVec.ofNat 32 (s.dev.jrnlAddr false r q.unit)))
  ∧ (∀ (s : State) (r : RingIx) (q : JEntry) (l : List Byte), s.dev.chipRuns = true → r.val < 8 → Heads s.dev r q l → field l 4 4 ≤ 4032 →
      0x100 ≤ field l 0 2 → field l 0 2 < 0x1000 → (s.dev.get HIF_FW_PEND.RINGS).testBit r = true →
    Makes (.fwCommandPresent r) s [] (fun e =>
      True))
  ∧ (∀ (s : State) (m : Master) (v : Word) (r : RingIx) (q : JEntry), Served s.dev m → m.num = 17 + s.dev.get HIF_STATUS.FW_OWNER →
      r.val = v.toNat % 8 → (s.dev.get HIF_FW_PEND.RINGS).testBit r = true → (s.dev.ringAt r).jrnl.find? (fun x => !x.done) = some q →
      (inPantry (s.dev.jrnlAddr false r (q.unit + q.n)) 64 = true ∧ inPantry (s.dev.jrnlAddr true r (q.unit + q.n)) 64 = true) →
    Makes (.fwDone m v) s [.ring, .mem, .ecc, .regs .ecc, .asn, .reg (Adr.HIF_RING_LAST_COMPLETED_LO r), .reg (Adr.HIF_RING_LAST_COMPLETED_LO r + 4), .reg Adr.HIF_FW_DONE, .reg Adr.HIF_FW_PEND, .resp] (fun e =>
      e.resp = .okay 0 ∧ Completed s.dev e r q (v.toNat / 65536) (s.dev.get64 Adr.HIF_FW_RESULT_LO) ∧ OnlyJournal s.dev e r ∧ MemOnly (s.dev.stateOf r q) s.dev e ∧ e.get HIF_FW_PEND.RINGS = (s.dev.get HIF_FW_PEND.RINGS) - 2 ^ r.val))
  ∧ (∀ (s : State) (m : Master) (v : Word), Served s.dev m →
      m.num ≠ 17 + s.dev.get HIF_STATUS.FW_OWNER ∨ (s.dev.get HIF_FW_PEND.RINGS).testBit (v.toNat % 8) = false →
    Makes (.fwDone m v) s [.reg Adr.HIF_FW_DONE, .reg Adr.HIF_FW_STRAY_CNT, .resp] (fun e =>
      e.resp = .okay 0 ∧ (e.reg (Adr.HIF_FW_STRAY_CNT)).toNat = min ((s.dev.reg (Adr.HIF_FW_STRAY_CNT)).toNat + 1) 0xFFFFFFFF))
  ∧ (∀ (s : State) (r : RingIx) (q : JEntry) (l : List Byte), s.dev.chipRuns = true → r.val < 8 → Heads s.dev r q l →
      (s.dev.get HIF_FW_PEND.RINGS).testBit r = true → field l 0 2 = 0x140 → field l 4 4 ≤ 4032 →
      ¬Plain l ∨ 16 ≤ field l 24 1 ∨ 2 ≤ field l 25 1 ∨ ¬Zeros l 26 6 ∨ ¬Zeros l 38 26 →
    Makes (.filterPrepare r) s [.ring, .mem, .ecc, .regs .ecc, .asn, .reg (Adr.HIF_RING_LAST_COMPLETED_LO r), .reg (Adr.HIF_RING_LAST_COMPLETED_LO r + 4), .reg Adr.HIF_FW_PEND] (fun e =>
      Completed s.dev e r q 0x101 0 ∧ OnlyJournal s.dev e r ∧ MemOnly (s.dev.stateOf r q) s.dev e ∧ e.get HIF_FW_PEND.RINGS = (s.dev.get HIF_FW_PEND.RINGS) - 2 ^ r.val))
  ∧ (∀ (s : State) (r : RingIx) (q : JEntry) (l : List Byte), s.dev.chipRuns = true → r.val < 8 → Heads s.dev r q l →
      (s.dev.get HIF_FW_PEND.RINGS).testBit r = true → field l 0 2 = 0x140 → field l 4 4 ≤ 4032 → Plain l → field l 24 1 < 16 →
      field l 25 1 < 2 → Zeros l 26 6 → Zeros l 38 26 → field l 32 6 = 0 →
    Makes (.filterPrepare r) s [.reg Adr.HIF_FW_RESULT_LO, .reg (Adr.HIF_FW_RESULT_LO + 4), .ring, .mem, .ecc, .regs .ecc, .asn, .reg (Adr.HIF_RING_LAST_COMPLETED_LO r), .reg (Adr.HIF_RING_LAST_COMPLETED_LO r + 4), .reg Adr.HIF_FW_PEND] (fun e =>
      Completed s.dev e r q 0 0 ∧ OnlyJournal s.dev e r ∧ MemOnly (s.dev.stateOf r q) s.dev e ∧ e.get HIF_FW_PEND.RINGS = (s.dev.get HIF_FW_PEND.RINGS) - 2 ^ r.val ∧ e.och = s.dev.och))
  ∧ (∀ (s : State) (r : RingIx) (q : JEntry) (l : List Byte) (j : Nat) (h rest : List Byte), s.dev.chipRuns = true → r.val < 8 →
      Heads s.dev r q l → (s.dev.get HIF_FW_PEND.RINGS).testBit r = true → field l 0 2 = 0x140 → field l 4 4 ≤ 4032 → Plain l →
      field l 24 1 < 16 → field l 25 1 < 2 → Zeros l 26 6 → Zeros l 38 26 → j < 48 → field l 32 6 = 2 ^ j → h.length = 64 →
      Reads s.dev (s.dev.get ⟨Adr.TSK_SLOT_ENG (field l 24 1 / 4), 8 * (field l 24 1 % 4), 5⟩) (s.dev.setSlotAddr (48 * field l 24 1 + j) (field l 25 1)) h →
      rest.length = min (field h 16 8) 0x100000 - 64 →
      Reads s.dev (s.dev.get ⟨Adr.TSK_SLOT_ENG (field l 24 1 / 4), 8 * (field l 24 1 % 4), 5⟩) (s.dev.setSlotAddr (48 * field l 24 1 + j) (field l 25 1) + 64) rest →
      ¬(field h 0 4 = 0x54455346 ∧ field h 4 2 = 1 ∧ field h 6 2 = 64) →
    Makes (.filterPrepare r) s [.reg Adr.HIF_FW_RESULT_LO, .reg (Adr.HIF_FW_RESULT_LO + 4), .ring, .mem, .ecc, .regs .ecc, .asn, .reg (Adr.HIF_RING_LAST_COMPLETED_LO r), .reg (Adr.HIF_RING_LAST_COMPLETED_LO r + 4), .reg Adr.HIF_FW_PEND] (fun e =>
      Completed s.dev e r q 1 j ∧ OnlyJournal s.dev e r ∧ MemOnly (s.dev.stateOf r q) s.dev e ∧ e.get HIF_FW_PEND.RINGS = (s.dev.get HIF_FW_PEND.RINGS) - 2 ^ r.val ∧ e.och = s.dev.och))
  ∧ (∀ (s : State) (r : RingIx) (q : JEntry) (l : List Byte) (j : Nat) (h rest : List Byte), s.dev.chipRuns = true → r.val < 8 →
      Heads s.dev r q l → (s.dev.get HIF_FW_PEND.RINGS).testBit r = true → field l 0 2 = 0x140 → field l 4 4 ≤ 4032 → Plain l →
      field l 24 1 < 16 → field l 25 1 < 2 → Zeros l 26 6 → Zeros l 38 26 → j < 48 → field l 32 6 = 2 ^ j → h.length = 64 →
      Reads s.dev (s.dev.get ⟨Adr.TSK_SLOT_ENG (field l 24 1 / 4), 8 * (field l 24 1 % 4), 5⟩) (s.dev.setSlotAddr (48 * field l 24 1 + j) (field l 25 1)) h →
      rest.length = min (field h 16 8) 0x100000 - 64 →
      Reads s.dev (s.dev.get ⟨Adr.TSK_SLOT_ENG (field l 24 1 / 4), 8 * (field l 24 1 % 4), 5⟩) (s.dev.setSlotAddr (48 * field l 24 1 + j) (field l 25 1) + 64) rest →
      (field h 0 4 = 0x54455346 ∧ field h 4 2 = 1 ∧ field h 6 2 = 64) ∧ ¬(field h 16 8 < 64 ∨ 0x100000 < field h 16 8 ∨ field h 24 4 = crc32c rest) →
    Makes (.filterPrepare r) s [.reg Adr.HIF_FW_RESULT_LO, .reg (Adr.HIF_FW_RESULT_LO + 4), .ring, .mem, .ecc, .regs .ecc, .asn, .reg (Adr.HIF_RING_LAST_COMPLETED_LO r), .reg (Adr.HIF_RING_LAST_COMPLETED_LO r + 4), .reg Adr.HIF_FW_PEND] (fun e =>
      Completed s.dev e r q 2 j ∧ OnlyJournal s.dev e r ∧ MemOnly (s.dev.stateOf r q) s.dev e ∧ e.get HIF_FW_PEND.RINGS = (s.dev.get HIF_FW_PEND.RINGS) - 2 ^ r.val ∧ e.och = s.dev.och))
  ∧ (∀ (s : State) (r : RingIx) (q : JEntry) (l : List Byte) (j : Nat) (h rest : List Byte), s.dev.chipRuns = true → r.val < 8 →
      Heads s.dev r q l → (s.dev.get HIF_FW_PEND.RINGS).testBit r = true → field l 0 2 = 0x140 → field l 4 4 ≤ 4032 → Plain l →
      field l 24 1 < 16 → field l 25 1 < 2 → Zeros l 26 6 → Zeros l 38 26 → j < 48 → field l 32 6 = 2 ^ j → h.length = 64 →
      Reads s.dev (s.dev.get ⟨Adr.TSK_SLOT_ENG (field l 24 1 / 4), 8 * (field l 24 1 % 4), 5⟩) (s.dev.setSlotAddr (48 * field l 24 1 + j) (field l 25 1)) h →
      rest.length = min (field h 16 8) 0x100000 - 64 →
      Reads s.dev (s.dev.get ⟨Adr.TSK_SLOT_ENG (field l 24 1 / 4), 8 * (field l 24 1 % 4), 5⟩) (s.dev.setSlotAddr (48 * field l 24 1 + j) (field l 25 1) + 64) rest →
      (field h 0 4 = 0x54455346 ∧ field h 4 2 = 1 ∧ field h 6 2 = 64) ∧ (field h 16 8 < 64 ∨ 0x100000 < field h 16 8 ∨ field h 24 4 = crc32c rest) ∧ ¬(1 ≤ field h 8 4 ∧ field h 8 4 ≤ 131072 ∧ field h 12 1 = tapLevels (field h 8 4) ∧ field h 16 8 = imageLength (field h 12 1)) →
    Makes (.filterPrepare r) s [.reg Adr.HIF_FW_RESULT_LO, .reg (Adr.HIF_FW_RESULT_LO + 4), .ring, .mem, .ecc, .regs .ecc, .asn, .reg (Adr.HIF_RING_LAST_COMPLETED_LO r), .reg (Adr.HIF_RING_LAST_COMPLETED_LO r + 4), .reg Adr.HIF_FW_PEND] (fun e =>
      Completed s.dev e r q 3 j ∧ OnlyJournal s.dev e r ∧ MemOnly (s.dev.stateOf r q) s.dev e ∧ e.get HIF_FW_PEND.RINGS = (s.dev.get HIF_FW_PEND.RINGS) - 2 ^ r.val ∧ e.och = s.dev.och))
  ∧ (∀ (s : State) (r : RingIx) (q : JEntry) (l : List Byte) (j : Nat) (h rest : List Byte), s.dev.chipRuns = true → r.val < 8 →
      Heads s.dev r q l → (s.dev.get HIF_FW_PEND.RINGS).testBit r = true → field l 0 2 = 0x140 → field l 4 4 ≤ 4032 → Plain l →
      field l 24 1 < 16 → field l 25 1 < 2 → Zeros l 26 6 → Zeros l 38 26 → j < 48 → field l 32 6 = 2 ^ j → h.length = 64 →
      Reads s.dev (s.dev.get ⟨Adr.TSK_SLOT_ENG (field l 24 1 / 4), 8 * (field l 24 1 % 4), 5⟩) (s.dev.setSlotAddr (48 * field l 24 1 + j) (field l 25 1)) h →
      rest.length = min (field h 16 8) 0x100000 - 64 →
      Reads s.dev (s.dev.get ⟨Adr.TSK_SLOT_ENG (field l 24 1 / 4), 8 * (field l 24 1 % 4), 5⟩) (s.dev.setSlotAddr (48 * field l 24 1 + j) (field l 25 1) + 64) rest →
      (field h 0 4 = 0x54455346 ∧ field h 4 2 = 1 ∧ field h 6 2 = 64) ∧ (field h 16 8 < 64 ∨ 0x100000 < field h 16 8 ∨ field h 24 4 = crc32c rest) ∧ (1 ≤ field h 8 4 ∧ field h 8 4 ≤ 131072 ∧ field h 12 1 = tapLevels (field h 8 4) ∧ field h 16 8 = imageLength (field h 12 1)) ∧ (s.dev.aget (OCH_OUT.FSEL (48 * field l 24 1 + j)) = field l 25 1 ∨ ∃ x ∈ s.dev.och.hold, x.1 = (48 * field l 24 1 + j) ∧ s.dev.period < x.2) →
    Makes (.filterPrepare r) s [.reg Adr.HIF_FW_RESULT_LO, .reg (Adr.HIF_FW_RESULT_LO + 4), .ring, .mem, .ecc, .regs .ecc, .asn, .reg (Adr.HIF_RING_LAST_COMPLETED_LO r), .reg (Adr.HIF_RING_LAST_COMPLETED_LO r + 4), .reg Adr.HIF_FW_PEND] (fun e =>
      Completed s.dev e r q 4 j ∧ OnlyJournal s.dev e r ∧ MemOnly (s.dev.stateOf r q) s.dev e ∧ e.get HIF_FW_PEND.RINGS = (s.dev.get HIF_FW_PEND.RINGS) - 2 ^ r.val ∧ e.och = s.dev.och))
  ∧ (∀ (s : State) (r : RingIx) (q : JEntry) (l : List Byte) (j : Nat) (h rest : List Byte), s.dev.chipRuns = true → r.val < 8 →
      Heads s.dev r q l → (s.dev.get HIF_FW_PEND.RINGS).testBit r = true → field l 0 2 = 0x140 → field l 4 4 ≤ 4032 → Plain l →
      field l 24 1 < 16 → field l 25 1 < 2 → Zeros l 26 6 → Zeros l 38 26 → j < 48 → field l 32 6 = 2 ^ j → h.length = 64 →
      Reads s.dev (s.dev.get ⟨Adr.TSK_SLOT_ENG (field l 24 1 / 4), 8 * (field l 24 1 % 4), 5⟩) (s.dev.setSlotAddr (48 * field l 24 1 + j) (field l 25 1)) h →
      rest.length = min (field h 16 8) 0x100000 - 64 →
      Reads s.dev (s.dev.get ⟨Adr.TSK_SLOT_ENG (field l 24 1 / 4), 8 * (field l 24 1 % 4), 5⟩) (s.dev.setSlotAddr (48 * field l 24 1 + j) (field l 25 1) + 64) rest →
      (field h 0 4 = 0x54455346 ∧ field h 4 2 = 1 ∧ field h 6 2 = 64) →
      (field h 16 8 < 64 ∨ 0x100000 < field h 16 8 ∨ field h 24 4 = crc32c rest) →
      (1 ≤ field h 8 4 ∧ field h 8 4 ≤ 131072 ∧ field h 12 1 = tapLevels (field h 8 4) ∧ field h 16 8 = imageLength (field h 12 1)) →
      ¬(s.dev.aget (OCH_OUT.FSEL (48 * field l 24 1 + j)) = field l 25 1 ∨ ∃ x ∈ s.dev.och.hold, x.1 = (48 * field l 24 1 + j) ∧ s.dev.period < x.2) →
    Makes (.filterPrepare r) s [.reg Adr.HIF_FW_RESULT_LO, .reg (Adr.HIF_FW_RESULT_LO + 4), .ring, .mem, .ecc, .regs .ecc, .asn, .reg (Adr.HIF_RING_LAST_COMPLETED_LO r), .reg (Adr.HIF_RING_LAST_COMPLETED_LO r + 4), .reg Adr.HIF_FW_PEND, .och] (fun e =>
      Completed s.dev e r q 0 0 ∧ OnlyJournal s.dev e r ∧ MemOnly (s.dev.stateOf r q) s.dev e ∧ e.get HIF_FW_PEND.RINGS = (s.dev.get HIF_FW_PEND.RINGS) - 2 ^ r.val
      ∧ e.och = { s.dev.och with prepared := sput s.dev.och.prepared (2 * (48 * field l 24 1 + j) + field l 25 1) ⟨rest.take 2048, field h 12 1, field h 13 1, slice h 32 16⟩ }))

/-- CAPTURE_BLOCK_WRITE, FRAME_TX_DESCRIPTOR and FRAME_RX_DELIVER (R270, R295, R296, R297): a capture block, a frame to send and a
frame received pass through the next descriptor of their ring, data before the write-back. -/
def Obligations.CaptureAndFrameRings : Prop :=
  (∀ (s : State) (u : HostUpd) (c : Fin 4) (b : Nat × List Byte × Nat), s.dev.chipRuns = true →
      s.dev.mix.capOut.find? (fun y => y.1 == c.val) = some b →
      ¬Moves s.dev (21 + c.val) ∨ ¬0 < ((s.dev.reg (Adr.HIF_RING_HOST_IDX (21 + c.val))).toNat + 2 ^ 32 - (s.dev.reg (Adr.HIF_RING_DEV_IDX (21 + c.val))).toNat) % 2 ^ 32 →
      s.dev.on (HIF_RING_STATUS.DRAINING (21 + c.val)) = false →
    Makes (.captureBlockWrite u c) s [.ring, .mix, .bad, .reg (Adr.HIF_RING_DISCARD_CNT (21 + c.val))] (fun e =>
      e.mix = { s.dev.mix with capOut := s.dev.mix.capOut.erase b } ∧ (e.reg (Adr.HIF_RING_DISCARD_CNT (21 + c.val))).toNat = min ((s.dev.reg (Adr.HIF_RING_DISCARD_CNT (21 + c.val))).toNat + 1) 0xFFFFFFFF
      ∧ e.ringAt (21 + c.val) = { s.dev.ringAt (21 + c.val) with gap := (s.dev.ringAt (21 + c.val)).gap + 1 } ∧ OtherRings [(21 + c.val), 20] s.dev e ∧ e.hostBad = (s.dev.hostUpdate u).hostBad))
  ∧ (∀ (s : State) (u : HostUpd) (c : Fin 4) (b : Nat × List Byte × Nat) (a g o : Nat), s.dev.chipRuns = true →
      s.dev.mix.capOut.find? (fun y => y.1 == c.val) = some b → Moves s.dev (21 + c.val) →
      0 < ((s.dev.reg (Adr.HIF_RING_HOST_IDX (21 + c.val))).toNat + 2 ^ 32 - (s.dev.reg (Adr.HIF_RING_DEV_IDX (21 + c.val))).toNat) % 2 ^ 32 →
      s.dev.on (XLT_CTX_CFG.VALID (s.dev.get (HIF_RING_CFG.CTX (21 + c.val)))) = true →
      s.dev.on (XLT_CTX_CFG.MODE (s.dev.get (HIF_RING_CFG.CTX (21 + c.val)))) = true → s.dev.hostBad = [] → u.bad = none →
      Quiet s.dev →
      a = (s.dev.get64 (Adr.HIF_RING_BASE_LO (21 + c.val)) / (64 * s.dev.ringSize (21 + c.val)) * (64 * s.dev.ringSize (21 + c.val)) + 64 * ((s.dev.reg (Adr.HIF_RING_DEV_IDX (21 + c.val))).toNat % s.dev.ringSize (21 + c.val))) →
      a + 64 ≤ 2 ^ 48 → g = ofBytes ((s.dev.hostUpdate u).hostAt a 8) →
      g + (b.2.1.take (ofBytes ((s.dev.hostUpdate u).hostAt (a + 8) 4))).length ≤ 2 ^ 48 → o = a + 32 →
    Makes (.captureBlockWrite u c) s [.ring, .mix, .bad, .reg (Adr.HIF_RING_DEV_IDX (21 + c.val))] (fun e =>
      (∀ x, e.hostCell x = if o ≤ x ∧ x < o + ((bytesOf 4 (b.2.1.take (ofBytes ((s.dev.hostUpdate u).hostAt (a + 8) 4))).length ++ bytesOf 4 (s.dev.ringAt (21 + c.val)).gap ++ bytesOf 8 b.2.2 ++ [0x80] ++ List.replicate 15 0)).length then ((bytesOf 4 (b.2.1.take (ofBytes ((s.dev.hostUpdate u).hostAt (a + 8) 4))).length ++ bytesOf 4 (s.dev.ringAt (21 + c.val)).gap ++ bytesOf 8 b.2.2 ++ [0x80] ++ List.replicate 15 0)).getD (x - o) 0
          else if g ≤ x ∧ x < g + ((b.2.1.take (ofBytes ((s.dev.hostUpdate u).hostAt (a + 8) 4)))).length then ((b.2.1.take (ofBytes ((s.dev.hostUpdate u).hostAt (a + 8) 4)))).getD (x - g) 0 else (s.dev.hostUpdate u).hostCell x) ∧ e.mix = { s.dev.mix with capOut := s.dev.mix.capOut.erase b }
      ∧ e.ringAt (21 + c.val) = { s.dev.ringAt (21 + c.val) with gap := 0 } ∧ OtherRings [(21 + c.val), 20] s.dev e ∧ e.reg (Adr.HIF_RING_DEV_IDX (21 + c.val)) = s.dev.reg (Adr.HIF_RING_DEV_IDX (21 + c.val)) + 1 ∧ e.hostBad = []))
  ∧ (∀ (s : State) (u : HostUpd) (r : RingIx) (p : PortIx) (a q : Nat) (b : List Byte), s.dev.chipRuns = true → 25 ≤ r.val → r.val < 33 →
      Moves s.dev r →
      0 < ((s.dev.reg (Adr.HIF_RING_HOST_IDX r)).toNat + 2 ^ 32 - (s.dev.reg (Adr.HIF_RING_DEV_IDX r)).toNat) % 2 ^ 32 →
      s.dev.on (XLT_CTX_CFG.VALID (s.dev.get (HIF_RING_CFG.CTX r))) = true →
      s.dev.on (XLT_CTX_CFG.MODE (s.dev.get (HIF_RING_CFG.CTX r))) = true → s.dev.hostBad = [] → u.bad = none → Quiet s.dev →
      p.val = s.dev.get (HIF_RING_CFG.PORT r) → q = s.dev.get (HIF_RING_CFG.QUEUE r) →
      a = (s.dev.get64 (Adr.HIF_RING_BASE_LO r) / (64 * s.dev.ringSize r) * (64 * s.dev.ringSize r) + 64 * ((s.dev.reg (Adr.HIF_RING_DEV_IDX r)).toNat % s.dev.ringSize r)) →
      a + 64 ≤ 2 ^ 48 → ofBytes ((s.dev.hostUpdate u).hostAt (a + 10) 1) < 8 → ofBytes ((s.dev.hostUpdate u).hostAt (a + 11) 5) = 0 →
      ofBytes ((s.dev.hostUpdate u).hostAt (a + 26) 6) = 0 →
      b = ((s.dev.hostUpdate u).hostAt (ofBytes ((s.dev.hostUpdate u).hostAt (a + 0) 8)) (ofBytes ((s.dev.hostUpdate u).hostAt (a + 8) 2))) →
      ofBytes ((s.dev.hostUpdate u).hostAt (a + 0) 8) + b.length ≤ 2 ^ 48 → s.dev.on (MAC_TXQ_CFG.EN p q) = true →
      s.dev.get (MAC_TXQ_CFG.KIND p q) = 0 → 14 ≤ b.length → b.length + 4 ≤ s.dev.frameLimit p b → (s.dev.txHead p q).isSome = true →
    Makes (.frameTxDescriptor u r) s [.mac, .bad, .reg (Adr.HIF_RING_DEV_IDX r)] (fun e =>
      e.macAt p = { s.dev.macAt p with txq := (s.dev.macAt p).txq ++ [(q, ⟨b, .host r ((s.dev.reg (Adr.HIF_RING_DEV_IDX r)).toNat + 2 ^ 32 * (s.dev.ringAt r).restarts) ((ofBytes ((s.dev.hostUpdate u).hostAt (a + 10) 1)).testBit 2),
          (ofBytes ((s.dev.hostUpdate u).hostAt (a + 10) 1)).testBit 0, if (ofBytes ((s.dev.hostUpdate u).hostAt (a + 10) 1)).testBit 1 then some (ofBytes ((s.dev.hostUpdate u).hostAt (a + 16) 6), ofBytes ((s.dev.hostUpdate u).hostAt (a + 22) 4)) else none, false⟩)] }
      ∧ (∀ j : PortIx, j ≠ p → e.macAt j = s.dev.macAt j) ∧ e.reg (Adr.HIF_RING_DEV_IDX r) = s.dev.reg (Adr.HIF_RING_DEV_IDX r) + 1 ∧ e.host = (s.dev.hostUpdate u).host ∧ e.hostBad = []))
  ∧ (∀ (s : State) (u : HostUpd) (r : RingIx) (p : PortIx) (a q : Nat) (o : Nat), s.dev.chipRuns = true → 25 ≤ r.val → r.val < 33 →
      Moves s.dev r →
      0 < ((s.dev.reg (Adr.HIF_RING_HOST_IDX r)).toNat + 2 ^ 32 - (s.dev.reg (Adr.HIF_RING_DEV_IDX r)).toNat) % 2 ^ 32 →
      s.dev.on (XLT_CTX_CFG.VALID (s.dev.get (HIF_RING_CFG.CTX r))) = true →
      s.dev.on (XLT_CTX_CFG.MODE (s.dev.get (HIF_RING_CFG.CTX r))) = true → s.dev.hostBad = [] → u.bad = none → Quiet s.dev →
      p.val = s.dev.get (HIF_RING_CFG.PORT r) → q = s.dev.get (HIF_RING_CFG.QUEUE r) →
      a = (s.dev.get64 (Adr.HIF_RING_BASE_LO r) / (64 * s.dev.ringSize r) * (64 * s.dev.ringSize r) + 64 * ((s.dev.reg (Adr.HIF_RING_DEV_IDX r)).toNat % s.dev.ringSize r)) →
      a + 64 ≤ 2 ^ 48 →
      8 ≤ ofBytes ((s.dev.hostUpdate u).hostAt (a + 10) 1) ∨ ¬(ofBytes ((s.dev.hostUpdate u).hostAt (a + 11) 5) = 0) ∨ ofBytes ((s.dev.hostUpdate u).hostAt (a + 26) 6) ≠ 0 →
      (s.dev.ringAt r).repost = [] → o = a + 32 → (ofBytes ((s.dev.hostUpdate u).hostAt (a + 10) 1)).testBit 2 = false →
    Makes (.frameTxDescriptor u r) s [.ring, .bad, .reg (Adr.HIF_RING_DEV_IDX r)] (fun e =>
      HostPut (s.dev.hostUpdate u) e o (bytesOf 2 4 ++ [0x80] ++ List.replicate 29 0) ∧ e.reg (Adr.HIF_RING_DEV_IDX r) = s.dev.reg (Adr.HIF_RING_DEV_IDX r) + 1 ∧ e.ringAt r = s.dev.ringAt r ∧ OtherRings [r, 20] s.dev e ∧ e.hostBad = []))
  ∧ (∀ (s : State) (u : HostUpd) (r : RingIx), s.dev.chipRuns = true → 25 ≤ r.val → r.val < 33 →
      ¬Moves s.dev r ∨ ((s.dev.reg (Adr.HIF_RING_HOST_IDX r)).toNat + 2 ^ 32 - (s.dev.reg (Adr.HIF_RING_DEV_IDX r)).toNat) % 2 ^ 32 = 0 →
    Makes (.frameTxDescriptor u r) s [.bad] (fun e =>
      e.hostBad = (s.dev.hostUpdate u).hostBad))
  ∧ (∀ (s : State) (u : HostUpd) (r : RingIx), s.dev.chipRuns = true → 33 ≤ r.val → r.val < 41 →
      ¬Moves s.dev r ∨ ((s.dev.reg (Adr.HIF_RING_HOST_IDX r)).toNat + 2 ^ 32 - (s.dev.reg (Adr.HIF_RING_DEV_IDX r)).toNat) % 2 ^ 32 = 0 →
    Makes (.frameRxDeliver u r) s [.bad] (fun e =>
      e.hostBad = (s.dev.hostUpdate u).hostBad))
  ∧ (∀ (s : State) (u : HostUpd) (r : RingIx) (p : PortIx) (a : Nat) (f : RxFrame), s.dev.chipRuns = true → 33 ≤ r.val → Moves s.dev r →
      0 < ((s.dev.reg (Adr.HIF_RING_HOST_IDX r)).toNat + 2 ^ 32 - (s.dev.reg (Adr.HIF_RING_DEV_IDX r)).toNat) % 2 ^ 32 →
      s.dev.on (XLT_CTX_CFG.VALID (s.dev.get (HIF_RING_CFG.CTX r))) = true →
      s.dev.on (XLT_CTX_CFG.MODE (s.dev.get (HIF_RING_CFG.CTX r))) = true → s.dev.hostBad = [] → u.bad = none → Quiet s.dev →
      p.val = s.dev.get (HIF_RING_CFG.PORT r) → (s.dev.macAt p).rx.find? (fun y => y.q == s.dev.get (HIF_RING_CFG.QUEUE r)) = some f →
      a = (s.dev.get64 (Adr.HIF_RING_BASE_LO r) / (64 * s.dev.ringSize r) * (64 * s.dev.ringSize r) + 64 * ((s.dev.reg (Adr.HIF_RING_DEV_IDX r)).toNat % s.dev.ringSize r)) →
      a + 64 ≤ 2 ^ 48 → s.dev.fcTx p = false → ofBytes ((s.dev.hostUpdate u).hostAt (a + 8) 2) < f.bytes.length →
    Makes (.frameRxDeliver u r) s [.mac, .bad, .reg (Adr.HIF_RING_DISCARD_CNT r)] (fun e =>
      e.macAt p = { s.dev.macAt p with rx := (s.dev.macAt p).rx.erase f } ∧ (∀ j : PortIx, j ≠ p → e.macAt j = s.dev.macAt j) ∧ (e.reg (Adr.HIF_RING_DISCARD_CNT r)).toNat = min ((s.dev.reg (Adr.HIF_RING_DISCARD_CNT r)).toNat + 1) 0xFFFFFFFF ∧ e.host = (s.dev.hostUpdate u).host ∧ e.hostBad = []))
  ∧ (∀ (s : State) (u : HostUpd) (r : RingIx) (p : PortIx) (a g o : Nat) (f : RxFrame), s.dev.chipRuns = true → 33 ≤ r.val →
      Moves s.dev r →
      0 < ((s.dev.reg (Adr.HIF_RING_HOST_IDX r)).toNat + 2 ^ 32 - (s.dev.reg (Adr.HIF_RING_DEV_IDX r)).toNat) % 2 ^ 32 →
      s.dev.on (XLT_CTX_CFG.VALID (s.dev.get (HIF_RING_CFG.CTX r))) = true →
      s.dev.on (XLT_CTX_CFG.MODE (s.dev.get (HIF_RING_CFG.CTX r))) = true → s.dev.hostBad = [] → u.bad = none → Quiet s.dev →
      p.val = s.dev.get (HIF_RING_CFG.PORT r) → (s.dev.macAt p).rx.find? (fun y => y.q == s.dev.get (HIF_RING_CFG.QUEUE r)) = some f →
      a = (s.dev.get64 (Adr.HIF_RING_BASE_LO r) / (64 * s.dev.ringSize r) * (64 * s.dev.ringSize r) + 64 * ((s.dev.reg (Adr.HIF_RING_DEV_IDX r)).toNat % s.dev.ringSize r)) →
      a + 64 ≤ 2 ^ 48 → s.dev.fcTx p = false → f.bytes.length ≤ ofBytes ((s.dev.hostUpdate u).hostAt (a + 8) 2) →
      g = ofBytes ((s.dev.hostUpdate u).hostAt (a + 0) 8) → g + f.bytes.length ≤ 2 ^ 48 → o = a + 32 →
    Makes (.frameRxDeliver u r) s [.mac, .bad, .reg (Adr.HIF_RING_DEV_IDX r)] (fun e =>
      e.macAt p = { s.dev.macAt p with rx := (s.dev.macAt p).rx.erase f } ∧ (∀ j : PortIx, j ≠ p → e.macAt j = s.dev.macAt j)
      ∧ (∀ x, e.hostCell x = if o ≤ x ∧ x < o + ((bytesOf 2 f.bytes.length ++ bytesOf 1 p.val ++ bytesOf 1 f.q ++ bytesOf 2 f.filter ++ bytesOf 1 (129 + 2 * f.vlan.toNat + 4 * f.mirror.toNat) ++ [0]
          ++ bytesOf 6 (f.t / 16000000000 % 2 ^ 48) ++ bytesOf 4 (f.t / 16 % 1000000000) ++ bytesOf 2 (4096 * (f.t % 16)) ++ List.replicate 12 0)).length then ((bytesOf 2 f.bytes.length ++ bytesOf 1 p.val ++ bytesOf 1 f.q ++ bytesOf 2 f.filter ++ bytesOf 1 (129 + 2 * f.vlan.toNat + 4 * f.mirror.toNat) ++ [0]
          ++ bytesOf 6 (f.t / 16000000000 % 2 ^ 48) ++ bytesOf 4 (f.t / 16 % 1000000000) ++ bytesOf 2 (4096 * (f.t % 16)) ++ List.replicate 12 0)).getD (x - o) 0
          else if g ≤ x ∧ x < g + (f.bytes).length then (f.bytes).getD (x - g) 0 else (s.dev.hostUpdate u).hostCell x) ∧ e.reg (Adr.HIF_RING_DEV_IDX r) = s.dev.reg (Adr.HIF_RING_DEV_IDX r) + 1 ∧ e.hostBad = []))

/-! ### The porch -/

/-- PORCH_RESET_EXIT, SAFE_FRAME, PE_FAULT, PE_RESTART, PCH_FORCE_SAFE, SAFE_RELOAD, PORCH_SCRUB_LINE, and the porch's answer to an
unprivileged write (R450, R523, R524, R529, R531, R532, R535, R537, R543, R558): the loader starts the safe path from the flash,
PE mixes each frame, faults and restarts. -/
def Obligations.SafePath : Prop :=
  (∀ (s : State) (straps : Fin 4) (flash : List (Nat × Byte)) (otp : List (Nat × Word)) (bist : Bool) (h : List Byte) (x : SafeMix),
      s.dev.pch.up = false →
      (s.dev.setPch { s.dev.pch with flash := (flash.foldl (fun m x => sset (fun _ => (0xFF : Byte)) m (x.1 % 2 ^ 32) x.2) s.dev.pch.flash) }).flashHeader = some h →
      (s.dev.setPch { s.dev.pch with flash := (flash.foldl (fun m x => sset (fun _ => (0xFF : Byte)) m (x.1 % 2 ^ 32) x.2) s.dev.pch.flash) }).safeBlock = some x →
      (∀ p, p < 2 → (s.dev.sapAt p).phase = .stopped ∧ s.dev.on (SAP_STATUS.RUNNING p) = false) →
    Makes (.porchResetExit straps flash otp bist) s [.reg Adr.PCH_SMB_CFG, .reg Adr.PCH_SRAM_STATUS, .reg Adr.PCH_STATUS, .pch, .reg Adr.PCH_SUBSYS, .reg (Adr.PCH_MAC_LO 0), .reg (Adr.PCH_MAC_LO 0 + 4), .reg (Adr.PCH_MAC_LO 1), .reg (Adr.PCH_MAC_LO 1 + 4),
        .reg (Adr.PCH_MAC_LO 2), .reg (Adr.PCH_MAC_LO 2 + 4), .reg (Adr.PCH_MAC_LO 3), .reg (Adr.PCH_MAC_LO 3 + 4), .regs .sap, .act, .sap, .fe] (fun e =>
      e.get PCH_SMB_CFG.ADDR = straps.val ∧ e.on PCH_SRAM_STATUS.BIST_PASS = bist ∧ Restarted (s.dev.setPch { s.dev.pch with up := true, wakeOut := true, flash := (flash.foldl (fun m x => sset (fun _ => (0xFF : Byte)) m (x.1 % 2 ^ 32) x.2) s.dev.pch.flash), otp := (otp.foldl (fun m x => sset (fun _ => (0 : Word)) m (x.1 % 256) x.2) s.dev.pch.otp) }) e x
      ∧ e.reg Adr.PCH_SUBSYS = BitVec.ofNat 32 (field h 32 4) ∧ (∀ p, p < 4 → e.get64 (Adr.PCH_MAC_LO p) = ofNet (slice h (40 + 6 * p) 6))
      ∧ ∀ p, p < 2 → if bitOf x.ports p then
          e.on (SAP_CTRL.EN p) = true ∧ e.on (SAP_STATUS.RUNNING p) = true ∧ (e.sapAt p).phase = .silent x.start
          ∧ e.reg (Adr.SAP_CFG p) = BitVec.ofNat 32 (x.cfg.getD p 0 % 2 ^ 21) ∧ e.reg (Adr.SAP_CLK p) = BitVec.ofNat 32 (x.clk.getD p 0 % 4)
          ∧ e.reg (Adr.SAP_MASK_RX0 p) = lineMask x.ins p 0 ∧ e.reg (Adr.SAP_MASK_RX1 p) = lineMask x.ins p 1
          ∧ e.reg (Adr.SAP_MASK_TX0 p) = lineMask x.outs p 0 ∧ e.reg (Adr.SAP_MASK_TX1 p) = lineMask x.outs p 1
        else e.sapAt p = s.dev.sapAt p ∧ e.reg (Adr.SAP_CTRL p) = s.dev.reg (Adr.SAP_CTRL p)))
  ∧ (∀ (s : State) (straps : Fin 4) (flash : List (Nat × Byte)) (otp : List (Nat × Word)) (bist : Bool), s.dev.pch.up = false →
      (s.dev.setPch { s.dev.pch with flash := (flash.foldl (fun m x => sset (fun _ => (0xFF : Byte)) m (x.1 % 2 ^ 32) x.2) s.dev.pch.flash) }).flashHeader = none ∨ (s.dev.setPch { s.dev.pch with flash := (flash.foldl (fun m x => sset (fun _ => (0xFF : Byte)) m (x.1 % 2 ^ 32) x.2) s.dev.pch.flash) }).safeBlock = none →
    Makes (.porchResetExit straps flash otp bist) s [.reg Adr.PCH_SMB_CFG, .reg Adr.PCH_SRAM_STATUS, .reg Adr.PCH_STATUS, .pch] (fun e =>
      e.get PCH_SMB_CFG.ADDR = straps.val ∧ e.on PCH_SRAM_STATUS.BIST_PASS = bist ∧ e.pch = { s.dev.pch with up := true, wakeOut := true, flash := (flash.foldl (fun m x => sset (fun _ => (0xFF : Byte)) m (x.1 % 2 ^ 32) x.2) s.dev.pch.flash), otp := (otp.foldl (fun m x => sset (fun _ => (0 : Word)) m (x.1 % 256) x.2) s.dev.pch.otp) } ∧ e.reg Adr.PCH_STATUS = s.dev.fieldSet PCH_STATUS.SAFE_BAD 1))
  ∧ (∀ (s : State) (straps : Fin 4) (flash : List (Nat × Byte)) (otp : List (Nat × Word)) (bist : Bool), s.dev.pch.up = true →
    Makes (.porchResetExit straps flash otp bist) s [] (fun e =>
      True))
  ∧ (∀ (s : State) (cycles : Nat) (x : SafeMix), s.dev.pch.up = true → s.dev.pch.safe = some x → s.dev.on PCH_STATUS.SAFE_RUN = true →
      cycles ≤ 4166 →
    Makes (.safeFrame cycles) s [.pch, .sap, .reg Adr.PCH_PE_LOAD] (fun e =>
      e.pch = { s.dev.pch with frame := s.dev.pch.frame + 1, lines := e.pch.lines, pipe := e.pch.pipe }
      ∧ e.get PCH_PE_LOAD.CYCLES = max (s.dev.get PCH_PE_LOAD.CYCLES) (min cycles 8191)
      ∧ (∀ p, p < 2 → e.sapAt p = { s.dev.sapAt p with pe := (e.sapAt p).pe }) ∧ (∀ p, 2 ≤ p → p < 8 → e.sapAt p = s.dev.sapAt p)
      ∧ (∀ o, o < x.outs.length → ∀ t, x.outs[o]? = some t → distinctSlots x.outs = true → t.line < 2 → t.slot < 32 → t.port < 2 →
          (e.sapAt t.port).pe.getD (32 * t.line + t.slot) 0 = s.dev.pch.pipe.getD o 0)
      ∧ (∀ o, o < x.outs.length → e.pch.lines.getD o [] = ((mixOf x (x.ins.map (fun t => (s.dev.sapAt t.port).rxPrev.getD (32 * t.line + t.slot) 0)) o) :: s.dev.pch.lines.getD o []).take (x.delays.getD o 0 + 32))
      ∧ e.pch.pipe = (List.range x.outs.length).map (fun o => firOf x o (e.pch.lines.getD o []))))
  ∧ (∀ (s : State) (cycles : Nat) (x : SafeMix), s.dev.pch.up = true → s.dev.pch.safe = some x → s.dev.on PCH_STATUS.SAFE_RUN = true →
      4166 < cycles →
    Makes (.safeFrame cycles) s [.pch, .sap, .reg Adr.PCH_PE_LOAD, .reg Adr.PCH_SAFE_XRUN_CNT, .reg Adr.PCH_STATUS] (fun e =>
      e.pch = { s.dev.pch with frame := s.dev.pch.frame + 1, lines := e.pch.lines, pipe := e.pch.pipe }
      ∧ e.get PCH_PE_LOAD.CYCLES = max (s.dev.get PCH_PE_LOAD.CYCLES) (min cycles 8191)
      ∧ (∀ p, p < 2 → e.sapAt p = { s.dev.sapAt p with pe := (e.sapAt p).pe }) ∧ (∀ p, 2 ≤ p → p < 8 → e.sapAt p = s.dev.sapAt p)
      ∧ (∀ o, o < x.outs.length → ∀ t, x.outs[o]? = some t → distinctSlots x.outs = true → t.line < 2 → t.slot < 32 → t.port < 2 →
          (e.sapAt t.port).pe.getD (32 * t.line + t.slot) 0 = s.dev.pch.pipe.getD o 0)
      ∧ (∀ o, o < x.outs.length → e.pch.lines.getD o [] = ((mixOf x (x.ins.map (fun t => (s.dev.sapAt t.port).rxPrev.getD (32 * t.line + t.slot) 0)) o) :: s.dev.pch.lines.getD o []).take (x.delays.getD o 0 + 32))
      ∧ e.pch.pipe = s.dev.pch.pipe ∧ (e.reg (Adr.PCH_SAFE_XRUN_CNT)).toNat = min ((s.dev.reg (Adr.PCH_SAFE_XRUN_CNT)).toNat + 1) 0xFFFFFFFF ∧ e.reg Adr.PCH_STATUS = s.dev.fieldSet PCH_STATUS.XRUN 1))
  ∧ (∀ (s : State) (cycles : Nat), s.dev.pch.up = true → s.dev.pch.safe = none ∨ s.dev.on PCH_STATUS.SAFE_RUN = false →
    Makes (.safeFrame cycles) s [.pch] (fun e =>
      e.pch = { s.dev.pch with frame := s.dev.pch.frame + 1 }))
  ∧ (∀ (s : State) (code : BitVec 8) (pc : BitVec 23) (l : List Nat), s.dev.pch.up = true → s.dev.on PCH_STATUS.SAFE_RUN = true →
      l = s.dev.pch.faults.filter (fun t => s.dev.now - t < 800000000) → l.length < 2 →
    Makes (.peFault code pc) s [.pch, .sap, .reg Adr.PCH_PE_FAULT, .reg Adr.PCH_PE_FAULT_CNT, .reg Adr.PCH_STATUS, .reg Adr.PCH_FL_STATUS] (fun e =>
      e.get PCH_PE_FAULT.CODE = code.toNat ∧ e.get PCH_PE_FAULT.PC = pc.toNat ∧ (e.reg (Adr.PCH_PE_FAULT_CNT)).toNat = min ((s.dev.reg (Adr.PCH_PE_FAULT_CNT)).toNat + 1) 0xFFFFFFFF ∧ e.reg Adr.PCH_STATUS = ((s.dev.set PCH_STATUS.SAFE_RUN 0).set PCH_STATUS.PE_FAULT 1).reg Adr.PCH_STATUS
      ∧ e.pch = { s.dev.pch with faults := l ++ [s.dev.now], pe := .reload, pipe := [] } ∧ e.reg Adr.PCH_FL_STATUS = s.dev.fieldSet PCH_FL_STATUS.LOCKED 1 ∧ (∀ p, p < 2 → e.sapAt p = { s.dev.sapAt p with pe := List.replicate 64 0 }) ∧ (∀ p, 2 ≤ p → p < 8 → e.sapAt p = s.dev.sapAt p)))
  ∧ (∀ (s : State) (code : BitVec 8) (pc : BitVec 23) (l : List Nat), s.dev.pch.up = true → s.dev.on PCH_STATUS.SAFE_RUN = true →
      l = s.dev.pch.faults.filter (fun t => s.dev.now - t < 800000000) → 2 ≤ l.length →
    Makes (.peFault code pc) s [.pch, .sap, .reg Adr.PCH_PE_FAULT, .reg Adr.PCH_PE_FAULT_CNT, .reg Adr.PCH_STATUS] (fun e =>
      e.get PCH_PE_FAULT.CODE = code.toNat ∧ e.get PCH_PE_FAULT.PC = pc.toNat ∧ (e.reg (Adr.PCH_PE_FAULT_CNT)).toNat = min ((s.dev.reg (Adr.PCH_PE_FAULT_CNT)).toNat + 1) 0xFFFFFFFF ∧ e.reg Adr.PCH_STATUS = ((s.dev.set PCH_STATUS.SAFE_RUN 0).set PCH_STATUS.PE_FAULT 1 |>.set PCH_STATUS.SAFE_DEAD 1).reg Adr.PCH_STATUS
      ∧ e.pch = { s.dev.pch with faults := l ++ [s.dev.now], pe := .none, pipe := [] } ∧ (∀ p, p < 2 → e.sapAt p = { s.dev.sapAt p with pe := List.replicate 64 0 }) ∧ (∀ p, 2 ≤ p → p < 8 → e.sapAt p = s.dev.sapAt p)))
  ∧ (∀ (s : State) (code : BitVec 8) (pc : BitVec 23), s.dev.pch.up = true → s.dev.on PCH_STATUS.SAFE_RUN = false →
    Makes (.peFault code pc) s [] (fun e =>
      True))
  ∧ (∀ (s : State) (x : SafeMix), s.dev.pch.up = true → s.dev.pch.pe = .reload → s.dev.safeBlock = some x →
    Makes (.peRestart) s [.pch, .reg Adr.PCH_STATUS, .reg Adr.PCH_FL_STATUS] (fun e =>
      Restarted s.dev e x ∧ e.reg Adr.PCH_STATUS = s.dev.fieldSet PCH_STATUS.SAFE_RUN 1 ∧ e.reg Adr.PCH_FL_STATUS = s.dev.fieldSet PCH_FL_STATUS.LOCKED 0))
  ∧ (∀ s : State, s.dev.pch.up = true → s.dev.pch.pe = .reload → s.dev.safeBlock = none →
    Makes (.peRestart) s [.pch, .reg Adr.PCH_STATUS, .reg Adr.PCH_FL_STATUS] (fun e =>
      e.pch = { s.dev.pch with pe := .none } ∧ e.reg Adr.PCH_STATUS = s.dev.fieldSet PCH_STATUS.SAFE_BAD 1 ∧ e.reg Adr.PCH_FL_STATUS = s.dev.fieldSet PCH_FL_STATUS.LOCKED 0))
  ∧ (∀ s : State, s.dev.pch.up = true → s.dev.pch.pe ≠ .reload →
    Makes (.peRestart) s [] (fun e =>
      True))
  ∧ (∀ (s : State) (m : Master) (v : Word), TakesPch s.dev m → v.toNat % 16 = 1 →
    Makes (.pchForceSafe m v) s [.resp, .sap, .reg Adr.PCH_STATUS, .reg (Adr.PCH_SAFE_OWN 0), .reg (Adr.PCH_SAFE_OWN 1)] (fun e =>
      e.resp = .okay 0 ∧ TakesBack s.dev e ∧ e.reg Adr.PCH_STATUS = s.dev.fieldSet PCH_STATUS.FORCED 1 ∧ ∀ p, 2 ≤ p → p < 8 → e.sapAt p = s.dev.sapAt p))
  ∧ (∀ (s : State) (m : Master) (v : Word) (p : Nat), TakesPch s.dev m → v.toNat % 16 = 2 → s.dev.usesPort p →
      s.dev.on (PCH_SAFE_OWN.ACT p) = false →
    Makes (.safeReload m v) s [.resp, .reg Adr.PCH_STATUS] (fun e =>
      e.resp = .okay 0 ∧ e.reg Adr.PCH_STATUS = s.dev.fieldSet PCH_STATUS.IGNORED 1))
  ∧ (∀ (s : State) (m : Master) (v : Word), TakesPch s.dev m → v.toNat % 16 = 2 →
      (∀ p, s.dev.usesPort p → s.dev.on (PCH_SAFE_OWN.ACT p) = true) → s.dev.safeBlock = none →
    Makes (.safeReload m v) s [.resp] (fun e =>
      e.resp = .okay 0))
  ∧ (∀ (s : State) (m : Master) (v : Word) (x : SafeMix), TakesPch s.dev m → v.toNat % 16 = 2 →
      (∀ p, s.dev.usesPort p → s.dev.on (PCH_SAFE_OWN.ACT p) = true) → s.dev.safeBlock = some x → s.dev.pch.pe = .held →
    Makes (.safeReload m v) s [.resp, .pch] (fun e =>
      e.resp = .okay 0 ∧ e.pch = { s.dev.pch with safe := some x }))
  ∧ (∀ (s : State) (m : Master) (v : Word) (x : SafeMix), TakesPch s.dev m → v.toNat % 16 = 2 →
      (∀ p, s.dev.usesPort p → s.dev.on (PCH_SAFE_OWN.ACT p) = true) → s.dev.safeBlock = some x → s.dev.pch.pe ≠ .held →
    Makes (.safeReload m v) s [.resp, .pch, .reg Adr.PCH_STATUS, .reg Adr.PCH_FL_STATUS] (fun e =>
      e.resp = .okay 0 ∧ Restarted (s.dev.setPch { s.dev.pch with faults := [] }) e x
      ∧ e.reg Adr.PCH_STATUS = ((s.dev.set PCH_STATUS.SAFE_DEAD 0).set PCH_STATUS.SAFE_RUN 1).reg Adr.PCH_STATUS
      ∧ e.reg Adr.PCH_FL_STATUS = s.dev.fieldSet PCH_FL_STATUS.LOCKED 0))
  ∧ (∀ (s : State) (m : Master) (v : Word) (i : Instr), Served s.dev m → m.priv = false → m.num ≠ 19 →
      i = .pchForceSafe m v ∨ i = .safeReload m v ∨ i = .stbyEnter m v ∨ i = .pchThermClear m v ∨ i = .otpProgram m v ∨ i = .flashRead m v
        ∨ i = .flashProgram m v ∨ i = .flashErase4k m v ∨ i = .flashErase64k m v ∨ (i = .hbootGo m v ∧ (m.num ≠ 20 ∨ s.dev.get PCH_BOOT_STATUS.CODE ≠ 9)) →
    Makes (i) s [.resp, .reg Adr.PCH_STATUS, .reg Adr.PCH_IGNORED_CNT] (fun e =>
      e.resp = .okay 0 ∧ (e.reg (Adr.PCH_IGNORED_CNT)).toNat = min ((s.dev.reg (Adr.PCH_IGNORED_CNT)).toNat + 1) 0xFFFFFFFF ∧ e.reg Adr.PCH_STATUS = s.dev.fieldSet PCH_STATUS.IGNORED 1))
  ∧ (∀ (s : State) (l : List (Nat × Nat)), s.dev.pch.up = true →
      (∀ i, i < 8 → unitState (s.dev.upset (porchBase + s.dev.ecc.pscrub % 0x80000) l).ecc ((porchBase + s.dev.ecc.pscrub % 0x80000) + 8 * i) = .clean) →
    Makes (.porchScrubLine l) s [.ecc] (fun e =>
      e.ecc = { (s.dev.upset (porchBase + s.dev.ecc.pscrub % 0x80000) l).ecc with pscrub := (s.dev.ecc.pscrub + 64) % 0x80000 }))
  ∧ (∀ (s : State) (l : List (Nat × Nat)) (k : Nat), s.dev.pch.up = true → k < 8 →
      (∀ i, i < 8 → i ≠ k → unitState (s.dev.upset (porchBase + s.dev.ecc.pscrub % 0x80000) l).ecc ((porchBase + s.dev.ecc.pscrub % 0x80000) + 8 * i) = .clean) →
      unitState (s.dev.upset (porchBase + s.dev.ecc.pscrub % 0x80000) l).ecc ((porchBase + s.dev.ecc.pscrub % 0x80000) + 8 * k) = .ue →
    Makes (.porchScrubLine l) s [.ecc, .reg Adr.PCH_SRAM_STATUS, .reg Adr.PCH_SRAM_UE_CNT, .reg Adr.PCH_SRAM_ERR_ADDR, .reg Adr.PCH_STATUS] (fun e =>
      (e.reg (Adr.PCH_SRAM_UE_CNT)).toNat = min ((s.dev.reg (Adr.PCH_SRAM_UE_CNT)).toNat + 1) 0xFFFFFFFF ∧ e.on PCH_SRAM_STATUS.UE = true ∧ e.on PCH_STATUS.SRAM_UE = true ∧ unitState e.ecc ((porchBase + s.dev.ecc.pscrub % 0x80000) + 8 * k) = .poisoned ∧ e.ecc.pscrub = (s.dev.ecc.pscrub + 64) % 0x80000))
  ∧ (∀ (s : State) (l : List (Nat × Nat)) (k : Nat), s.dev.pch.up = true → k < 8 →
      (∀ i, i < 8 → i ≠ k → unitState (s.dev.upset (porchBase + s.dev.ecc.pscrub % 0x80000) l).ecc ((porchBase + s.dev.ecc.pscrub % 0x80000) + 8 * i) = .clean) →
      unitState (s.dev.upset (porchBase + s.dev.ecc.pscrub % 0x80000) l).ecc ((porchBase + s.dev.ecc.pscrub % 0x80000) + 8 * k) = .ceData →
    Makes (.porchScrubLine l) s [.ecc, .reg Adr.PCH_SRAM_STATUS, .reg Adr.PCH_SRAM_CE_CNT] (fun e =>
      (e.reg (Adr.PCH_SRAM_CE_CNT)).toNat = min ((s.dev.reg (Adr.PCH_SRAM_CE_CNT)).toNat + 1) 0xFFFFFFFF ∧ e.on PCH_SRAM_STATUS.CE = true ∧ unitState e.ecc ((porchBase + s.dev.ecc.pscrub % 0x80000) + 8 * k) = .clean ∧ e.ecc.pscrub = (s.dev.ecc.pscrub + 64) % 0x80000))

/-- CHIP_PG_RISE, STBY_ENTER, STANDBY_WAKE, PCH_THERM_CLEAR, WATCHDOG_KICK, WATCHDOG_EXPIRY, WD_CORE_RESET_RELEASE, THERMAL_SAMPLE
(R511, R512, R526, R543, R545 to R549, R551, R558): the porch puts the chip domain into standby and wakes it, acts on watchdogs,
and trips on temperature. -/
def Obligations.PorchWatch : Prop :=
  (∀ s : State,
    Makes (.chipPgRise) s [.pch] (fun e =>
      e.pch = { s.dev.pch with chipPg := true }))
  ∧ (∀ (s : State) (m : Master) (v : Word), TakesPch s.dev m → v.toNat % 16 = 4 → s.dev.chipOn = true →
      s.dev.on PCH_CFG.SAFE_IN_STBY = true →
    Makes (.stbyEnter m v) s (.resp :: resetParts) (fun e =>
      e.resp = .okay 0 ∧ ChipOff s.dev e ∧ TakesBack s.dev e ∧ Keeps [Adr.PCH_STATUS, Adr.PCH_WAKE_CAUSE, Adr.PCH_SAFE_OWN 0, Adr.PCH_SAFE_OWN 1, Adr.PCH_WD_CFG 0, Adr.PCH_WD_CFG 1] s.dev e
      ∧ e.reg Adr.PCH_STATUS = ((s.dev.set PCH_STATUS.FORCED 1).set PCH_STATUS.CHIP 3).reg Adr.PCH_STATUS
      ∧ e.reg Adr.PCH_WAKE_CAUSE = s.dev.fieldSet PCH_WAKE_CAUSE.CAUSE 0 ∧ e.pch = { s.dev.pch with wakeOut := false }))
  ∧ (∀ (s : State) (m : Master) (v : Word), TakesPch s.dev m → v.toNat % 16 = 4 → s.dev.chipOn = true →
      s.dev.on PCH_CFG.SAFE_IN_STBY = false →
    Makes (.stbyEnter m v) s (.resp :: resetParts) (fun e =>
      e.resp = .okay 0 ∧ ChipOff s.dev e ∧ Keeps [Adr.PCH_STATUS, Adr.PCH_WAKE_CAUSE, Adr.SAP_CTRL 0, Adr.SAP_CTRL 1, Adr.PCH_WD_CFG 0, Adr.PCH_WD_CFG 1] s.dev e ∧ e.reg Adr.PCH_STATUS = s.dev.fieldSet PCH_STATUS.CHIP 3
      ∧ e.reg Adr.PCH_WAKE_CAUSE = s.dev.fieldSet PCH_WAKE_CAUSE.CAUSE 0 ∧ e.pch = { s.dev.pch with wakeOut := false } ∧ (∀ p, p < 2 → e.on (SAP_CTRL.EN p) = false
        ∧ ((s.dev.sapAt p).phase = .running → (e.sapAt p).phase = .ramping)
        ∧ (((s.dev.sapAt p).phase = .waiting ∨ ∃ n, (s.dev.sapAt p).phase = .silent n) → (e.sapAt p).phase = .ending (max 1 (s.dev.get (SAP_START.FRAMES p))))
        ∧ (((s.dev.sapAt p).phase = .stopped ∨ (s.dev.sapAt p).phase = .ramping ∨ ∃ n, (s.dev.sapAt p).phase = .ending n) → e.sapAt p = s.dev.sapAt p))))
  ∧ (∀ (s : State) (m : Master) (v : Word), TakesPch s.dev m → v.toNat % 16 = 4 → s.dev.chipOn = false →
    Makes (.stbyEnter m v) s [.resp] (fun e =>
      e.resp = .okay 0))
  ∧ (∀ s : State, s.dev.pch.up = true → s.dev.inStandby = true →
      (s.dev.get (MAC0_WAKE_STATUS.PAT_HIT 0) ≠ 0 ∨ s.dev.on (MAC0_WAKE_STATUS.MAGIC_HIT 0) = true) →
    Makes (.standbyWake) s [.pch, .reg Adr.PCH_STATUS, .reg Adr.PCH_WAKE_CAUSE] (fun e =>
      e.pch = { s.dev.pch with wakeOut := true, wakeDue := true } ∧ e.reg Adr.PCH_STATUS = s.dev.fieldSet PCH_STATUS.CHIP 0
      ∧ e.get PCH_WAKE_CAUSE.CAUSE = s.dev.get PCH_WAKE_CAUSE.CAUSE ||| (b2n (s.dev.get (MAC0_WAKE_STATUS.PAT_HIT 0) != 0) + 2 * b2n (s.dev.on (MAC0_WAKE_STATUS.MAGIC_HIT 0)))))
  ∧ (∀ s : State, s.dev.pch.up = true →
      s.dev.inStandby = false ∨ ¬(s.dev.get (MAC0_WAKE_STATUS.PAT_HIT 0) ≠ 0 ∨ s.dev.on (MAC0_WAKE_STATUS.MAGIC_HIT 0) = true) →
    Makes (.standbyWake) s [] (fun e =>
      True))
  ∧ (∀ (s : State) (m : Master) (v : Word), TakesPch s.dev m → v.toNat % 16 = 8 → s.dev.on PCH_STATUS.TRIPPED = true →
      (∀ i, i < 8 → signedOf 16 (s.dev.get (PCH_TEMP.TEMP i)) < 16 * (s.dev.get PCH_THERM_CFG.CLEAR_BELOW : Int)) →
    Makes (.pchThermClear m v) s [.resp, .pch, .reg Adr.PCH_STATUS, .reg Adr.PCH_THERM_STATUS, .reg Adr.PCH_WAKE_CAUSE] (fun e =>
      e.resp = .okay 0 ∧ e.pch = { s.dev.pch with wakeOut := true } ∧ e.reg Adr.PCH_STATUS = s.dev.fieldSet PCH_STATUS.TRIPPED 0
      ∧ e.reg Adr.PCH_THERM_STATUS = s.dev.fieldSet PCH_THERM_STATUS.TRIP_SENSOR 0
      ∧ e.get PCH_WAKE_CAUSE.CAUSE = s.dev.get PCH_WAKE_CAUSE.CAUSE ||| 8))
  ∧ (∀ (s : State) (m : Master) (v : Word) (i : Nat), TakesPch s.dev m → v.toNat % 16 = 8 →
      s.dev.on PCH_STATUS.TRIPPED = false ∨ 16 * (s.dev.get PCH_THERM_CFG.CLEAR_BELOW : Int) ≤ signedOf 16 (s.dev.get (PCH_TEMP.TEMP i)) →
      i < 8 →
    Makes (.pchThermClear m v) s [.resp] (fun e =>
      e.resp = .okay 0))
  ∧ (∀ (s : State) (m : Master) (c : CoreIx) (v : Word), Served s.dev m → m.num ≠ 17 + c →
    Makes (.watchdogKick m c v) s [.resp, .reg Adr.PCH_STATUS, .reg Adr.PCH_IGNORED_CNT] (fun e =>
      e.resp = .okay 0 ∧ (e.reg (Adr.PCH_IGNORED_CNT)).toNat = min ((s.dev.reg (Adr.PCH_IGNORED_CNT)).toNat + 1) 0xFFFFFFFF ∧ e.reg Adr.PCH_STATUS = s.dev.fieldSet PCH_STATUS.IGNORED 1))
  ∧ (∀ (s : State) (m : Master) (c : CoreIx) (v : Word), Served s.dev m → m.num = 17 + c → s.dev.on (PCH_WD_CFG.EN c) = false →
    Makes (.watchdogKick m c v) s [.resp] (fun e =>
      e.resp = .okay 0))
  ∧ (∀ (s : State) (m : Master) (c : CoreIx) (v : Word), Served s.dev m → m.num = 17 + c → s.dev.on (PCH_WD_CFG.EN c) = true →
      v = 0x5A5A#32 →
    Makes (.watchdogKick m c v) s [.resp, .pch] (fun e =>
      e.resp = .okay 0 ∧ e.pch = { s.dev.pch with wd := vput s.dev.pch.wd c s.dev.now }))
  ∧ (∀ (s : State) (m : Master) (c : CoreIx) (v : Word), Served s.dev m → m.num = 17 + c → s.dev.on (PCH_WD_CFG.EN c) = true →
      v ≠ 0x5A5A#32 → s.dev.otherWatches c →
    Makes (.watchdogKick m c v) s (.resp :: coreExpiry c) (fun e =>
      e.resp = .okay 0 ∧ CoreExpires s.dev e c))
  ∧ (∀ (s : State) (m : Master) (c : CoreIx) (v : Word), Served s.dev m → m.num = 17 + c → s.dev.on (PCH_WD_CFG.EN c) = true →
      v ≠ 0x5A5A#32 → ¬s.dev.otherWatches c → s.dev.pch.up = true → s.dev.on PCH_STATUS.TRIPPED = false →
    Makes (.watchdogKick m c v) s (.resp :: resetParts) (fun e =>
      e.resp = .okay 0 ∧ WarmReset (s.dev.expired c 1) e 4))
  ∧ (∀ (s : State) (chans : BitVec 2) (c : CoreIx), s.dev.pch.up = true → (chans.getLsbD c = true ∧ s.dev.ranOut c) →
      ¬(chans.getLsbD (1 - c.val) = true ∧ s.dev.ranOut (1 - c.val)) → s.dev.otherWatches c →
      (s.dev.reg Adr.RST_SC).getLsbD c = false →
    Makes (.watchdogExpiry chans) s (coreExpiry c) (fun e =>
      CoreExpires s.dev e c))
  ∧ (∀ (s : State) (chans : BitVec 2) (c : CoreIx), s.dev.pch.up = true → (chans.getLsbD c = true ∧ s.dev.ranOut c) →
      ¬(chans.getLsbD (1 - c.val) = true ∧ s.dev.ranOut (1 - c.val)) → ¬s.dev.otherWatches c → s.dev.inStandby = false →
      s.dev.on PCH_STATUS.TRIPPED = false →
    Makes (.watchdogExpiry chans) s resetParts (fun e =>
      WarmReset (s.dev.expired c 1) e 4))
  ∧ (∀ (s : State) (chans : BitVec 2), s.dev.pch.up = true → (chans.getLsbD 0 = true ∧ s.dev.ranOut 0) →
      (chans.getLsbD 1 = true ∧ s.dev.ranOut 1) → s.dev.inStandby = false → s.dev.on PCH_STATUS.TRIPPED = false →
    Makes (.watchdogExpiry chans) s resetParts (fun e =>
      WarmReset (s.dev.expired 0 2) e 4))
  ∧ (∀ (s : State) (chans : BitVec 2), s.dev.pch.up = true → ¬(chans.getLsbD 0 = true ∧ s.dev.ranOut 0) →
      ¬(chans.getLsbD 1 = true ∧ s.dev.ranOut 1) →
    Makes (.watchdogExpiry chans) s [] (fun e =>
      True))
  ∧ (∀ (s : State) (c : CoreIx), s.dev.pch.up = true → c.val ∈ s.dev.clk.wdHeld → (s.dev.reg Adr.RST_SC).getLsbD c = true →
    Makes (.wdCoreResetRelease c) s [.clk, .reg Adr.RST_SC, .reg (Adr.FAB_MSTR_STATUS (17 + c))] (fun e =>
      e.clk = { s.dev.clk with wdHeld := s.dev.clk.wdHeld.filter (fun k => k ≠ c.val) }
      ∧ e.reg Adr.RST_SC = s.dev.reg Adr.RST_SC &&& ~~~BitVec.ofNat 32 (2 ^ c.val)
      ∧ e.reg (Adr.FAB_MSTR_STATUS (17 + c)) = if (s.dev.reg Adr.RST_SC_BUSY).getLsbD c then s.dev.reg (Adr.FAB_MSTR_STATUS (17 + c)) else s.dev.fieldSet (FAB_MSTR_STATUS.IN_RESET (17 + c)) 0))
  ∧ (∀ (s : State) (c : CoreIx), s.dev.pch.up = true → c.val ∉ s.dev.clk.wdHeld →
    Makes (.wdCoreResetRelease c) s [] (fun e =>
      True))
  ∧ (∀ (s : State) (t : List (BitVec 16)), s.dev.pch.up = true → t.length = 8 →
      twiceHot s.dev t = [] ∨ s.dev.on PCH_STATUS.TRIPPED = true →
    Makes (.thermalSample t) s [.pch, .reg Adr.PCH_STATUS, .reg Adr.PCH_THERM_STATUS, .reg (Adr.PCH_TEMP 0), .reg (Adr.PCH_TEMP 1), .reg (Adr.PCH_TEMP 2), .reg (Adr.PCH_TEMP 3), .reg (Adr.PCH_TEMP 4), .reg (Adr.PCH_TEMP 5), .reg (Adr.PCH_TEMP 6), .reg (Adr.PCH_TEMP 7)] (fun e =>
      Sampled s.dev e t ∧ e.pch = { s.dev.pch with hot := e.pch.hot }
      ∧ e.get PCH_THERM_STATUS.TRIP_SENSOR = s.dev.get PCH_THERM_STATUS.TRIP_SENSOR
      ∧ e.reg Adr.PCH_STATUS = s.dev.fieldSet PCH_STATUS.THERM_WARN (if (e.reg Adr.PCH_THERM_STATUS).toNat % 256 = 0 then 0 else 1)))
  ∧ (∀ (s : State) (t : List (BitVec 16)), s.dev.pch.up = true → t.length = 8 → twiceHot s.dev t ≠ [] →
      s.dev.on PCH_STATUS.TRIPPED = false →
    Makes (.thermalSample t) s resetParts (fun e =>
      Sampled s.dev e t ∧ ChipOff s.dev e ∧ TakesBack s.dev e ∧ Keeps [Adr.PCH_STATUS, Adr.PCH_THERM_STATUS, Adr.PCH_TEMP 0, Adr.PCH_TEMP 1, Adr.PCH_TEMP 2, Adr.PCH_TEMP 3, Adr.PCH_TEMP 4, Adr.PCH_TEMP 5, Adr.PCH_TEMP 6, Adr.PCH_TEMP 7, Adr.PCH_SAFE_OWN 0, Adr.PCH_SAFE_OWN 1, Adr.PCH_WD_CFG 0, Adr.PCH_WD_CFG 1] s.dev e
      ∧ e.get PCH_THERM_STATUS.TRIP_SENSOR = ((twiceHot s.dev t).map (fun i => 2 ^ i)).sum ∧ e.on PCH_STATUS.TRIPPED = true ∧ e.get PCH_STATUS.CHIP = 0
      ∧ e.on PCH_STATUS.FORCED = true ∧ e.pch = { s.dev.pch with hot := e.pch.hot, wakeOut := false }))

/-- OTP_PROGRAM, FLASH_READ, FLASH_PROGRAM, FLASH_ERASE_4K, FLASH_ERASE_64K, FLASH_OP_DONE, HBOOT_GO (R538 to R540, R557, R558): OTP
bits only rise, and only where they may; flash operations start, end, read, program and erase; the boot ROM checks a host-loaded
image before it starts it. -/
def Obligations.FlashAndBoot : Prop :=
  (∀ (s : State) (m : Master) (v : Word) (k : Nat), TakesPch s.dev m →
      k = (if s.dev.secure = false then 0xFFFFFFFF else if s.dev.get PCH_OTP_ADDR.WORD = 1 then 0x3C else if 2 ≤ s.dev.get PCH_OTP_ADDR.WORD ∧ s.dev.get PCH_OTP_ADDR.WORD < 10 then 0xFFFFFFFF else 0) →
      (∀ i, i < 32 → v.getLsbD i = true → k.testBit i = true ∨ (s.dev.otpWord (s.dev.get PCH_OTP_ADDR.WORD)).testBit i = true) →
    Makes (.otpProgram m v) s [.resp, .pch] (fun e =>
      e.resp = .okay 0 ∧ e.pch = { s.dev.pch with otp := e.pch.otp }
      ∧ ∀ j, e.otpWord j = if j = s.dev.get PCH_OTP_ADDR.WORD then s.dev.otpWord j ||| (v.toNat &&& k) else s.dev.otpWord j))
  ∧ (∀ (s : State) (m : Master) (v : Word) (k : Nat), TakesPch s.dev m →
      k = (if s.dev.secure = false then 0xFFFFFFFF else if s.dev.get PCH_OTP_ADDR.WORD = 1 then 0x3C else if 2 ≤ s.dev.get PCH_OTP_ADDR.WORD ∧ s.dev.get PCH_OTP_ADDR.WORD < 10 then 0xFFFFFFFF else 0) →
      ¬(∀ i, i < 32 → v.getLsbD i = true → k.testBit i = true ∨ (s.dev.otpWord (s.dev.get PCH_OTP_ADDR.WORD)).testBit i = true) →
    Makes (.otpProgram m v) s [.resp, .reg Adr.PCH_STATUS, .reg Adr.PCH_IGNORED_CNT, .pch] (fun e =>
      e.resp = .okay 0 ∧ (e.reg (Adr.PCH_IGNORED_CNT)).toNat = min ((s.dev.reg (Adr.PCH_IGNORED_CNT)).toNat + 1) 0xFFFFFFFF ∧ e.reg Adr.PCH_STATUS = s.dev.fieldSet PCH_STATUS.IGNORED 1 ∧ e.pch = { s.dev.pch with otp := e.pch.otp }
      ∧ ∀ j, e.otpWord j = if j = s.dev.get PCH_OTP_ADDR.WORD then s.dev.otpWord j ||| (v.toNat &&& k) else s.dev.otpWord j))
  ∧ (∀ (s : State) (m : Master) (v : Word) (op : Nat) (i : Instr), TakesPch s.dev m → v.getLsbD 8 = true → v.toNat % 4 = op →
      (op = 0 ∧ i = .flashRead m v) ∨ (op = 1 ∧ i = .flashProgram m v) ∨ (op = 2 ∧ i = .flashErase4k m v) ∨ (op = 3 ∧ i = .flashErase64k m v) →
      s.dev.on PCH_FL_STATUS.LOCKED = true →
    Makes (i) s [.resp, .reg Adr.PCH_FL_CMD, .reg Adr.PCH_FL_STATUS] (fun e =>
      e.resp = .okay 0 ∧ e.reg Adr.PCH_FL_CMD = s.dev.fieldSet PCH_FL_CMD.OP op ∧ e.reg Adr.PCH_FL_STATUS = s.dev.fieldSet PCH_FL_STATUS.ERR 1))
  ∧ (∀ (s : State) (m : Master) (v : Word) (op : Nat) (i : Instr), TakesPch s.dev m → v.getLsbD 8 = true → v.toNat % 4 = op →
      (op = 0 ∧ i = .flashRead m v) ∨ (op = 1 ∧ i = .flashProgram m v) ∨ (op = 2 ∧ i = .flashErase4k m v) ∨ (op = 3 ∧ i = .flashErase64k m v) →
      s.dev.on PCH_FL_STATUS.LOCKED = false → s.dev.on PCH_FL_STATUS.BUSY = true →
    Makes (i) s [.resp, .reg Adr.PCH_FL_CMD] (fun e =>
      e.resp = .okay 0 ∧ e.reg Adr.PCH_FL_CMD = s.dev.fieldSet PCH_FL_CMD.OP op))
  ∧ (∀ (s : State) (m : Master) (v : Word) (op : Nat) (i : Instr), TakesPch s.dev m → v.getLsbD 8 = true → v.toNat % 4 = op →
      (op = 0 ∧ i = .flashRead m v) ∨ (op = 1 ∧ i = .flashProgram m v) ∨ (op = 2 ∧ i = .flashErase4k m v) ∨ (op = 3 ∧ i = .flashErase64k m v) →
      s.dev.on PCH_FL_STATUS.LOCKED = false → s.dev.on PCH_FL_STATUS.BUSY = false → op < 2 →
      ¬(0x10000000 ≤ s.dev.get64 Adr.PCH_FL_MEM_LO ∧ s.dev.get64 Adr.PCH_FL_MEM_LO + s.dev.get PCH_FL_LEN.LEN ≤ 0x14000000) →
    Makes (i) s [.resp, .reg Adr.PCH_FL_CMD, .reg Adr.PCH_FL_STATUS] (fun e =>
      e.resp = .okay 0 ∧ e.reg Adr.PCH_FL_CMD = s.dev.fieldSet PCH_FL_CMD.OP op ∧ e.reg Adr.PCH_FL_STATUS = s.dev.fieldSet PCH_FL_STATUS.ERR 1))
  ∧ (∀ (s : State) (m : Master) (v : Word) (op : Nat) (i : Instr), TakesPch s.dev m → v.getLsbD 8 = true → v.toNat % 4 = op →
      (op = 0 ∧ i = .flashRead m v) ∨ (op = 1 ∧ i = .flashProgram m v) ∨ (op = 2 ∧ i = .flashErase4k m v) ∨ (op = 3 ∧ i = .flashErase64k m v) →
      s.dev.on PCH_FL_STATUS.LOCKED = false → s.dev.on PCH_FL_STATUS.BUSY = false →
      2 ≤ op ∨ (0x10000000 ≤ s.dev.get64 Adr.PCH_FL_MEM_LO ∧ s.dev.get64 Adr.PCH_FL_MEM_LO + s.dev.get PCH_FL_LEN.LEN ≤ 0x14000000) →
    Makes (i) s [.resp, .reg Adr.PCH_FL_CMD, .reg Adr.PCH_FL_STATUS, .pch] (fun e =>
      e.resp = .okay 0 ∧ e.reg Adr.PCH_FL_CMD = s.dev.fieldSet PCH_FL_CMD.OP op ∧ e.reg Adr.PCH_FL_STATUS = s.dev.fieldSet PCH_FL_STATUS.BUSY 1
      ∧ e.pch = { s.dev.pch with flOp := some ⟨op, (s.dev.reg Adr.PCH_FL_ADDR).toNat, s.dev.get PCH_FL_LEN.LEN, s.dev.get64 Adr.PCH_FL_MEM_LO⟩ }))
  ∧ (∀ (s : State) (bad : Bool), s.dev.pch.up = true → s.dev.pch.flOp = none →
    Makes (.flashOpDone bad) s [] (fun e =>
      True))
  ∧ (∀ (s : State) (bad : Bool) (f : FlashOp), s.dev.pch.up = true → s.dev.pch.flOp = some f → bad = true →
    Makes (.flashOpDone bad) s [.pch, .reg Adr.PCH_FL_STATUS] (fun e =>
      e.pch = { s.dev.pch with flOp := none } ∧ e.reg Adr.PCH_FL_STATUS = ((s.dev.set PCH_FL_STATUS.BUSY 0).set PCH_FL_STATUS.ERR 1).reg Adr.PCH_FL_STATUS))
  ∧ (∀ (s : State) (bad : Bool) (f : FlashOp), s.dev.pch.up = true → s.dev.pch.flOp = some f → bad = false → f.op = 0 →
      FlashOpen s.dev f.mem f.len →
    Makes (.flashOpDone bad) s [.pch, .mem, .ecc, .reg Adr.PCH_FL_STATUS] (fun e =>
      e.pch = { s.dev.pch with flOp := none } ∧ e.reg Adr.PCH_FL_STATUS = ((s.dev.set PCH_FL_STATUS.BUSY 0).set PCH_FL_STATUS.DONE 1).reg Adr.PCH_FL_STATUS ∧ MemOnly [(f.mem, f.len)] s.dev e
      ∧ ∀ j, j < f.len → e.byteAt (f.mem + j) = s.dev.flashCell (f.addr + j)))
  ∧ (∀ (s : State) (bad : Bool) (f : FlashOp), s.dev.pch.up = true → s.dev.pch.flOp = some f → bad = false → f.op = 1 → f.addr < 2 ^ 32 →
      FlashOpen s.dev f.mem (min f.len 256) →
    Makes (.flashOpDone bad) s [.pch, .reg Adr.PCH_FL_STATUS] (fun e =>
      e.pch = { s.dev.pch with flOp := none, flash := e.pch.flash } ∧ e.reg Adr.PCH_FL_STATUS = ((s.dev.set PCH_FL_STATUS.BUSY 0).set PCH_FL_STATUS.DONE 1).reg Adr.PCH_FL_STATUS
      ∧ ∀ a, e.flashCell a = if a / 256 = f.addr / 256 ∧ ((a % 256 + 256 - f.addr % 256) % 256) < min f.len 256 then s.dev.flashCell a &&& s.dev.byteAt (f.mem + ((a % 256 + 256 - f.addr % 256) % 256)) else s.dev.flashCell a))
  ∧ (∀ (s : State) (bad : Bool) (f : FlashOp), s.dev.pch.up = true → s.dev.pch.flOp = some f → bad = false → f.op = 2 →
    Makes (.flashOpDone bad) s [.pch, .reg Adr.PCH_FL_STATUS] (fun e =>
      e.pch = { s.dev.pch with flOp := none, flash := e.pch.flash } ∧ e.reg Adr.PCH_FL_STATUS = ((s.dev.set PCH_FL_STATUS.BUSY 0).set PCH_FL_STATUS.DONE 1).reg Adr.PCH_FL_STATUS
      ∧ ∀ a, e.flashCell a = if a / 4096 = f.addr / 4096 then 0xFF else s.dev.flashCell a))
  ∧ (∀ (s : State) (bad : Bool) (f : FlashOp), s.dev.pch.up = true → s.dev.pch.flOp = some f → bad = false → f.op = 3 →
    Makes (.flashOpDone bad) s [.pch, .reg Adr.PCH_FL_STATUS] (fun e =>
      e.pch = { s.dev.pch with flOp := none, flash := e.pch.flash } ∧ e.reg Adr.PCH_FL_STATUS = ((s.dev.set PCH_FL_STATUS.BUSY 0).set PCH_FL_STATUS.DONE 1).reg Adr.PCH_FL_STATUS
      ∧ ∀ a, e.flashCell a = if a / 65536 = f.addr / 65536 then 0xFF else s.dev.flashCell a))
  ∧ (∀ (s : State) (m : Master) (v : Word), TakesPch s.dev m → v.getLsbD 0 = true → s.dev.get PCH_BOOT_STATUS.CODE ≠ 9 →
    Makes (.hbootGo m v) s [.resp] (fun e =>
      e.resp = .okay 0))
  ∧ (∀ (s : State) (m : Master) (v : Word), TakesPch s.dev m ∨ (Served s.dev m ∧ m.num = 20) → v.getLsbD 0 = true →
      s.dev.get PCH_BOOT_STATUS.CODE = 9 → s.dev.get PCH_HBOOT_LEN.LEN = 0 →
    Makes (.hbootGo m v) s [.resp, .reg Adr.PCH_BOOT_STATUS] (fun e =>
      e.resp = .okay 0 ∧ e.reg Adr.PCH_BOOT_STATUS = s.dev.fieldSet PCH_BOOT_STATUS.LAST_ERR 2))
  ∧ (∀ (s : State) (m : Master) (v : Word) (n : Nat) (l : List Byte), TakesPch s.dev m ∨ (Served s.dev m ∧ m.num = 20) →
      v.getLsbD 0 = true → s.dev.get PCH_BOOT_STATUS.CODE = 9 → n = s.dev.get PCH_HBOOT_LEN.LEN → n ≠ 0 → l.length = max n 768 →
      Reads s.dev 17 0x12000000 l → ¬HeadGood l →
    Makes (.hbootGo m v) s [.resp, .reg Adr.PCH_BOOT_STATUS, .reg Adr.HIF_CTRL] (fun e =>
      e.resp = .okay 0 ∧ WaitsFor s.dev e 3))
  ∧ (∀ (s : State) (m : Master) (v : Word) (n : Nat) (l : List Byte), TakesPch s.dev m ∨ (Served s.dev m ∧ m.num = 20) →
      v.getLsbD 0 = true → s.dev.get PCH_BOOT_STATUS.CODE = 9 → n = s.dev.get PCH_HBOOT_LEN.LEN → n ≠ 0 → l.length = max n 768 →
      Reads s.dev 17 0x12000000 l → HeadGood l → ¬SegsGood l n →
    Makes (.hbootGo m v) s [.resp, .reg Adr.PCH_BOOT_STATUS, .reg Adr.HIF_CTRL] (fun e =>
      e.resp = .okay 0 ∧ WaitsFor s.dev e 7))
  ∧ (∀ (s : State) (m : Master) (v : Word) (n : Nat) (l : List Byte), TakesPch s.dev m ∨ (Served s.dev m ∧ m.num = 20) →
      v.getLsbD 0 = true → s.dev.get PCH_BOOT_STATUS.CODE = 9 → n = s.dev.get PCH_HBOOT_LEN.LEN → n ≠ 0 → l.length = max n 768 →
      Reads s.dev 17 0x12000000 l → HeadGood l → SegsGood l n → s.dev.secure = false → s.dev.on ECC_INJ_CTRL.ARM = false →
      (∀ x ∈ segsOfImage l, ∀ u ∈ unitsOf x.load x.len, unitState s.dev.ecc u = .clean) →
    Makes (.hbootGo m v) s [.resp, .reg Adr.PCH_BOOT_STATUS, .reg Adr.PCH_STATUS, .mem, .ecc] (fun e =>
      e.resp = .okay 0 ∧ Loaded s.dev e l ∧ Booted s.dev e l 0 true))
  ∧ (∀ (s : State) (m : Master) (v : Word) (n : Nat) (l : List Byte), TakesPch s.dev m ∨ (Served s.dev m ∧ m.num = 20) →
      v.getLsbD 0 = true → s.dev.get PCH_BOOT_STATUS.CODE = 9 → n = s.dev.get PCH_HBOOT_LEN.LEN → n ≠ 0 → l.length = max n 768 →
      Reads s.dev 17 0x12000000 l → HeadGood l → SegsGood l n → s.dev.secure = true → s.dev.keySlot (slice l 24 96) = none →
    Makes (.hbootGo m v) s [.resp, .reg Adr.PCH_BOOT_STATUS, .reg Adr.HIF_CTRL] (fun e =>
      e.resp = .okay 0 ∧ WaitsFor s.dev e 4))
  ∧ (∀ (s : State) (m : Master) (v : Word) (n : Nat) (l : List Byte) (k : Nat), TakesPch s.dev m ∨ (Served s.dev m ∧ m.num = 20) →
      v.getLsbD 0 = true → s.dev.get PCH_BOOT_STATUS.CODE = 9 → n = s.dev.get PCH_HBOOT_LEN.LEN → n ≠ 0 → l.length = max n 768 →
      Reads s.dev 17 0x12000000 l → HeadGood l → SegsGood l n → s.dev.secure = true → s.dev.keySlot (slice l 24 96) = some k →
      field l 8 4 < s.dev.svnMin →
    Makes (.hbootGo m v) s [.resp, .reg Adr.PCH_BOOT_STATUS, .reg Adr.HIF_CTRL] (fun e =>
      e.resp = .okay 0 ∧ WaitsFor s.dev e 6))
  ∧ (∀ (s : State) (m : Master) (v : Word) (n : Nat) (l : List Byte) (k : Nat), TakesPch s.dev m ∨ (Served s.dev m ∧ m.num = 20) →
      v.getLsbD 0 = true → s.dev.get PCH_BOOT_STATUS.CODE = 9 → n = s.dev.get PCH_HBOOT_LEN.LEN → n ≠ 0 → l.length = max n 768 →
      Reads s.dev 17 0x12000000 l → HeadGood l → SegsGood l n → s.dev.secure = true → s.dev.keySlot (slice l 24 96) = some k →
      s.dev.svnMin ≤ field l 8 4 → s.dev.on ECC_INJ_CTRL.ARM = false →
      (∀ x ∈ segsOfImage l, ∀ u ∈ unitsOf x.load x.len, unitState s.dev.ecc u = .clean) →
    Makes (.hbootGo m v) s [.resp, .reg Adr.PCH_BOOT_STATUS, .reg Adr.PCH_STATUS, .mem, .ecc, .reg Adr.HIF_CTRL] (fun e =>
      e.resp = .okay 0 ∧ Loaded s.dev e l
      ∧ if signed l then Booted s.dev e l k false ∧ e.reg Adr.HIF_CTRL = s.dev.reg Adr.HIF_CTRL else WaitsFor s.dev e 5 ∧ e.reg Adr.PCH_STATUS = s.dev.reg Adr.PCH_STATUS))

/-! ### The serial ports and MIX -/

/-- SAP_START, SAP_SILENT_START_END, SAP_STOP, SAP_STOPPED, SAP_PORT_FRAME, SAP_RATE_MEASURE, SAP_CLOCK_LOSS, ASRC_LOCK, MIX_OUTRDY,
GAIN_STEP_TIMEOUT (R391, R392, R395 to R397, R400 to R405, R414, R416, R541): a port checks its setup, starts and stops in
silence, and exchanges a frame; through the ASRC its words are free values (R57 gives no filter). -/
def Obligations.SerialPorts : Prop :=
  (∀ (s : State) (m : Master) (p : SapIx) (v : Word), TakesSap s.dev m p → v.getLsbD 0 = true →
      s.dev.on (SAP_CTRL.EN p) = true ∨ s.dev.on (SAP_STATUS.RUNNING p) = true →
    Makes (.sapStart m p v) s [.resp, .reg (Adr.SAP_CTRL p)] (fun e =>
      e.resp = .okay 0 ∧ e.reg (Adr.SAP_CTRL p) = s.dev.fieldSet (SAP_CTRL.EN p) 1))
  ∧ (∀ (s : State) (m : Master) (p : SapIx) (v : Word), TakesSap s.dev m p → v.getLsbD 0 = true → s.dev.on (SAP_CTRL.EN p) = false →
      s.dev.on (SAP_STATUS.RUNNING p) = false → ¬SetupGood s.dev p →
    Makes (.sapStart m p v) s [.resp, .reg (Adr.SAP_CTRL p), .reg (Adr.SAP_STATUS p)] (fun e =>
      e.resp = .okay 0 ∧ e.reg (Adr.SAP_CTRL p) = s.dev.fieldSet (SAP_CTRL.EN p) 1 ∧ e.reg (Adr.SAP_STATUS p) = s.dev.fieldSet (SAP_STATUS.CFG_BAD p) 1))
  ∧ (∀ (s : State) (m : Master) (p : SapIx) (v : Word), TakesSap s.dev m p → v.getLsbD 0 = true → s.dev.on (SAP_CTRL.EN p) = false →
      s.dev.on (SAP_STATUS.RUNNING p) = false → SetupGood s.dev p →
    Makes (.sapStart m p v) s [.resp, .sap, .fe, .reg (Adr.SAP_CTRL p), .reg (Adr.SAP_STATUS p), .reg (Adr.SAP_ASRC_DELAY p)] (fun e =>
      e.resp = .okay 0 ∧ e.reg (Adr.SAP_CTRL p) = s.dev.fieldSet (SAP_CTRL.EN p) 1 ∧ (∀ q : SapIx, q ≠ p → e.sapAt q = s.dev.sapAt q)
      ∧ e.reg (Adr.SAP_STATUS p) = (((s.dev.set (SAP_STATUS.RUNNING p) 1).set (SAP_STATUS.CLK_OK p) 0).set (SAP_STATUS.ASRC_LOCK p) (s.dev.get (SAP_CFG.SYNC p))).reg (Adr.SAP_STATUS p)
      ∧ (∀ f ∈ [SAP_ASRC_DELAY.RX p, SAP_ASRC_DELAY.TX p], e.get f = if s.dev.on (SAP_CFG.SYNC p) = true then 0 else 16 * ([92, 84, 52, 48, 36, 34].getD (s.dev.get (SAP_CFG.NOM_RATE p)) 0 / (if s.dev.on LND_CTRL.RATE = true then 2 else 1)))
      ∧ e.sapAt p = { SapState.reset with phase := .silent (max 1 (s.dev.get (SAP_START.FRAMES p))), pe := (s.dev.sapAt p).pe, dp := (s.dev.sapAt p).dp }
      ∧ e.fe = { s.dev.fe with conc := e.fe.conc } ∧ e.concAt (512 + 2 * p) = Conceal.muted ∧ e.concAt (513 + 2 * p) = Conceal.playing))
  ∧ (∀ (s : State) (p : SapIx), s.dev.portRuns p → (s.dev.sapAt p).phase = .silent 0 →
    Makes (.sapSilentStartEnd p) s [.sap] (fun e =>
      e.sapAt p = { s.dev.sapAt p with phase := .waiting } ∧ (∀ q : SapIx, q ≠ p → e.sapAt q = s.dev.sapAt q)))
  ∧ (∀ (s : State) (p : SapIx), s.dev.portRuns p → (s.dev.sapAt p).phase ≠ .silent 0 →
    Makes (.sapSilentStartEnd p) s [] (fun e =>
      True))
  ∧ (∀ (s : State) (m : Master) (p : SapIx) (v : Word), TakesSap s.dev m p → v.getLsbD 0 = false → (s.dev.sapAt p).phase = .running →
    Makes (.sapStop m p v) s [.resp, .sap, .reg (Adr.SAP_CTRL p)] (fun e =>
      e.resp = .okay 0 ∧ e.reg (Adr.SAP_CTRL p) = s.dev.fieldSet (SAP_CTRL.EN p) 0 ∧ e.sapAt p = { s.dev.sapAt p with phase := .ramping, txCur := rampDown s.dev p, txHalf := none, fade := none } ∧ (∀ q : SapIx, q ≠ p → e.sapAt q = s.dev.sapAt q)))
  ∧ (∀ (s : State) (m : Master) (p : SapIx) (v : Word), TakesSap s.dev m p → v.getLsbD 0 = false →
      (s.dev.sapAt p).phase = .waiting ∨ ∃ n, (s.dev.sapAt p).phase = .silent n →
    Makes (.sapStop m p v) s [.resp, .sap, .reg (Adr.SAP_CTRL p)] (fun e =>
      e.resp = .okay 0 ∧ e.reg (Adr.SAP_CTRL p) = s.dev.fieldSet (SAP_CTRL.EN p) 0 ∧ e.sapAt p = { s.dev.sapAt p with phase := .ending (max 1 (s.dev.get (SAP_START.FRAMES p))), txCur := [], txHalf := none } ∧ (∀ q : SapIx, q ≠ p → e.sapAt q = s.dev.sapAt q)))
  ∧ (∀ (s : State) (m : Master) (p : SapIx) (v : Word), TakesSap s.dev m p → v.getLsbD 0 = false →
      (s.dev.sapAt p).phase = .stopped ∨ (s.dev.sapAt p).phase = .ramping ∨ ∃ n, (s.dev.sapAt p).phase = .ending n →
    Makes (.sapStop m p v) s [.resp, .reg (Adr.SAP_CTRL p)] (fun e =>
      e.resp = .okay 0 ∧ e.reg (Adr.SAP_CTRL p) = s.dev.fieldSet (SAP_CTRL.EN p) 0))
  ∧ (∀ (s : State) (p : SapIx), s.dev.portRuns p → (s.dev.sapAt p).phase = .ending 0 →
    Makes (.sapStopped p) s [.sap, .reg (Adr.SAP_STATUS p)] (fun e =>
      e.sapAt p = { SapState.reset with pe := (s.dev.sapAt p).pe, dp := (s.dev.sapAt p).dp } ∧ (∀ q : SapIx, q ≠ p → e.sapAt q = s.dev.sapAt q)
      ∧ e.reg (Adr.SAP_STATUS p) = ((s.dev.set (SAP_STATUS.RUNNING p) 0).set (SAP_STATUS.CLK_OK p) 0).reg (Adr.SAP_STATUS p)))
  ∧ (∀ (s : State) (p : SapIx), s.dev.portRuns p → (s.dev.sapAt p).phase ≠ .ending 0 →
    Makes (.sapStopped p) s [] (fun e =>
      True))
  ∧ (∀ (s : State) (p : SapIx) (rx : List Word), s.dev.sapOn p = false ∨ s.dev.on (SAP_STATUS.RUNNING p) = false →
    Makes (.sapPortFrame p rx) s [] (fun e =>
      True))
  ∧ (∀ (s : State) (p : SapIx) (rx : List Word) (n : Nat), s.dev.portRuns p → s.dev.sapOn p = true →
      s.dev.on (SAP_STATUS.RUNNING p) = true → s.dev.get (SAP_CFG.WORD_BITS p) < 3 → (s.dev.sapAt p).phase = .silent n →
    Makes (.sapPortFrame p rx) s [.sap, .reg (Adr.SAP_STATUS p), .reg (Adr.SAP_RX_OVER_CNT p), .reg (Adr.SAP_TX_SAT_CNT p)] (fun e =>
      e.sapAt p = frameLeaves s.dev p rx false (List.replicate 64 0) { s.dev.sapAt p with phase := .silent (n - 1) } ∧ FrameCounts s.dev e p false (List.replicate 64 0) 0 ∧ (∀ q : SapIx, q ≠ p → e.sapAt q = s.dev.sapAt q)))
  ∧ (∀ (s : State) (p : SapIx) (rx : List Word) (n : Nat), s.dev.portRuns p → s.dev.sapOn p = true →
      s.dev.on (SAP_STATUS.RUNNING p) = true → s.dev.get (SAP_CFG.WORD_BITS p) < 3 → (s.dev.sapAt p).phase = .ending n →
    Makes (.sapPortFrame p rx) s [.sap, .reg (Adr.SAP_STATUS p), .reg (Adr.SAP_RX_OVER_CNT p), .reg (Adr.SAP_TX_SAT_CNT p)] (fun e =>
      e.sapAt p = frameLeaves s.dev p rx (s.dev.on (SAP_CFG.SYNC p)) (List.replicate 64 0) { s.dev.sapAt p with phase := .ending (n - 1) } ∧ FrameCounts s.dev e p (s.dev.on (SAP_CFG.SYNC p)) (List.replicate 64 0) 0 ∧ (∀ q : SapIx, q ≠ p → e.sapAt q = s.dev.sapAt q)))
  ∧ (∀ (s : State) (p : SapIx) (rx : List Word), s.dev.portRuns p → s.dev.sapOn p = true → s.dev.on (SAP_STATUS.RUNNING p) = true →
      s.dev.get (SAP_CFG.WORD_BITS p) < 3 → (s.dev.sapAt p).phase = .ramping → (s.dev.sapAt p).txCur = [] →
    Makes (.sapPortFrame p rx) s [.sap, .reg (Adr.SAP_STATUS p), .reg (Adr.SAP_RX_OVER_CNT p), .reg (Adr.SAP_TX_SAT_CNT p)] (fun e =>
      e.sapAt p = frameLeaves s.dev p rx (s.dev.on (SAP_CFG.SYNC p)) (List.replicate 64 0) { s.dev.sapAt p with phase := .ending (max 1 (s.dev.get (SAP_START.FRAMES p)) - 1) } ∧ FrameCounts s.dev e p (s.dev.on (SAP_CFG.SYNC p)) (List.replicate 64 0) 0 ∧ (∀ q : SapIx, q ≠ p → e.sapAt q = s.dev.sapAt q)))
  ∧ (∀ (s : State) (p : SapIx) (rx : List Word) (f : List Int) (t : List (List Int)), s.dev.portRuns p → s.dev.sapOn p = true →
      s.dev.on (SAP_STATUS.RUNNING p) = true → s.dev.get (SAP_CFG.WORD_BITS p) < 3 → (s.dev.sapAt p).phase = .ramping →
      (s.dev.sapAt p).txCur = f :: t →
    Makes (.sapPortFrame p rx) s [.sap, .reg (Adr.SAP_STATUS p), .reg (Adr.SAP_RX_OVER_CNT p), .reg (Adr.SAP_TX_SAT_CNT p)] (fun e =>
      e.sapAt p = frameLeaves s.dev p rx (s.dev.on (SAP_CFG.SYNC p)) f { s.dev.sapAt p with txCur := t } ∧ FrameCounts s.dev e p (s.dev.on (SAP_CFG.SYNC p)) f 0 ∧ (∀ q : SapIx, q ≠ p → e.sapAt q = s.dev.sapAt q)))
  ∧ (∀ (s : State) (p : SapIx) (rx : List Word) (f : List Int) (t : List (List Int)) (n : Nat), s.dev.portRuns p → s.dev.sapOn p = true →
      s.dev.on (SAP_STATUS.RUNNING p) = true → s.dev.get (SAP_CFG.WORD_BITS p) < 3 → MixGives s.dev p f t n →
      (∀ k, k < 8 → PathOff s.dev p k) →
    Makes (.sapPortFrame p rx) s [.sap, .reg (Adr.SAP_STATUS p), .reg (Adr.SAP_RX_OVER_CNT p), .reg (Adr.SAP_TX_SAT_CNT p), .fresh] (fun e =>
      e.sapAt p = frameLeaves s.dev p rx (decide ((s.dev.sapAt p).phase = .running) && s.dev.on (SAP_CFG.SYNC p)) (ownedWords s.dev p f) { s.dev.sapAt p with txCur := t, fade := fadeAfter s.dev p } ∧ FrameCounts s.dev e p (decide ((s.dev.sapAt p).phase = .running) && s.dev.on (SAP_CFG.SYNC p)) (ownedWords s.dev p f) 0 ∧ (∀ q : SapIx, q ≠ p → e.sapAt q = s.dev.sapAt q) ∧ s.dev.fresh + n ≤ e.fresh))
  ∧ (∀ (s : State) (p : SapIx) (rx : List Word) (f : List Int) (t : List (List Int)) (n : Nat) (k : Nat), s.dev.portRuns p →
      s.dev.sapOn p = true → s.dev.on (SAP_STATUS.RUNNING p) = true → s.dev.get (SAP_CFG.WORD_BITS p) < 3 → MixGives s.dev p f t n →
      k < 8 → (∀ j, j < 8 → j ≠ k → PathOff s.dev p j) → (pathGain (pathRamp s.dev p k)) ≠ 0 →
    Makes (.sapPortFrame p rx) s [.sap, .reg (Adr.SAP_STATUS p), .reg (Adr.SAP_RX_OVER_CNT p), .reg (Adr.SAP_TX_SAT_CNT p), .fresh] (fun e =>
      e.sapAt p = frameLeaves s.dev p rx (decide ((s.dev.sapAt p).phase = .running) && s.dev.on (SAP_CFG.SYNC p)) (pathWords s.dev p k (pathGain (pathRamp s.dev p k)) (ownedWords s.dev p f)) { s.dev.sapAt p with txCur := t, fade := fadeAfter s.dev p, dp := vput (s.dev.sapAt p).dp k (pathRamp s.dev p k) } ∧ FrameCounts s.dev e p (decide ((s.dev.sapAt p).phase = .running) && s.dev.on (SAP_CFG.SYNC p)) (pathWords s.dev p k (pathGain (pathRamp s.dev p k)) (ownedWords s.dev p f)) (pathClips s.dev p k (pathGain (pathRamp s.dev p k)) (ownedWords s.dev p f)) ∧ (∀ q : SapIx, q ≠ p → e.sapAt q = s.dev.sapAt q) ∧ s.dev.fresh + n ≤ e.fresh))
  ∧ (∀ (s : State) (p : SapIx) (rx : List Word) (h : List (List Int)) (f : List Int) (t : List (List Int)), s.dev.portRuns p →
      s.dev.sapOn p = true → s.dev.on (SAP_STATUS.RUNNING p) = true → s.dev.get (SAP_CFG.WORD_BITS p) < 3 →
      (s.dev.sapAt p).phase = .running → (s.dev.on (SAP_CFG.SYNC p)) = true → (s.dev.sapAt p).txCur = [] →
      (s.dev.sapAt p).txHalf = some h → h = f :: t → (∀ x ∈ h, x.length = 64) → (s.dev.concAt (513 + 2 * p)).st = .play →
      (∀ k, k < 8 → PathOff s.dev p k) →
    Makes (.sapPortFrame p rx) s [.sap, .reg (Adr.SAP_STATUS p), .reg (Adr.SAP_RX_OVER_CNT p), .reg (Adr.SAP_TX_SAT_CNT p), .fe] (fun e =>
      e.sapAt p = frameLeaves s.dev p rx true (ownedWords s.dev p f) { s.dev.sapAt p with txCur := t, txHalf := none, fade := fadeAfter s.dev p } ∧ FrameCounts s.dev e p true (ownedWords s.dev p f) 0 ∧ (∀ q : SapIx, q ≠ p → e.sapAt q = s.dev.sapAt q) ∧ e.fe = { s.dev.fe with conc := e.fe.conc } ∧ (e.concAt (513 + 2 * p)).st = .play))
  ∧ (∀ (s : State) (p : SapIx) (rx : List Word), s.dev.portRuns p → s.dev.sapOn p = true → s.dev.on (SAP_STATUS.RUNNING p) = true →
      s.dev.get (SAP_CFG.WORD_BITS p) < 3 → (s.dev.sapAt p).phase = .running → (s.dev.on (SAP_CFG.SYNC p)) = true →
      (s.dev.sapAt p).txCur = [] → (s.dev.sapAt p).txHalf = none → (s.dev.concAt (513 + 2 * p)).st = .play →
      0 < s.dev.aget FE_CONCEAL.HOLD_LIMIT → (∀ k, k < 8 → PathOff s.dev p k) → (s.dev.concAt (513 + 2 * p)).last.length = 64 →
      s.dev.rxOver p = false →
    Makes (.sapPortFrame p rx) s [.sap, .reg (Adr.SAP_STATUS p), .reg (Adr.SAP_RX_OVER_CNT p), .reg (Adr.SAP_TX_SAT_CNT p), .fe, .reg (Adr.SAP_TX_UNDER_CNT p), .reg (Adr.FE_CONC 4)] (fun e =>
      e.sapAt p = frameLeaves s.dev p rx true (ownedWords s.dev p (s.dev.concAt (513 + 2 * p)).last) { s.dev.sapAt p with txCur := (e.sapAt p).txCur, fade := fadeAfter s.dev p }
      ∧ (e.sapAt p).txCur = List.replicate (s.dev.perLen - 1) (s.dev.concAt (513 + 2 * p)).last ∧ (∀ q : SapIx, q ≠ p → e.sapAt q = s.dev.sapAt q) ∧ (e.reg (Adr.SAP_TX_UNDER_CNT p)).toNat = min ((s.dev.reg (Adr.SAP_TX_UNDER_CNT p)).toNat + 1) 0xFFFFFFFF ∧ e.on (SAP_STATUS.XRUN p) = true ∧ e.on (SAP_STATUS.CLK_OK p) = true
      ∧ (e.concAt (513 + 2 * p)).st = .hold ∧ (e.reg (Adr.FE_CONC 4)).toNat = min ((s.dev.reg (Adr.FE_CONC 4)).toNat + 1) 0xFFFFFFFF))
  ∧ (∀ (s : State) (p : SapIx) (rate : BitVec 26) (fam oob : Nat), s.dev.portRuns p → s.dev.on (SAP_STATUS.RUNNING p) = true →
      fam = ((List.range 6).find? (fun i => decide (((rate.toNat - 256 * rateOf i) + (256 * rateOf i - rate.toNat)) * 100 ≤ 256 * rateOf i * 2))).elim 0 (· + 1) →
      oob = (if ((rate.toNat - (256 * rateOf (s.dev.get (SAP_CFG.NOM_RATE p)))) + ((256 * rateOf (s.dev.get (SAP_CFG.NOM_RATE p))) - rate.toNat)) * 1000000 ≤ (256 * rateOf (s.dev.get (SAP_CFG.NOM_RATE p))) * s.dev.get (SAP_RATE_CFG.TOL_PPM p) then 0 else 1) →
    Makes (.sapRateMeasure p rate) s [.reg (Adr.SAP_RATE p), .reg (Adr.SAP_STATUS p)] (fun e =>
      e.get (SAP_RATE.RATE p) = rate.toNat
      ∧ e.reg (Adr.SAP_STATUS p) = ((((s.dev.set (SAP_STATUS.RATE_OOB p) oob).set (SAP_STATUS.FAMILY p) fam).set (SAP_STATUS.RATE_EVT p)
            (if s.dev.get (SAP_STATUS.RATE_OOB p) ≠ oob ∨ s.dev.get (SAP_STATUS.FAMILY p) ≠ fam then 1 else s.dev.get (SAP_STATUS.RATE_EVT p))).set (SAP_STATUS.ASRC_LOCK p)
            (if s.dev.on (SAP_CFG.SYNC p) = false ∧ (256 * rateOf (s.dev.get (SAP_CFG.NOM_RATE p))) < ((rate.toNat - (256 * rateOf (s.dev.get (SAP_CFG.NOM_RATE p)))) + ((256 * rateOf (s.dev.get (SAP_CFG.NOM_RATE p))) - rate.toNat)) * 1000 then 0 else s.dev.get (SAP_STATUS.ASRC_LOCK p))).reg (Adr.SAP_STATUS p)))
  ∧ (∀ (s : State) (p : SapIx), s.dev.portRuns p → s.dev.on (SAP_STATUS.RUNNING p) = true → s.dev.on (SAP_CFG.MASTER p) = false →
      s.dev.on (SAP_STATUS.CLK_OK p) = true →
    Makes (.sapClockLoss p) s [.reg (Adr.SAP_STATUS p), .reg (Adr.SAP_CLKLOSS_CNT p)] (fun e =>
      (e.reg (Adr.SAP_CLKLOSS_CNT p)).toNat = min ((s.dev.reg (Adr.SAP_CLKLOSS_CNT p)).toNat + 1) 0xFFFFFFFF
      ∧ e.reg (Adr.SAP_STATUS p) = ((s.dev.set (SAP_STATUS.CLK_OK p) 0).set (SAP_STATUS.ASRC_LOCK p) (if s.dev.on (SAP_CFG.SYNC p) = true then s.dev.get (SAP_STATUS.ASRC_LOCK p) else 0)).reg (Adr.SAP_STATUS p)))
  ∧ (∀ (s : State) (p : SapIx),
      s.dev.on (SAP_STATUS.RUNNING p) = false ∨ s.dev.on (SAP_CFG.MASTER p) = true ∨ s.dev.on (SAP_STATUS.CLK_OK p) = false →
    Makes (.sapClockLoss p) s [] (fun e =>
      True))
  ∧ (∀ (s : State) (p : SapIx), s.dev.portRuns p → s.dev.on (SAP_STATUS.RUNNING p) = true → s.dev.on (SAP_CFG.SYNC p) = false →
      s.dev.on (SAP_STATUS.CLK_OK p) = true →
      s.dev.get (SAP_RATE.RATE p) = 0 ∨ ((s.dev.get (SAP_RATE.RATE p) - (256 * rateOf (s.dev.get (SAP_CFG.NOM_RATE p)))) + ((256 * rateOf (s.dev.get (SAP_CFG.NOM_RATE p))) - s.dev.get (SAP_RATE.RATE p))) * 1000 ≤ (256 * rateOf (s.dev.get (SAP_CFG.NOM_RATE p))) →
    Makes (.asrcLock p) s [.reg (Adr.SAP_STATUS p)] (fun e =>
      e.reg (Adr.SAP_STATUS p) = s.dev.fieldSet (SAP_STATUS.ASRC_LOCK p) 1))
  ∧ (∀ (s : State) (p : SapIx),
      s.dev.on (SAP_STATUS.RUNNING p) = false ∨ s.dev.on (SAP_CFG.SYNC p) = true ∨ s.dev.on (SAP_STATUS.CLK_OK p) = false ∨ ¬(s.dev.get (SAP_RATE.RATE p) = 0 ∨ ((s.dev.get (SAP_RATE.RATE p) - (256 * rateOf (s.dev.get (SAP_CFG.NOM_RATE p)))) + ((256 * rateOf (s.dev.get (SAP_CFG.NOM_RATE p))) - s.dev.get (SAP_RATE.RATE p))) * 1000 ≤ (256 * rateOf (s.dev.get (SAP_CFG.NOM_RATE p)))) →
    Makes (.asrcLock p) s [] (fun e =>
      True))
  ∧ (∀ (s : State) (m : Master) (v : Word) (b : Nat), Served s.dev m → b = v.toNat / 65536 →
      ((s.dev.period - (3 + b2n (s.dev.on LND_CTRL.MODE) + b2n (s.dev.aget GANG_CTRL.EN != 0 && !s.dev.on GANG_CFG.MODE))) % 65536 + 65536 - b) % 65536 < 32768 →
    Makes (.mixOutrdy m v) s [.resp, .reg Adr.MIX_LATE_CNT, .reg Adr.MIX_STATUS] (fun e =>
      e.resp = .okay 0 ∧ (e.reg (Adr.MIX_LATE_CNT)).toNat = min ((s.dev.reg (Adr.MIX_LATE_CNT)).toNat + 1) 0xFFFFFFFF ∧ e.reg Adr.MIX_STATUS = s.dev.fieldSet MIX_STATUS.OUT_LATE 1))
  ∧ (∀ (s : State) (m : Master) (v : Word) (b : Nat), Served s.dev m → b = v.toNat / 65536 →
      ¬((s.dev.period - (3 + b2n (s.dev.on LND_CTRL.MODE) + b2n (s.dev.aget GANG_CTRL.EN != 0 && !s.dev.on GANG_CFG.MODE))) % 65536 + 65536 - b) % 65536 < 32768 →
    Makes (.mixOutrdy m v) s [.resp, .mix] (fun e =>
      e.resp = .okay 0 ∧ e.mix = { s.dev.mix with marks := if (v.toNat % 16, b) ∈ s.dev.mix.marks then s.dev.mix.marks else s.dev.mix.marks ++ [(v.toNat % 16, b)] }))
  ∧ (∀ (s : State) (j : Fin 1280) (c t : Int), s.dev.chipRuns = true → c = (s.dev.gainAt j).code →
      t = (BitVec.ofNat 12 (s.dev.aget (MIX_GAIN.GAIN j))).toInt → c ≠ t →
      ((if s.dev.aget MIX_GAIN_CFG.TIMEOUT_MS = 0 then 64 else s.dev.aget MIX_GAIN_CFG.TIMEOUT_MS) * (if s.dev.on LND_CTRL.RATE = true then 48000 else 96000) / 1000) ≤ (s.dev.gainAt j).timer →
    Makes (.gainStepTimeout j) s [.mix, .reg (Adr.MIX_GAIN_ACT j)] (fun e =>
      e.gainAt j = { s.dev.gainAt j with code := (if c < t then min (c + 5) t else max (c - 5) t), timer := 0 } ∧ (∀ k : Fin 1280, k ≠ j → e.gainAt k = s.dev.gainAt k) ∧ e.mix = { s.dev.mix with gains := e.mix.gains }
      ∧ (BitVec.ofNat 12 (e.get (MIX_GAIN_ACT.GAIN j))) = BitVec.ofInt 12 (if c < t then min (c + 5) t else max (c - 5) t) ∧ e.get (MIX_GAIN_ACT.MUTE j) = s.dev.aget (MIX_GAIN.MUTE j) ∧ e.get (MIX_GAIN_ACT.STEPPING j) = if (if c < t then min (c + 5) t else max (c - 5) t) = t then 0 else 1))
  ∧ (∀ (s : State) (j : Fin 1280) (c t : Int), s.dev.chipRuns = true → c = (s.dev.gainAt j).code →
      t = (BitVec.ofNat 12 (s.dev.aget (MIX_GAIN.GAIN j))).toInt →
      c = t ∨ (s.dev.gainAt j).timer < ((if s.dev.aget MIX_GAIN_CFG.TIMEOUT_MS = 0 then 64 else s.dev.aget MIX_GAIN_CFG.TIMEOUT_MS) * (if s.dev.on LND_CTRL.RATE = true then 48000 else 96000) / 1000) →
    Makes (.gainStepTimeout j) s [] (fun e =>
      True))

/-! ### Clocks and resets -/

/-- XTAL_FAIL, ROOT_PLL_LOCK, XTAL_RETRY, XTAL_OK_RETURN, MEAS_GO, MEAS_DONE, NET_PLL_UNLOCK, NET_PLL_LOCK, PCIE_PLL_UNLOCK,
PCIE_PLL_LOCK, COLD_RESET, WARM_RESET, CHIP_RESET_EXIT, PCIE_PERST_N_RISE (R507 to R512, R521, R543, R593): what clocks and
resets of the device do. A cold reset leaves State.reset around what no reset reaches: flash, OTP, pins, the host; its register
values where the spec gives none are those of log entries. -/
def Obligations.DeviceResets : Prop :=
  (∀ s : State, s.dev.on CLK_STATUS.ON_BACKUP = true →
    Makes (.xtalFail) s [.reg Adr.CLK_STATUS] (fun e =>
      e.reg Adr.CLK_STATUS = (s.dev.set CLK_STATUS.XTAL_OK 0).reg Adr.CLK_STATUS))
  ∧ (∀ s : State, s.dev.on CLK_STATUS.ON_BACKUP = false → s.dev.chipOn = true → s.dev.on CLK_STATUS.ROOT_LOCK = true →
    Makes (.xtalFail) s [.reg Adr.CLK_STATUS, .reg Adr.CLK_XTAL_FAIL_CNT, .reg Adr.CLK_ROOT_UNLOCK_CNT] (fun e =>
      e.reg Adr.CLK_STATUS = (((((s.dev.set CLK_STATUS.XTAL_OK 0).set CLK_STATUS.ON_BACKUP 1).set CLK_STATUS.XTAL_FAIL 1).set CLK_STATUS.ROOT_LOCK 0).set CLK_STATUS.ROOT_UNLOCK 1).reg Adr.CLK_STATUS ∧ (e.reg (Adr.CLK_XTAL_FAIL_CNT)).toNat = min ((s.dev.reg (Adr.CLK_XTAL_FAIL_CNT)).toNat + 1) 0xFFFFFFFF ∧ (e.reg (Adr.CLK_ROOT_UNLOCK_CNT)).toNat = min ((s.dev.reg (Adr.CLK_ROOT_UNLOCK_CNT)).toNat + 1) 0xFFFFFFFF))
  ∧ (∀ s : State, s.dev.on CLK_STATUS.ON_BACKUP = false → s.dev.chipOn = true → s.dev.on CLK_STATUS.ROOT_LOCK = false →
    Makes (.xtalFail) s [.reg Adr.CLK_STATUS, .reg Adr.CLK_XTAL_FAIL_CNT] (fun e =>
      e.reg Adr.CLK_STATUS = (((s.dev.set CLK_STATUS.XTAL_OK 0).set CLK_STATUS.ON_BACKUP 1).set CLK_STATUS.XTAL_FAIL 1).reg Adr.CLK_STATUS ∧ (e.reg (Adr.CLK_XTAL_FAIL_CNT)).toNat = min ((s.dev.reg (Adr.CLK_XTAL_FAIL_CNT)).toNat + 1) 0xFFFFFFFF))
  ∧ (∀ s : State, s.dev.on CLK_STATUS.ON_BACKUP = false → s.dev.chipOn = false →
    Makes (.xtalFail) s [.reg Adr.CLK_STATUS] (fun e =>
      e.reg Adr.CLK_STATUS = (((s.dev.set CLK_STATUS.XTAL_OK 0).set CLK_STATUS.ON_BACKUP 1).set CLK_STATUS.ROOT_LOCK 0).reg Adr.CLK_STATUS))
  ∧ (∀ s : State,
    Makes (.xtalOkReturn) s [.reg Adr.CLK_STATUS] (fun e =>
      e.reg Adr.CLK_STATUS = (s.dev.set CLK_STATUS.XTAL_OK 1).reg Adr.CLK_STATUS))
  ∧ (∀ s : State, s.dev.pch.up = true → s.dev.inStandby = false → s.dev.on PCH_STATUS.TRIPPED = false →
    Makes (.rootPllLock) s [.reg Adr.CLK_STATUS] (fun e =>
      e.reg Adr.CLK_STATUS = (s.dev.set CLK_STATUS.ROOT_LOCK 1).reg Adr.CLK_STATUS))
  ∧ (∀ s : State, s.dev.pch.up = false ∨ s.dev.inStandby = true ∨ s.dev.on PCH_STATUS.TRIPPED = true →
    Makes (.rootPllLock) s [] (fun e =>
      True))
  ∧ (∀ (s : State) (m : Master) (v : Word), TakesRst s.dev m → v.toNat % 4 = 1 → s.dev.on CLK_STATUS.XTAL_OK = true →
      s.dev.on CLK_STATUS.ON_BACKUP = true →
    Makes (.xtalRetry m v) s [.resp, .reg Adr.CLK_CTRL, .reg Adr.CLK_STATUS, .reg Adr.CLK_ROOT_UNLOCK_CNT] (fun e =>
      e.resp = .okay 0 ∧ Wrote s.dev e Adr.CLK_CTRL v ∧ e.reg Adr.CLK_STATUS = (((s.dev.set CLK_STATUS.ON_BACKUP 0).set CLK_STATUS.ROOT_LOCK 0).set CLK_STATUS.ROOT_UNLOCK 1).reg Adr.CLK_STATUS ∧ (e.reg (Adr.CLK_ROOT_UNLOCK_CNT)).toNat = min ((s.dev.reg (Adr.CLK_ROOT_UNLOCK_CNT)).toNat + 1) 0xFFFFFFFF))
  ∧ (∀ (s : State) (m : Master) (v : Word), TakesRst s.dev m → v.toNat % 4 = 1 →
      s.dev.on CLK_STATUS.XTAL_OK = false ∨ s.dev.on CLK_STATUS.ON_BACKUP = false →
    Makes (.xtalRetry m v) s [.resp, .reg Adr.CLK_CTRL] (fun e =>
      e.resp = .okay 0 ∧ Wrote s.dev e Adr.CLK_CTRL v))
  ∧ (∀ (s : State) (m : Master) (v : Word), TakesRst s.dev m → v.toNat % 4 = 2 → s.dev.on CLK_STATUS.MEAS_BUSY = false →
    Makes (.measGo m v) s [.resp, .reg Adr.CLK_CTRL, .reg Adr.CLK_STATUS, .clk] (fun e =>
      e.resp = .okay 0 ∧ Wrote s.dev e Adr.CLK_CTRL v ∧ e.clk = { s.dev.clk with meas := some (e.get CLK_CTRL.MEAS_SEL, e.get CLK_CTRL.MEAS_IDX) } ∧ e.reg Adr.CLK_STATUS = (s.dev.set CLK_STATUS.MEAS_BUSY 1).reg Adr.CLK_STATUS))
  ∧ (∀ (s : State) (m : Master) (v : Word), TakesRst s.dev m → v.toNat % 4 = 2 → s.dev.on CLK_STATUS.MEAS_BUSY = true →
    Makes (.measGo m v) s [.resp, .reg Adr.CLK_CTRL] (fun e =>
      e.resp = .okay 0 ∧ Wrote s.dev e Adr.CLK_CTRL v))
  ∧ (∀ (s : State) (khz : Nat), s.dev.chipRuns = true → s.dev.on CLK_STATUS.MEAS_BUSY = true → khz < 2 ^ 32 →
    Makes (.measDone khz) s [.clk, .reg Adr.CLK_STATUS, .reg Adr.CLK_MEAS_RESULT] (fun e =>
      e.clk = { s.dev.clk with meas := none } ∧ e.reg Adr.CLK_STATUS = (s.dev.set CLK_STATUS.MEAS_BUSY 0).reg Adr.CLK_STATUS ∧ (e.reg Adr.CLK_MEAS_RESULT).toNat = khz))
  ∧ (∀ (s : State) (khz : Nat), s.dev.chipRuns = false ∨ s.dev.on CLK_STATUS.MEAS_BUSY = false →
    Makes (.measDone khz) s [] (fun e =>
      True))
  ∧ (∀ (s : State) (p : PortIx),
    Makes (.netPllLock p) s [.reg Adr.CLK_STATUS] (fun e =>
      (∀ q : PortIx, e.netLocked q = if q = p then true else s.dev.netLocked q) ∧ (∀ i, i < 32 → i < CLK_STATUS.NET_LOCK.lo ∨ CLK_STATUS.NET_LOCK.lo + 4 ≤ i → (e.reg Adr.CLK_STATUS).getLsbD i = (s.dev.reg Adr.CLK_STATUS).getLsbD i)))
  ∧ (∀ (s : State) (p : PortIx), s.dev.on (MAC_STATUS.LINK p) = false →
    Makes (.netPllUnlock p) s [.reg Adr.CLK_STATUS] (fun e =>
      (∀ q : PortIx, e.netLocked q = if q = p then false else s.dev.netLocked q) ∧ (∀ i, i < 32 → i < CLK_STATUS.NET_LOCK.lo ∨ CLK_STATUS.NET_LOCK.lo + 4 ≤ i → (e.reg Adr.CLK_STATUS).getLsbD i = (s.dev.reg Adr.CLK_STATUS).getLsbD i)))
  ∧ (∀ (s : State) (p : PortIx), s.dev.on (MAC_STATUS.LINK p) = true → (s.dev.macAt p).wire = none → (s.dev.macAt p).heldAll = false →
      (s.dev.macAt p).heldCls = 0 → s.dev.get (TB_PTP_TXWR.WR p) = s.dev.get (TB_PTP_TXCFG.RD p) →
      (∀ x ∈ (s.dev.macAt p).txq, ∀ r i q, x.2.src ≠ .host r i q ∧ x.2.src ≠ .ptp i) →
    Makes (.netPllUnlock p) s [.reg Adr.CLK_STATUS, .reg (Adr.MAC_STATUS p), .mac, .reg (Adr.MAC_AN_STATUS p), .reg (Adr.MAC_TX_LINK_DOWN p), .reg (Adr.MAC_LINK_DOWN p)] (fun e =>
      (∀ q : PortIx, e.netLocked q = if q = p then false else s.dev.netLocked q) ∧ (∀ i, i < 32 → i < CLK_STATUS.NET_LOCK.lo ∨ CLK_STATUS.NET_LOCK.lo + 4 ≤ i → (e.reg Adr.CLK_STATUS).getLsbD i = (s.dev.reg Adr.CLK_STATUS).getLsbD i) ∧ e.reg (Adr.MAC_STATUS p) = (((s.dev.set (MAC_STATUS.LINK p) 0).set (MAC_STATUS.BLOCK_LOCK p) 0).set (MAC_STATUS.RX_PAUSED p) 0).reg (Adr.MAC_STATUS p)
      ∧ e.on (MAC_AN_STATUS.DONE p) = false ∧ (e.reg (Adr.MAC_LINK_DOWN p)).toNat = min ((s.dev.reg (Adr.MAC_LINK_DOWN p)).toNat + 1) 0xFFFFFFFF ∧ (e.reg (Adr.MAC_TX_LINK_DOWN p)).toNat = min ((s.dev.reg (Adr.MAC_TX_LINK_DOWN p)).toNat + (s.dev.macAt p).txq.length) 0xFFFFFFFF
      ∧ e.macAt p = { s.dev.macAt p with txq := [], ctl := [] } ∧ ∀ j : PortIx, j ≠ p → e.macAt j = s.dev.macAt j))
  ∧ (∀ s : State, s.dev.evc.queue = [] → s.dev.evc.wraps = 0 →
    Makes (.pciePllUnlock) s (.reg Adr.CLK_STATUS :: .reg Adr.HIF_STATUS :: .reg Adr.HIF_LINKDOWN_CNT :: stopParts) (fun e =>
      e.on HIF_STATUS.LINK_UP = false ∧ e.get HIF_STATUS.WIDTH = 0 ∧ e.get HIF_STATUS.SPEED = 0 ∧ AllStopped s.dev e
      ∧ (e.reg (Adr.HIF_LINKDOWN_CNT)).toNat = min ((s.dev.reg (Adr.HIF_LINKDOWN_CNT)).toNat + (if s.dev.on HIF_STATUS.LINK_UP then 1 else 0)) 0xFFFFFFFF ∧ e.reg Adr.CLK_STATUS = (s.dev.set CLK_STATUS.PCIE_LOCK 0).reg Adr.CLK_STATUS))
  ∧ (∀ s : State,
    Makes (.pciePllLock) s [.reg Adr.CLK_STATUS] (fun e =>
      e.reg Adr.CLK_STATUS = (s.dev.set CLK_STATUS.PCIE_LOCK 1).reg Adr.CLK_STATUS))
  ∧ (∀ s : State,
    Makes (.pciePerstNRise) s [.pch] (fun e =>
      e.pch = { s.dev.pch with perstN := true }))
  ∧ (∀ (s : State) (pin : ColdPin),
    Makes (.coldReset pin) s (.resp :: .asn :: resetParts) (fun e =>
      e = { State.reset.dev with host := s.dev.host, hostBad := s.dev.hostBad, msix := s.dev.msix, fresh := s.dev.fresh, now := s.dev.now, pch := .cold s.dev.pch.flash s.dev.pch.otp s.dev.pch.chipPg s.dev.pch.perstN, regs := e.regs }
      ∧ ∀ a, e.reg a = if a = Adr.RST_CAUSE then (match pin with | .porchPg => 1#32 | .resetIn => 2#32) else resetValue a))
  ∧ (∀ (s : State) (m : Master) (v : Word) (why : WarmWhy), why = .rstCtrl m v → TakesRst s.dev m → s.dev.pch.up = true →
      s.dev.on PCH_STATUS.TRIPPED = false → v.getLsbD 0 = true →
    Makes (.warmReset why) s (.resp :: resetParts) (fun e =>
      e.resp = .okay 0 ∧ WarmReset s.dev e 3))
  ∧ (∀ (s : State) (m : Master) (v : Word) (why : WarmWhy), why = .rstCtrl m v → TakesRst s.dev m →
      v.getLsbD 0 = false ∨ s.dev.pch.up = false ∨ s.dev.on PCH_STATUS.TRIPPED = true →
    Makes (.warmReset why) s [.resp, .reg Adr.RST_CTRL] (fun e =>
      e.resp = .okay 0 ∧ Wrote s.dev e Adr.RST_CTRL v))
  ∧ (∀ s : State, s.dev.pch.chipPg = true → s.dev.pch.up = true → s.dev.inStandby = false → s.dev.on PCH_STATUS.TRIPPED = false →
    Makes (.warmReset .chipPg) s resetParts (fun e =>
      ∀ x : Dev, x = { s.dev with pch := { s.dev.pch with chipPg := false } } → WarmReset x e 5))
  ∧ (∀ s : State, s.dev.pch.chipPg = true → s.dev.pch.up = false ∨ s.dev.inStandby = true ∨ s.dev.on PCH_STATUS.TRIPPED = true →
    Makes (.warmReset .chipPg) s [.pch] (fun e =>
      e.pch = { s.dev.pch with chipPg := false }))
  ∧ (∀ s : State, s.dev.pch.chipPg = false →
    Makes (.warmReset .chipPg) s [] (fun e =>
      True))
  ∧ (∀ s : State, s.dev.chipRuns = true → s.dev.pch.up = true → s.dev.on PCH_STATUS.TRIPPED = false → s.dev.on PCH_CFG.FATAL_RESET = true →
    Makes (.warmReset .fatal) s resetParts (fun e =>
      WarmReset s.dev e 6))
  ∧ (∀ s : State, s.dev.chipRuns = true → s.dev.on PCH_CFG.FATAL_RESET = false →
    Makes (.warmReset .fatal) s [.reg Adr.LND_STATUS, .sap, .reg Adr.PCH_STATUS, .reg (Adr.PCH_SAFE_OWN 0), .reg (Adr.PCH_SAFE_OWN 1)] (fun e =>
      e.reg Adr.LND_STATUS = s.dev.fieldSet LND_STATUS.LANDING_FAULT 1 ∧ TakesBack s.dev e ∧ e.reg Adr.PCH_STATUS = s.dev.fieldSet PCH_STATUS.FORCED 1 ∧ ∀ p, 2 ≤ p → p < 8 → e.sapAt p = s.dev.sapAt p))
  ∧ (∀ s : State, s.dev.chipRuns = false →
    Makes (.warmReset .fatal) s [] (fun e =>
      True))
  ∧ (∀ s : State, s.dev.pch.up = true → s.dev.pch.chipPg = true → s.dev.on CLK_STATUS.ROOT_LOCK = true → s.dev.get PCH_STATUS.CHIP = 0 →
      s.dev.on PCH_STATUS.TRIPPED = false →
    Makes (.chipResetExit) s (.pch :: .reg Adr.PCH_STATUS :: .reg Adr.PCH_BOOT_STATUS :: (List.range 17).map (fun k => .reg (Adr.ENG_STATUS k))) (fun e =>
      e.reg Adr.PCH_STATUS = s.dev.fieldSet PCH_STATUS.CHIP 1 ∧ e.reg Adr.PCH_BOOT_STATUS = 0 ∧ e.pch = { s.dev.pch with warmDue := false, wakeDue := false }
      ∧ ∀ k : EngIx, e.reg (Adr.ENG_STATUS k) = s.dev.fieldSet (ENG_STATUS.STATE k) engSelftest))
  ∧ (∀ s : State,
      ¬(s.dev.pch.up = true ∧ s.dev.pch.chipPg = true ∧ s.dev.on CLK_STATUS.ROOT_LOCK = true ∧ s.dev.get PCH_STATUS.CHIP = 0 ∧ s.dev.on PCH_STATUS.TRIPPED = false) →
    Makes (.chipResetExit) s [] (fun e =>
      True))

/-- ENG_BLOCK_RESET, SC_BLOCK_RESET, MAC_BLOCK_RESET, DMC_BLOCK_RESET, SAP_BLOCK_RESET (R45, R95, R98, R227, R291, R439, R447, R480,
R487, R502, R504, R513 to R515, R545): what the reset of an engine, a supervisor core, an Ethernet port, a DRAM channel and a
serial port does. -/
def Obligations.BlockResets : Prop :=
  (∀ (s : State) (m : Master) (v : Word) (k : EngIx), TakesRst s.dev m → AssertsOne s.dev Adr.RST_ENG 17 v k → s.dev.xbarSlot k = none →
      (∀ c : CtxIx, (s.dev.ctxAt k c).mode = .free) →
    Makes (.engBlockReset m v) s (.resp :: .reg Adr.RST_ENG :: .reg Adr.RST_ENG_BUSY :: engineParts k) (fun e =>
      e.resp = .okay 0 ∧ e.reg Adr.RST_ENG = s.dev.withBit Adr.RST_ENG k ∧ e.reg Adr.RST_ENG_BUSY = s.dev.withBit Adr.RST_ENG_BUSY k ∧ EngineOff s.dev e k ∧ Cleared s.dev e k (16 + k)))
  ∧ (∀ (s : State) (m : Master) (v : Word) (k : EngIx), TakesRst s.dev m → AssertsOne s.dev Adr.RST_ENG 17 v k → s.dev.xbarSlot k = none →
      ∃ c : CtxIx, (s.dev.ctxAt k c).mode ≠ .free → s.dev.engSlot k = none →
    Makes (.engBlockReset m v) s (.resp :: .reg Adr.RST_ENG :: .reg Adr.RST_ENG_BUSY :: .tsk :: .reg Adr.TSK_SPARE :: engineParts k) (fun e =>
      e.resp = .okay 0 ∧ e.reg Adr.RST_ENG = s.dev.withBit Adr.RST_ENG k ∧ e.reg Adr.RST_ENG_BUSY = s.dev.withBit Adr.RST_ENG_BUSY k ∧ EngineOff s.dev e k ∧ Cleared s.dev e k (16 + k)
      ∧ e.tsk = { s.dev.tsk with running := s.dev.tsk.running.filter (fun r => !(r.eng == k.val && (r.ctx == 0 && decide ((s.dev.ctxAt k 0).mode ≠ .free) || r.ctx == 1 && decide ((s.dev.ctxAt k 1).mode ≠ .free)))) }
      ∧ e.reg Adr.TSK_SPARE = if s.dev.on TSK_SPARE.NONE = false ∧ s.dev.get TSK_SPARE.ENG = k then s.dev.fieldSet TSK_SPARE.NONE 1 else s.dev.reg Adr.TSK_SPARE))
  ∧ (∀ (s : State) (m : Master) (v : Word) (k : EngIx), TakesRst s.dev m → m.num ≠ 19 → AssertsOne s.dev Adr.RST_ENG 17 v k →
      s.dev.xbarSlot k ≠ none →
    Makes (.engBlockReset m v) s [.resp, .reg Adr.RST_STATUS] (fun e =>
      e.resp = .okay 0 ∧ e.reg Adr.RST_STATUS = s.dev.fieldSet RST_STATUS.REFUSED 1))
  ∧ (∀ (s : State) (m : Master) (v : Word) (k : EngIx) (sl q : Fin 16), TakesRst s.dev m → m.num = 19 →
      AssertsOne s.dev Adr.RST_ENG 17 v k → s.dev.xbarSlot k = some sl → (∀ c : CtxIx, (s.dev.ctxAt k c).mode = .free) →
      s.dev.isSpare k = false → s.dev.engSlot k = some q → s.dev.takeAt q = none → s.dev.on TSK_SPARE.NONE = false →
    Makes (.engBlockReset m v) s (.resp :: .reg Adr.RST_ENG :: .reg Adr.RST_ENG_BUSY :: .tsk :: .reg Adr.TSK_SPARE :: .reg (slotEngFld q).a :: .reg Adr.TSK_STATUS :: .reg Adr.TSK_TAKEOVER_CNT :: .regs .hall :: .regs .och :: (bankParts ++ engineParts k)) (fun e =>
      e.resp = .okay 0 ∧ e.reg Adr.RST_ENG = s.dev.withBit Adr.RST_ENG k ∧ e.reg Adr.RST_ENG_BUSY = s.dev.withBit Adr.RST_ENG_BUSY k ∧ EngineOff s.dev e k ∧ Cleared s.dev e k (16 + k) ∧ e.slotEng q = s.dev.get TSK_SPARE.ENG ∧ e.on TSK_SPARE.NONE = true
      ∧ e.tsk = { s.dev.tsk with take := s.dev.tsk.take ++ [⟨q, k, s.dev.get TSK_SPARE.ENG, .aQueued, s.dev.now, []⟩] }
      ∧ (e.reg Adr.TSK_TAKEOVER_CNT).toNat = min ((s.dev.reg Adr.TSK_TAKEOVER_CNT).toNat + 1) 0xFFFFFFFF ∧ e.on TSK_STATUS.TAKEOVER = true ∧ ArmsReset s.dev e [sl.val, 16 + sl]
      ∧ ∀ a, Blk.hall.holds a ∨ Blk.och.holds a → ∀ i, i < 32 → (e.reg a).getLsbD i = if bankHit [sl.val, 16 + sl] a i then (resetValue a).getLsbD i else (s.dev.reg a).getLsbD i))
  ∧ (∀ (s : State) (m : Master) (v : Word) (c : CoreIx), TakesRst s.dev m → AssertsOne s.dev Adr.RST_SC 2 v c →
    Makes (.scBlockReset m v) s [.resp, .reg Adr.RST_SC, .reg Adr.RST_SC_BUSY, .reg (Adr.PCH_WD_CFG c), .reg Adr.HIF_STATUS, .fab, .dmc] (fun e =>
      e.resp = .okay 0 ∧ e.reg Adr.RST_SC = s.dev.withBit Adr.RST_SC c ∧ e.reg Adr.RST_SC_BUSY = s.dev.withBit Adr.RST_SC_BUSY c ∧ Dropped s.dev e (17 + c)
      ∧ e.reg (Adr.PCH_WD_CFG c) = s.dev.fieldSet (PCH_WD_CFG.EN c) 0 ∧ OwnerIs s.dev e (if s.dev.get HIF_STATUS.FW_OWNER = c then 1 - c else s.dev.get HIF_STATUS.FW_OWNER)))
  ∧ (∀ (s : State) (m : Master) (v : Word) (p : PortIx), TakesRst s.dev m → AssertsOne s.dev Adr.RST_MAC 4 v p →
      (∀ x ∈ (s.dev.macAt p).txq, ∀ r i q, x.2.src ≠ .host r i q ∧ x.2.src ≠ .ptp i) →
      s.dev.get (TB_PTP_TXWR.WR p) = s.dev.get (TB_PTP_TXCFG.RD p) →
    Makes (.macBlockReset m v) s (.resp :: .reg Adr.RST_MAC :: .mac :: .reg (Adr.MAC_CTRL p) :: .reg (Adr.MAC_STATUS p)
        :: ((List.range 46).map (fun j => .reg (Adr.MAC_RX_OCTETS_LO p + 4 * j)) ++ (List.range 128).map (fun n => .reg (Adr.MAC_FLT_ACTION p n)))) (fun e =>
      e.resp = .okay 0 ∧ e.reg Adr.RST_MAC = s.dev.withBit Adr.RST_MAC p ∧ e.macAt p = MacState.reset ∧ ∀ j : PortIx, j ≠ p → e.macAt j = s.dev.macAt j ∧ e.reg (Adr.MAC_CTRL p) = s.dev.fieldSet (MAC_CTRL.PORT_EN p) 0
      ∧ e.reg (Adr.MAC_STATUS p) = (((s.dev.set (MAC_STATUS.RUNNING p) 0).set (MAC_STATUS.XOFF p) 0).set (MAC_STATUS.RX_PAUSED p) 0).reg (Adr.MAC_STATUS p)
      ∧ (∀ j, j < 46 → e.reg (Adr.MAC_RX_OCTETS_LO p + 4 * j) = 0) ∧ ∀ n, n < 128 → e.reg (Adr.MAC_FLT_ACTION p n) = s.dev.fieldSet (MAC_FLT_ACTION.VALID p n) 0))
  ∧ (∀ (s : State) (m : Master) (v : Word) (c : ChanIx), TakesRst s.dev m → AssertsOne s.dev Adr.RST_DMC 8 v c →
      (∀ k : ChanIx, k ≠ c → (s.dev.rankAt k 0).step ≠ 3 ∧ (s.dev.rankAt k 1).step ≠ 3) →
    Makes (.dmcBlockReset m v) s (.resp :: .reg Adr.RST_DMC :: .dmc :: .fab :: .mem :: .ecc :: .reg (Adr.DMC_CTRL c) :: .reg (Adr.DMC_TRN_STATUS c) :: .reg (Adr.DMC_ERRRESP_CNT c) :: .reg (Adr.DMC_WCK_DLY c)
        :: ((List.range 8).map (fun k => .reg (Adr.DMC_STATUS k)) ++ (List.range 18).map (fun j => .reg (Adr.DMC_DQ_DLY c j)) ++ (List.range 8).map (fun j => .reg (Adr.DMC_CA_DLY c j)))) (fun e =>
      e.resp = .okay 0 ∧ e.reg Adr.RST_DMC = s.dev.withBit Adr.RST_DMC c ∧ e.dmcAt c = .resetWith (s.dev.inSelfRefresh c) ∧ (∀ k : ChanIx, k ≠ c → e.dmcAt k = s.dev.dmcAt k) ∧ e.dmc.slotEnd = s.dev.dmc.slotEnd
      ∧ e.fab = { s.dev.fab with outs := TargetEnds (8 + c) s.dev.fab.outs } ∧ (e.reg (Adr.DMC_ERRRESP_CNT c)).toNat = min ((s.dev.reg (Adr.DMC_ERRRESP_CNT c)).toNat + ((s.dev.dmcAt c).queue.length + (s.dev.dmcAt c).wait.length)) 0xFFFFFFFF
      ∧ e.ecc = (if s.dev.inSelfRefresh c = true then s.dev.ecc else EccState.clearRange s.dev.ecc (2 ^ 40 + 2 ^ 33 * c) (2 ^ 33))
      ∧ e.reg (Adr.DMC_STATUS c) = ((((((s.dev.set (DMC_STATUS.STATE c) 0).set (DMC_STATUS.ERR_RESP c) (if ((s.dev.dmcAt c).queue.length + (s.dev.dmcAt c).wait.length) = 0 then s.dev.get (DMC_STATUS.ERR_RESP c) else 1)).set
            (DMC_STATUS.DEBT c) 0).set (DMC_STATUS.STEP c) 0).set (DMC_STATUS.HOT c) 0).set (DMC_STATUS.OOR c) 0).reg (Adr.DMC_STATUS c)
      ∧ (∀ k : ChanIx, k ≠ c → e.reg (Adr.DMC_STATUS k) = s.dev.fieldSet (DMC_STATUS.OOR k) 0)
      ∧ e.reg (Adr.DMC_CTRL c) = 0 ∧ e.reg (Adr.DMC_TRN_STATUS c) = 0 ∧ (∀ j : Fin 18, e.reg (Adr.DMC_DQ_DLY c j) = resetValue (Adr.DMC_DQ_DLY c j))
      ∧ (∀ j : Fin 8, e.reg (Adr.DMC_CA_DLY c j) = resetValue (Adr.DMC_CA_DLY c j)) ∧ e.reg (Adr.DMC_WCK_DLY c) = resetValue (Adr.DMC_WCK_DLY c)
      ∧ ∀ a, e.byteAt a = if s.dev.inSelfRefresh c = false ∧ 2 ^ 40 + 2 ^ 33 * c ≤ a ∧ a < 2 ^ 40 + 2 ^ 33 * (c + 1) then unwritten a else s.dev.byteAt a))
  ∧ (∀ (s : State) (m : Master) (v : Word) (p : SapIx), TakesRst s.dev m → AssertsOne s.dev Adr.RST_SAP 8 v p → 2 ≤ p.val →
    Makes (.sapBlockReset m v) s (.resp :: .reg Adr.RST_SAP :: .sap :: .regs .sap :: bankParts) (fun e =>
      e.resp = .okay 0 ∧ e.reg Adr.RST_SAP = s.dev.withBit Adr.RST_SAP p ∧ e.sapAt p = SapState.reset ∧ (∀ q : SapIx, q ≠ p → e.sapAt q = s.dev.sapAt q) ∧ BanksReset s.dev e [40 + p.val]
      ∧ e.reg (Adr.SAP_CTRL p) = s.dev.fieldSet (SAP_CTRL.EN p) 0
      ∧ e.reg (Adr.SAP_STATUS p) = ((s.dev.set (SAP_STATUS.RUNNING p) 0).set (SAP_STATUS.CLK_OK p) 0).reg (Adr.SAP_STATUS p) ∧ ∀ a, Blk.sap.holds a → a ≠ Adr.SAP_CTRL p → a ≠ Adr.SAP_STATUS p → ∀ i, i < 32 → (e.reg a).getLsbD i = if bankHit [40 + p.val] a i then (resetValue a).getLsbD i else (s.dev.reg a).getLsbD i))
  ∧ (∀ (s : State) (m : Master) (v : Word) (p : SapIx), TakesRst s.dev m → AssertsOne s.dev Adr.RST_SAP 8 v p → p.val < 2 →
      m.num = 19 ∨ ¬s.dev.usesPort p ∨ s.dev.on (PCH_SAFE_OWN.ACT p) = true →
    Makes (.sapBlockReset m v) s (.resp :: .reg Adr.RST_SAP :: .sap :: .regs .sap :: .reg (Adr.PCH_SAFE_OWN p) :: bankParts) (fun e =>
      e.resp = .okay 0 ∧ e.reg Adr.RST_SAP = s.dev.withBit Adr.RST_SAP p ∧ e.sapAt p = SapState.reset ∧ (∀ q : SapIx, q ≠ p → e.sapAt q = s.dev.sapAt q) ∧ BanksReset s.dev e [40 + p.val]
      ∧ e.reg (Adr.SAP_CTRL p) = s.dev.fieldSet (SAP_CTRL.EN p) 0
      ∧ e.reg (Adr.SAP_STATUS p) = ((s.dev.set (SAP_STATUS.RUNNING p) 0).set (SAP_STATUS.CLK_OK p) 0).reg (Adr.SAP_STATUS p) ∧ (∀ i, i < 32 → (e.reg (Adr.PCH_SAFE_OWN p)).getLsbD i = if bankHit [40 + p.val] (Adr.PCH_SAFE_OWN p) i then (resetValue (Adr.PCH_SAFE_OWN p)).getLsbD i
          else (s.dev.fieldSet (PCH_SAFE_OWN.ACT p) 0).getLsbD i) ∧ ∀ a, Blk.sap.holds a → a ≠ Adr.SAP_CTRL p → a ≠ Adr.SAP_STATUS p → ∀ i, i < 32 → (e.reg a).getLsbD i = if bankHit [40 + p.val] a i then (resetValue a).getLsbD i else (s.dev.reg a).getLsbD i))
  ∧ (∀ (s : State) (m : Master) (v : Word) (p : SapIx), TakesRst s.dev m → m.num ≠ 19 → AssertsOne s.dev Adr.RST_SAP 8 v p →
      s.dev.usesPort p → s.dev.on (PCH_SAFE_OWN.ACT p) = false →
    Makes (.sapBlockReset m v) s [.resp, .reg Adr.RST_STATUS] (fun e =>
      e.resp = .okay 0 ∧ e.reg Adr.RST_STATUS = s.dev.fieldSet RST_STATUS.REFUSED 1))

/-- HIF_BLOCK_RESET, FE_BLOCK_RESET, MIX_BLOCK_RESET, BLOCK_RESET_RELEASE, RESET_BUSY_CLEAR, and the writes of RST and CLK that
change nothing or are ignored (R45, R95, R272, R502, R504, R513, R514): resets, their release once the busy bit has cleared, and
the privilege they need. -/
def Obligations.ResetRegisters : Prop :=
  (∀ (s : State) (m : Master) (v : Word), TakesRst s.dev m → AssertsOne s.dev Adr.RST_MISC 3 v 0 → s.dev.evc.queue = [] →
      s.dev.evc.wraps = 0 →
    Makes (.hifBlockReset m v) s (.resp :: .reg Adr.RST_MISC :: .reg Adr.RST_MISC_BUSY :: .fab :: .dmc :: stopParts) (fun e =>
      e.resp = .okay 0 ∧ e.reg Adr.RST_MISC = s.dev.withBit Adr.RST_MISC 0 ∧ e.reg Adr.RST_MISC_BUSY = s.dev.withBit Adr.RST_MISC_BUSY 0 ∧ AllStopped s.dev e ∧ Cleared s.dev e 20 36))
  ∧ (∀ (s : State) (m : Master) (v : Word), TakesRst s.dev m → AssertsOne s.dev Adr.RST_MISC 3 v 1 →
    Makes (.feBlockReset m v) s (.resp :: .reg Adr.RST_MISC :: .reg Adr.RST_MISC_BUSY :: .fab :: .dmc :: .fe :: .regs .fe :: bankParts) (fun e =>
      e.resp = .okay 0 ∧ e.reg Adr.RST_MISC = s.dev.withBit Adr.RST_MISC 1 ∧ e.reg Adr.RST_MISC_BUSY = s.dev.withBit Adr.RST_MISC_BUSY 1 ∧ Dropped s.dev e 21 ∧ ActiveReset s.dev e Blk.fe.lo Blk.fe.hi ∧ ArmsReset s.dev e [37, 38, 39]
      ∧ e.fe = { s.dev.fe with inbox := [], rxf := [], txf := [], frozen := [], conc := s.dev.fe.conc.filter (fun x => decide (512 ≤ x.1)) }
      ∧ ∀ a, Blk.fe.holds a → e.reg a = if a ∈ [Adr.FE_CTRL, Adr.FE_STATUS, Adr.FE_CFG, Adr.FE_TMPL_BASE, Adr.FE_VERR] then s.dev.reg a else resetValue a))
  ∧ (∀ (s : State) (m : Master) (v : Word), TakesRst s.dev m → AssertsOne s.dev Adr.RST_MISC 3 v 2 →
    Makes (.mixBlockReset m v) s (.resp :: .reg Adr.RST_MISC :: .reg Adr.RST_MISC_BUSY :: .fab :: .dmc :: .mix :: .regs .mix :: bankParts) (fun e =>
      e.resp = .okay 0 ∧ e.reg Adr.RST_MISC = s.dev.withBit Adr.RST_MISC 2 ∧ e.reg Adr.RST_MISC_BUSY = s.dev.withBit Adr.RST_MISC_BUSY 2 ∧ Dropped s.dev e 24 ∧ ActiveReset s.dev e Blk.mix.lo Blk.mix.hi ∧ ArmsReset s.dev e [34, 35, 36]
      ∧ e.mix = { MixState.reset with tx := s.dev.mix.tx } ∧ ∀ a, Blk.mix.holds a → e.reg a = if a ∈ [Adr.MIX_CTRL, Adr.MIX_STATUS, Adr.MIX_INSTAGE_BASE, Adr.MIX_OUTSTAGE_BASE, Adr.MIX_DELAY_BASE, Adr.MIX_VERR, Adr.MIX_LATE_CNT, Adr.MIX_PRIV_CNT, Adr.MIX_CLIP_CNT] then s.dev.reg a else resetValue a))
  ∧ (∀ (s : State) (m : Master) (v : Word) (i : Instr) (a n : Nat), TakesRst s.dev m →
      ((i = .engBlockReset m v ∧ a = Adr.RST_ENG ∧ n = 17) ∨ (i = .scBlockReset m v ∧ a = Adr.RST_SC ∧ n = 2) ∨ (i = .macBlockReset m v ∧ a = Adr.RST_MAC ∧ n = 4)
        ∨ (i = .dmcBlockReset m v ∧ a = Adr.RST_DMC ∧ n = 8) ∨ (i = .sapBlockReset m v ∧ a = Adr.RST_SAP ∧ n = 8)
        ∨ (i = .hifBlockReset m v ∧ a = Adr.RST_MISC ∧ n = 3) ∨ (i = .feBlockReset m v ∧ a = Adr.RST_MISC ∧ n = 3) ∨ (i = .mixBlockReset m v ∧ a = Adr.RST_MISC ∧ n = 3)) →
      (∀ j, j < n → v.getLsbD j = (s.dev.reg a).getLsbD j) →
    Makes (i) s [.resp] (fun e =>
      e.resp = .okay 0))
  ∧ (∀ (s : State) (m : Master) (v : Word) (i : Instr), Served s.dev m → m.priv = false → m.num ≠ 19 →
      (i = .engBlockReset m v ∨ i = .scBlockReset m v ∨ i = .macBlockReset m v ∨ i = .dmcBlockReset m v ∨ i = .sapBlockReset m v ∨ i = .hifBlockReset m v ∨ i = .feBlockReset m v
        ∨ i = .mixBlockReset m v ∨ i = .warmReset (.rstCtrl m v) ∨ (∃ b, i = .blockResetRelease m b v)) →
    Makes (i) s [.resp, .reg Adr.RST_STATUS, .reg Adr.RST_IGNORED_CNT] (fun e =>
      e.resp = .okay 0 ∧ (e.reg (Adr.RST_IGNORED_CNT)).toNat = min ((s.dev.reg (Adr.RST_IGNORED_CNT)).toNat + 1) 0xFFFFFFFF ∧ e.reg Adr.RST_STATUS = s.dev.fieldSet RST_STATUS.IGNORED 1))
  ∧ (∀ (s : State) (m : Master) (v : Word) (i : Instr), Served s.dev m → m.priv = false → m.num ≠ 19 →
      (i = .xtalRetry m v ∨ i = .measGo m v) →
    Makes (i) s [.resp, .reg Adr.CLK_STATUS, .reg Adr.RST_IGNORED_CNT] (fun e =>
      e.resp = .okay 0 ∧ (e.reg (Adr.RST_IGNORED_CNT)).toNat = min ((s.dev.reg (Adr.RST_IGNORED_CNT)).toNat + 1) 0xFFFFFFFF ∧ e.reg Adr.CLK_STATUS = (s.dev.set CLK_STATUS.IGNORED 1).reg Adr.CLK_STATUS))
  ∧ (∀ (s : State) (m : Master) (b : RstIx) (v : Word) (j : Nat), TakesRst s.dev m →
      ReleasesOne s.dev (Adr.RST_ENG + 4 * b.val) ([17, 2, 4, 8, 8, 3].getD b 0) v j →
      (s.dev.reg (Adr.RST_ENG_BUSY + 4 * b.val)).getLsbD j = true →
    Makes (.blockResetRelease m b v) s [.resp, .reg (Adr.RST_ENG + 4 * b.val)] (fun e =>
      e.resp = .okay 0 ∧ e.reg (Adr.RST_ENG + 4 * b.val) = s.dev.noBit (Adr.RST_ENG + 4 * b.val) j))
  ∧ (∀ (s : State) (m : Master) (b : RstIx) (v : Word) (j : Nat), TakesRst s.dev m →
      ReleasesOne s.dev (Adr.RST_ENG + 4 * b.val) ([17, 2, 4, 8, 8, 3].getD b 0) v j →
      (s.dev.reg (Adr.RST_ENG_BUSY + 4 * b.val)).getLsbD j = false → b.val = 0 →
    Makes (.blockResetRelease m b v) s [.resp, .reg (Adr.RST_ENG + 4 * b.val), .reg (Adr.FAB_MSTR_STATUS j), .reg (Adr.ENG_STATUS j)] (fun e =>
      e.resp = .okay 0 ∧ e.reg (Adr.RST_ENG + 4 * b.val) = s.dev.noBit (Adr.RST_ENG + 4 * b.val) j ∧ e.reg (Adr.FAB_MSTR_STATUS j) = s.dev.fieldSet (FAB_MSTR_STATUS.IN_RESET j) 0
      ∧ e.reg (Adr.ENG_STATUS j) = if s.dev.get (ENG_STATUS.STATE j) = engOff then s.dev.fieldSet (ENG_STATUS.STATE j) engSelftest else s.dev.reg (Adr.ENG_STATUS j)))
  ∧ (∀ (s : State) (m : Master) (b : RstIx) (v : Word) (j : Nat) (q : Nat), TakesRst s.dev m →
      ReleasesOne s.dev (Adr.RST_ENG + 4 * b.val) ([17, 2, 4, 8, 8, 3].getD b 0) v j →
      (s.dev.reg (Adr.RST_ENG_BUSY + 4 * b.val)).getLsbD j = false →
      (b.val = 1 ∧ q = 17 + j) ∨ (b.val = 5 ∧ q = [20, 21, 24].getD j 0) →
    Makes (.blockResetRelease m b v) s [.resp, .reg (Adr.RST_ENG + 4 * b.val), .reg (Adr.FAB_MSTR_STATUS q)] (fun e =>
      e.resp = .okay 0 ∧ e.reg (Adr.RST_ENG + 4 * b.val) = s.dev.noBit (Adr.RST_ENG + 4 * b.val) j ∧ e.reg (Adr.FAB_MSTR_STATUS q) = s.dev.fieldSet (FAB_MSTR_STATUS.IN_RESET q) 0))
  ∧ (∀ (s : State) (m : Master) (b : RstIx) (v : Word) (j : Nat), TakesRst s.dev m →
      ReleasesOne s.dev (Adr.RST_ENG + 4 * b.val) ([17, 2, 4, 8, 8, 3].getD b 0) v j →
      (s.dev.reg (Adr.RST_ENG_BUSY + 4 * b.val)).getLsbD j = false → b.val = 2 ∨ b.val = 3 ∨ b.val = 4 →
    Makes (.blockResetRelease m b v) s [.resp, .reg (Adr.RST_ENG + 4 * b.val)] (fun e =>
      e.resp = .okay 0 ∧ e.reg (Adr.RST_ENG + 4 * b.val) = s.dev.noBit (Adr.RST_ENG + 4 * b.val) j))
  ∧ (∀ (s : State) (m : Master) (b : RstIx) (v : Word), TakesRst s.dev m →
      (∀ j, j < [17, 2, 4, 8, 8, 3].getD b 0 → v.getLsbD j = (s.dev.reg (Adr.RST_ENG + 4 * b.val)).getLsbD j) →
    Makes (.blockResetRelease m b v) s [.resp] (fun e =>
      e.resp = .okay 0))
  ∧ (∀ (s : State) (m : Fin 28) (r j : Nat), s.dev.chipRuns = true → masterBlock m = some (r, j) →
      (s.dev.reg (Adr.RST_ENG_BUSY + 4 * r)).getLsbD j = true → (s.dev.reg (Adr.RST_ENG + 4 * r)).getLsbD j = true →
    Makes (.resetBusyClear m) s [.reg (Adr.RST_ENG_BUSY + 4 * r), .reg (Adr.FAB_MSTR_STATUS m)] (fun e =>
      e.reg (Adr.RST_ENG_BUSY + 4 * r) = s.dev.noBit (Adr.RST_ENG_BUSY + 4 * r) j ∧ e.reg (Adr.FAB_MSTR_STATUS m) = s.dev.fieldSet (FAB_MSTR_STATUS.IN_RESET m) 1))
  ∧ (∀ (s : State) (m : Fin 28) (r j : Nat), s.dev.chipRuns = true → masterBlock m = some (r, j) →
      (s.dev.reg (Adr.RST_ENG_BUSY + 4 * r)).getLsbD j = true → (s.dev.reg (Adr.RST_ENG + 4 * r)).getLsbD j = false →
    Makes (.resetBusyClear m) s [.reg (Adr.RST_ENG_BUSY + 4 * r), .reg (Adr.FAB_MSTR_STATUS m), .reg (Adr.ENG_STATUS j)] (fun e =>
      e.reg (Adr.RST_ENG_BUSY + 4 * r) = s.dev.noBit (Adr.RST_ENG_BUSY + 4 * r) j ∧ e.reg (Adr.FAB_MSTR_STATUS m) = s.dev.fieldSet (FAB_MSTR_STATUS.IN_RESET m) 0
      ∧ e.reg (Adr.ENG_STATUS j) = if r = 0 ∧ s.dev.get (ENG_STATUS.STATE j) = engOff then s.dev.fieldSet (ENG_STATUS.STATE j) engSelftest else s.dev.reg (Adr.ENG_STATUS j)))
  ∧ (∀ (s : State) (m : Fin 28) (r j : Nat), s.dev.chipRuns = true → masterBlock m = some (r, j) →
      (s.dev.reg (Adr.RST_ENG_BUSY + 4 * r)).getLsbD j = false →
    Makes (.resetBusyClear m) s [] (fun e =>
      True))
  ∧ (∀ (s : State) (m : Fin 28), s.dev.chipRuns = true → m.val ∈ [19, 22, 23, 25, 26, 27] → m.val ∈ s.dev.clk.link →
    Makes (.resetBusyClear m) s [.reg (Adr.FAB_MSTR_STATUS m)] (fun e =>
      e.reg (Adr.FAB_MSTR_STATUS m) = s.dev.fieldSet (FAB_MSTR_STATUS.IN_RESET m) 1))
  ∧ (∀ (s : State) (m : Fin 28), s.dev.chipRuns = false ∨ (m.val ∈ [19, 22, 23, 25, 26, 27] ∧ m.val ∉ s.dev.clk.link) →
    Makes (.resetBusyClear m) s [] (fun e =>
      True))

/-! ### The management port -/

/-- GET_ID, GET_STATUS, GET_TEMP, GET_ASN, GET_EVENT, READ_REG, FORCE_SAFE, WARM_RESET_CMD, WAKE, THERM_CLEAR, ALERT_RESPONSE,
SMB_SCL_TIMEOUT (R543, R548, R551 to R554, R591): what the porch answers and does; the low bit of the byte of an alert response,
the porch ROM version and the answer to a misaligned READ_REG are the model's (free, Config, log). -/
def Obligations.ManagementPort : Prop :=
  (∀ s : State, s.dev.pch.up = true →
    Makes (.getId) s [.resp] (fun e =>
      Replies s.dev e [0x01] (8#8 :: (bytesOf 2 (s.dev.otpWord 0 % 65536) ++ bytesOf 2 0x1768 ++ bytesOf 1 (s.dev.otpWord 0 / 65536 % 256) ++ [Config.porchVersion, 0, 0]))))
  ∧ (∀ s : State, s.dev.pch.up = true →
    Makes (.getStatus) s [.resp] (fun e =>
      Replies s.dev e [0x02] (16#8 :: (bytesOf 2 ((s.dev.reg Adr.PCH_STATUS).toNat % 65536) ++ bytesOf 1 ((s.dev.reg Adr.PCH_BOOT_STATUS).toNat % 256) ++ bytesOf 1 (s.dev.get RST_CAUSE.CAUSE)
        ++ bytesOf 1 (s.dev.get PCH_WAKE_CAUSE.CAUSE) ++ bytesOf 1 (s.dev.get (PCH_SAFE_OWN.ACT 0) + 2 * s.dev.get (PCH_SAFE_OWN.ACT 1))
        ++ bytesOf 2 (s.dev.get PCH_THERM_STATUS.MAX) ++ bytesOf 2 (s.dev.get PCH_PE_LOAD.CYCLES)
        ++ bytesOf 1 ((s.dev.porch.filter (fun r => r.unread)).length) ++ bytesOf 1 ((s.dev.reg Adr.PCH_WD_STATUS).toNat % 256) ++ [0, 0, 0, 0]))))
  ∧ (∀ s : State, s.dev.pch.up = true →
    Makes (.getTemp) s [.resp] (fun e =>
      Replies s.dev e [0x03] (16#8 :: (List.range 8).flatMap (fun i => bytesOf 2 (s.dev.get (PCH_TEMP.TEMP i))))))
  ∧ (∀ (s : State) (r : Byte), s.dev.pch.up = true → r.toNat < 8 ∨ (16 ≤ r.toNat ∧ r.toNat < 20) →
    Makes (.getAsn r) s [.resp] (fun e =>
      Replies s.dev e [0x04, 1, r.toNat] (16#8 :: (bytesOf 8 (vat s.dev.asnCopy r.toNat).1 ++ bytesOf 8 (vat s.dev.asnCopy r.toNat).2))))
  ∧ (∀ (s : State) (r : Byte), s.dev.pch.up = true → ¬(r.toNat < 8 ∨ (16 ≤ r.toNat ∧ r.toNat < 20)) →
    Makes (.getAsn r) s [.resp] (fun e =>
      Replies s.dev e [0x04, 1, r.toNat] [0]))
  ∧ (∀ (s : State) (r : PorchRec), s.dev.pch.up = true → s.dev.evc.queue = [] → s.dev.evc.wraps = 0 → s.dev.porch.length ≤ 64 →
      s.dev.porch.find? (fun x => x.unread) = some r →
    Makes (.getEvent) s [.resp] (fun e =>
      Replies s.dev e [0x05] (32#8 :: (bytesOf 8 r.seq ++ bytesOf 2 r.ev.src ++ bytesOf 1 r.ev.typ ++ bytesOf 1 r.ev.b11 ++ bytesOf 4 r.ev.detail ++ bytesOf 8 r.ev.period ++ bytesOf 4 r.ev.n ++ [0, 0, 0, 0]))
      ∧ e.porch = s.dev.porch.map (fun x => if x.seq = r.seq then { x with unread := false } else x) ∧ e.porchSeq = s.dev.porchSeq))
  ∧ (∀ s : State, s.dev.pch.up = true → s.dev.evc.queue = [] → s.dev.evc.wraps = 0 → s.dev.porch.length ≤ 64 →
      (∀ x ∈ s.dev.porch, x.unread = false) →
    Makes (.getEvent) s [.resp] (fun e =>
      Replies s.dev e [0x05] [0] ∧ e.porch = s.dev.porch))
  ∧ (∀ (s : State) (o : BitVec 16), s.dev.pch.up = true → o.toNat % 4 ≠ 0 →
    Makes (.readReg o) s [.resp, .reg Adr.PCH_STATUS, .reg Adr.PCH_SMB_ERR_CNT] (fun e =>
      SmbFails s.dev e))
  ∧ (∀ (s : State) (o : BitVec 16), s.dev.pch.up = true → o.toNat % 4 = 0 → regAt (0x180000 + o.toNat) = none →
    Makes (.readReg o) s [.resp] (fun e =>
      Replies s.dev e [0x06, o.toNat % 256, o.toNat / 256] [0, 0, 0, 0]))
  ∧ (∀ (s : State) (o : BitVec 16) (f : Found), s.dev.pch.up = true → o.toNat % 4 = 0 → regAt (0x180000 + o.toNat) = some f →
      f.spec.half = .word → o.toNat ≠ 0xC4 →
    Makes (.readReg o) s [.resp, .reg (0x180000 + o.toNat)] (fun e =>
      Replies s.dev e [0x06, o.toNat % 256, o.toNat / 256] (bytesOf 4 ((s.dev.reg (0x180000 + o.toNat)).toNat &&& readMask f.spec.fields))
      ∧ ∀ x ∈ f.spec.fields, bitsOf (e.reg (0x180000 + o.toNat)).toNat x.lo x.w = if x.acc = .rc then 0 else bitsOf (s.dev.reg (0x180000 + o.toNat)).toNat x.lo x.w))
  ∧ (∀ (s : State) (o : BitVec 16) (f : Found), s.dev.pch.up = true → o.toNat % 4 = 0 → regAt (0x180000 + o.toNat) = some f →
      o.toNat = 0xC4 →
    Makes (.readReg o) s [.resp, .reg (0x180000 + o.toNat)] (fun e =>
      Replies s.dev e [0x06, o.toNat % 256, o.toNat / 256] (bytesOf 4 (s.dev.otpWord (s.dev.get PCH_OTP_ADDR.WORD) &&& readMask f.spec.fields))))
  ∧ (∀ (s : State) (o : BitVec 16) (f : Found) (g : Found), s.dev.pch.up = true → o.toNat % 4 = 0 → regAt (0x180000 + o.toNat) = some f →
      f.spec.half = .low → regAt ((0x180000 + o.toNat) + 4) = some g →
    Makes (.readReg o) s [.resp, .pairs] (fun e =>
      Replies s.dev e [0x06, o.toNat % 256, o.toNat / 256] (bytesOf 4 ((s.dev.reg (0x180000 + o.toNat)).toNat &&& readMask f.spec.fields))
      ∧ (sget (fun _ => (0 : Word)) e.latch (0x180000 + o.toNat)).toNat = (s.dev.reg ((0x180000 + o.toNat) + 4)).toNat &&& readMask g.spec.fields))
  ∧ (∀ (s : State) (o : BitVec 16) (f : Found), s.dev.pch.up = true → o.toNat % 4 = 0 → regAt (0x180000 + o.toNat) = some f →
      f.spec.half = .high → f.pl.blk = .pch →
    Makes (.readReg o) s [.resp] (fun e =>
      Replies s.dev e [0x06, o.toNat % 256, o.toNat / 256] (bytesOf 4 (sget (fun _ => (0 : Word)) s.dev.latch ((0x180000 + o.toNat) - 4)).toNat)))
  ∧ (∀ (s : State) (pec : Option Byte), s.dev.pch.up = true → PecGood s.dev pec [0x10] →
    Makes (.forceSafe pec) s [.resp, .sap, .reg Adr.PCH_STATUS, .reg (Adr.PCH_SAFE_OWN 0), .reg (Adr.PCH_SAFE_OWN 1)] (fun e =>
      e.resp = .bytes [] ∧ TakesBack s.dev e ∧ e.reg Adr.PCH_STATUS = s.dev.fieldSet PCH_STATUS.FORCED 1 ∧ ∀ p, 2 ≤ p → p < 8 → e.sapAt p = s.dev.sapAt p))
  ∧ (∀ (s : State) (pec : Option Byte), s.dev.pch.up = true → PecGood s.dev pec [0x12] → s.dev.inStandby = false →
      s.dev.on PCH_STATUS.TRIPPED = false →
    Makes (.warmResetCmd pec) s (.resp :: resetParts) (fun e =>
      e.resp = .bytes [] ∧ WarmReset s.dev e 3))
  ∧ (∀ (s : State) (pec : Option Byte), s.dev.pch.up = true → PecGood s.dev pec [0x12] →
      s.dev.inStandby = true ∨ s.dev.on PCH_STATUS.TRIPPED = true →
    Makes (.warmResetCmd pec) s [.resp] (fun e =>
      e.resp = .bytes []))
  ∧ (∀ (s : State) (pec : Option Byte), s.dev.pch.up = true → PecGood s.dev pec [0x13] → s.dev.inStandby = true →
    Makes (.wake pec) s [.resp, .pch, .reg Adr.PCH_STATUS, .reg Adr.PCH_WAKE_CAUSE] (fun e =>
      e.resp = .bytes [] ∧ e.pch = { s.dev.pch with wakeOut := true, wakeDue := true } ∧ e.reg Adr.PCH_STATUS = s.dev.fieldSet PCH_STATUS.CHIP 0
      ∧ e.get PCH_WAKE_CAUSE.CAUSE = s.dev.get PCH_WAKE_CAUSE.CAUSE ||| 4))
  ∧ (∀ (s : State) (pec : Option Byte), s.dev.pch.up = true → PecGood s.dev pec [0x13] → s.dev.inStandby = false →
    Makes (.wake pec) s [.resp] (fun e =>
      e.resp = .bytes []))
  ∧ (∀ (s : State) (pec : Option Byte), s.dev.pch.up = true → PecGood s.dev pec [0x14] → s.dev.on PCH_STATUS.TRIPPED = true →
      (∀ i, i < 8 → signedOf 16 (s.dev.get (PCH_TEMP.TEMP i)) < 16 * (s.dev.get PCH_THERM_CFG.CLEAR_BELOW : Int)) →
    Makes (.thermClear pec) s [.resp, .pch, .reg Adr.PCH_STATUS, .reg Adr.PCH_THERM_STATUS, .reg Adr.PCH_WAKE_CAUSE] (fun e =>
      e.resp = .bytes [] ∧ e.pch = { s.dev.pch with wakeOut := true } ∧ e.reg Adr.PCH_STATUS = s.dev.fieldSet PCH_STATUS.TRIPPED 0
      ∧ e.reg Adr.PCH_THERM_STATUS = s.dev.fieldSet PCH_THERM_STATUS.TRIP_SENSOR 0
      ∧ e.get PCH_WAKE_CAUSE.CAUSE = s.dev.get PCH_WAKE_CAUSE.CAUSE ||| 8))
  ∧ (∀ (s : State) (pec : Option Byte) (i : Nat), s.dev.pch.up = true → PecGood s.dev pec [0x14] → i < 8 →
      s.dev.on PCH_STATUS.TRIPPED = false ∨ 16 * (s.dev.get PCH_THERM_CFG.CLEAR_BELOW : Int) ≤ signedOf 16 (s.dev.get (PCH_TEMP.TEMP i)) →
    Makes (.thermClear pec) s [.resp] (fun e =>
      e.resp = .bytes []))
  ∧ (∀ (s : State) (pec : Option Byte) (a b : Byte) (i : Instr) (l : List Nat), s.dev.pch.up = true →
      ((i = .forceSafe pec ∧ l = [0x10]) ∨ (i = .warmResetCmd pec ∧ l = [0x12]) ∨ (i = .wake pec ∧ l = [0x13]) ∨ (i = .thermClear pec ∧ l = [0x14]) ∨ (i = .resetMaster a b pec ∧ l = [0x11, a.toNat, b.toNat])) →
      ¬PecGood s.dev pec l →
    Makes (i) s [.resp, .reg Adr.PCH_STATUS, .reg Adr.PCH_SMB_ERR_CNT] (fun e =>
      SmbFails s.dev e))
  ∧ (∀ (s : State) (b : Nat), s.dev.pch.up = true →
      (∃ j, j < 8 ∧ (s.dev.get PCH_SMB_CFG.ALERT_MASK).testBit j = true ∧ (s.dev.reg Adr.PCH_STATUS).getLsbD (5 + j) = true) →
      b = s.dev.smbAt + Config.free s.dev.fresh % 2 →
    Makes (.alertResponse) s [.resp, .fresh] (fun e =>
      e.resp = .bytes [BitVec.ofNat 8 b, BitVec.ofNat 8 (pecOf [0x19, b])] ∧ s.dev.fresh < e.fresh))
  ∧ (∀ s : State, s.dev.pch.up = true →
      ¬(∃ j, j < 8 ∧ (s.dev.get PCH_SMB_CFG.ALERT_MASK).testBit j = true ∧ (s.dev.reg Adr.PCH_STATUS).getLsbD (5 + j) = true) →
    Makes (.alertResponse) s [.resp] (fun e =>
      e.resp = .nack))
  ∧ (∀ s : State, s.dev.pch.up = true →
    Makes (.smbSclTimeout) s [.resp, .reg Adr.PCH_STATUS, .reg Adr.PCH_SMB_ERR_CNT] (fun e =>
      SmbFails s.dev e))
  ∧ (∀ (s : State) (i : Instr), s.dev.pch.up = false →
      (i = .getId ∨ i = .getStatus ∨ i = .getTemp ∨ i = .getEvent ∨ i = .alertResponse ∨ i = .smbSclTimeout ∨ (∃ r, i = .getAsn r) ∨ (∃ o, i = .readReg o)
        ∨ (∃ pec, i = .forceSafe pec ∨ i = .warmResetCmd pec ∨ i = .wake pec ∨ i = .thermClear pec) ∨ ∃ a b pec, i = .resetMaster a b pec) →
    Makes (i) s [] (fun e =>
      True))

/-- RESET_MASTER (R502, R513, R532, R552 to R554): the porch asserts and releases the reset of every master, by the RST bits without
the refusals of R515 or through its own link; a high byte other than 0 and 1, and a master that does not exist, do nothing
(log). -/
def Obligations.ResetMaster : Prop :=
  (∀ (s : State) (t on : Byte) (pec : Option Byte), s.dev.pch.up = true → PecGood s.dev pec [0x11, t.toNat, on.toNat] → on ≠ 0#8 →
      on ≠ 1#8 →
    Makes (.resetMaster t on pec) s [.resp] (fun e =>
      e.resp = .bytes []))
  ∧ (∀ (s : State) (t on : Byte) (pec : Option Byte) (k : EngIx), s.dev.pch.up = true → PecGood s.dev pec [0x11, t.toNat, on.toNat] →
      on = 1#8 → s.dev.chipOn = true → t.toNat = k → (s.dev.reg Adr.RST_ENG).getLsbD k = false → s.dev.xbarSlot k = none →
      (∀ c : CtxIx, (s.dev.ctxAt k c).mode = .free) →
    Makes (.resetMaster t on pec) s (.resp :: .reg Adr.RST_ENG :: .reg Adr.RST_ENG_BUSY :: engineParts k) (fun e =>
      e.resp = .bytes [] ∧ e.reg Adr.RST_ENG = s.dev.withBit Adr.RST_ENG k ∧ e.reg Adr.RST_ENG_BUSY = s.dev.withBit Adr.RST_ENG_BUSY k ∧ EngineOff s.dev e k ∧ Cleared s.dev e k (16 + k)))
  ∧ (∀ (s : State) (t on : Byte) (pec : Option Byte) (k : EngIx) (sl q : Fin 16), s.dev.pch.up = true →
      PecGood s.dev pec [0x11, t.toNat, on.toNat] → on = 1#8 → s.dev.chipOn = true → t.toNat = k →
      (s.dev.reg Adr.RST_ENG).getLsbD k = false → s.dev.xbarSlot k = some sl → (∀ c : CtxIx, (s.dev.ctxAt k c).mode = .free) →
      s.dev.isSpare k = false → s.dev.engSlot k = some q → s.dev.takeAt q = none → s.dev.on TSK_SPARE.NONE = false →
    Makes (.resetMaster t on pec) s (.resp :: .reg Adr.RST_ENG :: .reg Adr.RST_ENG_BUSY :: .tsk :: .reg Adr.TSK_SPARE :: .reg (slotEngFld q).a :: .reg Adr.TSK_STATUS :: .reg Adr.TSK_TAKEOVER_CNT :: .regs .hall :: .regs .och :: (bankParts ++ engineParts k)) (fun e =>
      e.resp = .bytes [] ∧ e.reg Adr.RST_ENG = s.dev.withBit Adr.RST_ENG k ∧ e.reg Adr.RST_ENG_BUSY = s.dev.withBit Adr.RST_ENG_BUSY k ∧ EngineOff s.dev e k ∧ Cleared s.dev e k (16 + k) ∧ e.slotEng q = s.dev.get TSK_SPARE.ENG ∧ e.on TSK_SPARE.NONE = true
      ∧ e.tsk = { s.dev.tsk with take := s.dev.tsk.take ++ [⟨q, k, s.dev.get TSK_SPARE.ENG, .aQueued, s.dev.now, []⟩] }
      ∧ (e.reg Adr.TSK_TAKEOVER_CNT).toNat = min ((s.dev.reg Adr.TSK_TAKEOVER_CNT).toNat + 1) 0xFFFFFFFF ∧ e.on TSK_STATUS.TAKEOVER = true ∧ ArmsReset s.dev e [sl.val, 16 + sl]
      ∧ ∀ a, Blk.hall.holds a ∨ Blk.och.holds a → ∀ i, i < 32 → (e.reg a).getLsbD i = if bankHit [sl.val, 16 + sl] a i then (resetValue a).getLsbD i else (s.dev.reg a).getLsbD i))
  ∧ (∀ (s : State) (t on : Byte) (pec : Option Byte) (c : CoreIx), s.dev.pch.up = true → PecGood s.dev pec [0x11, t.toNat, on.toNat] →
      on = 1#8 → s.dev.chipOn = true → t.toNat = 17 + c → (s.dev.reg Adr.RST_SC).getLsbD c = false →
    Makes (.resetMaster t on pec) s [.resp, .reg Adr.RST_SC, .reg Adr.RST_SC_BUSY, .reg (Adr.PCH_WD_CFG c), .reg Adr.HIF_STATUS, .fab, .dmc] (fun e =>
      e.resp = .bytes [] ∧ e.reg Adr.RST_SC = s.dev.withBit Adr.RST_SC c ∧ e.reg Adr.RST_SC_BUSY = s.dev.withBit Adr.RST_SC_BUSY c ∧ Dropped s.dev e (17 + c)
      ∧ e.reg (Adr.PCH_WD_CFG c) = s.dev.fieldSet (PCH_WD_CFG.EN c) 0 ∧ OwnerIs s.dev e (if s.dev.get HIF_STATUS.FW_OWNER = c then 1 - c else s.dev.get HIF_STATUS.FW_OWNER)))
  ∧ (∀ (s : State) (t on : Byte) (pec : Option Byte), s.dev.pch.up = true → PecGood s.dev pec [0x11, t.toNat, on.toNat] → on = 1#8 →
      s.dev.chipOn = true → t = 20#8 → (s.dev.reg Adr.RST_MISC).getLsbD 0 = false → s.dev.evc.queue = [] → s.dev.evc.wraps = 0 →
    Makes (.resetMaster t on pec) s (.resp :: .reg Adr.RST_MISC :: .reg Adr.RST_MISC_BUSY :: .fab :: .dmc :: stopParts) (fun e =>
      e.resp = .bytes [] ∧ e.reg Adr.RST_MISC = s.dev.withBit Adr.RST_MISC 0 ∧ e.reg Adr.RST_MISC_BUSY = s.dev.withBit Adr.RST_MISC_BUSY 0 ∧ AllStopped s.dev e ∧ Cleared s.dev e 20 36))
  ∧ (∀ (s : State) (t on : Byte) (pec : Option Byte), s.dev.pch.up = true → PecGood s.dev pec [0x11, t.toNat, on.toNat] → on = 1#8 →
      s.dev.chipOn = true → t = 21#8 → (s.dev.reg Adr.RST_MISC).getLsbD 1 = false →
    Makes (.resetMaster t on pec) s (.resp :: .reg Adr.RST_MISC :: .reg Adr.RST_MISC_BUSY :: .fab :: .dmc :: .fe :: .regs .fe :: bankParts) (fun e =>
      e.resp = .bytes [] ∧ e.reg Adr.RST_MISC = s.dev.withBit Adr.RST_MISC 1 ∧ e.reg Adr.RST_MISC_BUSY = s.dev.withBit Adr.RST_MISC_BUSY 1 ∧ Dropped s.dev e 21 ∧ ActiveReset s.dev e Blk.fe.lo Blk.fe.hi ∧ ArmsReset s.dev e [37, 38, 39]
      ∧ e.fe = { s.dev.fe with inbox := [], rxf := [], txf := [], frozen := [], conc := s.dev.fe.conc.filter (fun x => decide (512 ≤ x.1)) }
      ∧ ∀ a, Blk.fe.holds a → e.reg a = if a ∈ [Adr.FE_CTRL, Adr.FE_STATUS, Adr.FE_CFG, Adr.FE_TMPL_BASE, Adr.FE_VERR] then s.dev.reg a else resetValue a))
  ∧ (∀ (s : State) (t on : Byte) (pec : Option Byte), s.dev.pch.up = true → PecGood s.dev pec [0x11, t.toNat, on.toNat] → on = 1#8 →
      s.dev.chipOn = true → t = 24#8 → (s.dev.reg Adr.RST_MISC).getLsbD 2 = false →
    Makes (.resetMaster t on pec) s (.resp :: .reg Adr.RST_MISC :: .reg Adr.RST_MISC_BUSY :: .fab :: .dmc :: .mix :: .regs .mix :: bankParts) (fun e =>
      e.resp = .bytes [] ∧ e.reg Adr.RST_MISC = s.dev.withBit Adr.RST_MISC 2 ∧ e.reg Adr.RST_MISC_BUSY = s.dev.withBit Adr.RST_MISC_BUSY 2 ∧ Dropped s.dev e 24 ∧ ActiveReset s.dev e Blk.mix.lo Blk.mix.hi ∧ ArmsReset s.dev e [34, 35, 36]
      ∧ e.mix = { MixState.reset with tx := s.dev.mix.tx } ∧ ∀ a, Blk.mix.holds a → e.reg a = if a ∈ [Adr.MIX_CTRL, Adr.MIX_STATUS, Adr.MIX_INSTAGE_BASE, Adr.MIX_OUTSTAGE_BASE, Adr.MIX_DELAY_BASE, Adr.MIX_VERR, Adr.MIX_LATE_CNT, Adr.MIX_PRIV_CNT, Adr.MIX_CLIP_CNT] then s.dev.reg a else resetValue a))
  ∧ (∀ (s : State) (t on : Byte) (pec : Option Byte) (r j : Nat), s.dev.pch.up = true → PecGood s.dev pec [0x11, t.toNat, on.toNat] →
      (on = 1#8 ∧ (s.dev.reg (Adr.RST_ENG + 4 * r)).getLsbD j = true) ∨ (on = 0#8 ∧ (s.dev.reg (Adr.RST_ENG + 4 * r)).getLsbD j = false) →
      masterBlock t.toNat = some (r, j) →
    Makes (.resetMaster t on pec) s [.resp] (fun e =>
      e.resp = .bytes []))
  ∧ (∀ (s : State) (t on : Byte) (pec : Option Byte) (r j : Nat), s.dev.pch.up = true → PecGood s.dev pec [0x11, t.toNat, on.toNat] →
      on = 0#8 → s.dev.chipOn = true → masterBlock t.toNat = some (r, j) → (s.dev.reg (Adr.RST_ENG + 4 * r)).getLsbD j = true →
      (s.dev.reg (Adr.RST_ENG_BUSY + 4 * r)).getLsbD j = true →
    Makes (.resetMaster t on pec) s [.resp, .reg (Adr.RST_ENG + 4 * r)] (fun e =>
      e.resp = .bytes [] ∧ e.reg (Adr.RST_ENG + 4 * r) = s.dev.noBit (Adr.RST_ENG + 4 * r) j))
  ∧ (∀ (s : State) (t on : Byte) (pec : Option Byte) (r j : Nat), s.dev.pch.up = true → PecGood s.dev pec [0x11, t.toNat, on.toNat] →
      on = 0#8 → s.dev.chipOn = true → masterBlock t.toNat = some (r, j) → (s.dev.reg (Adr.RST_ENG + 4 * r)).getLsbD j = true →
      (s.dev.reg (Adr.RST_ENG_BUSY + 4 * r)).getLsbD j = false →
    Makes (.resetMaster t on pec) s [.resp, .reg (Adr.RST_ENG + 4 * r), .reg (Adr.FAB_MSTR_STATUS t.toNat), .reg (Adr.ENG_STATUS j)] (fun e =>
      e.resp = .bytes [] ∧ e.reg (Adr.RST_ENG + 4 * r) = s.dev.noBit (Adr.RST_ENG + 4 * r) j ∧ e.reg (Adr.FAB_MSTR_STATUS t.toNat) = s.dev.fieldSet (FAB_MSTR_STATUS.IN_RESET t.toNat) 0
      ∧ e.reg (Adr.ENG_STATUS j) = if r = 0 ∧ s.dev.get (ENG_STATUS.STATE j) = engOff then s.dev.fieldSet (ENG_STATUS.STATE j) engSelftest else s.dev.reg (Adr.ENG_STATUS j)))
  ∧ (∀ (s : State) (t on : Byte) (pec : Option Byte), s.dev.pch.up = true → PecGood s.dev pec [0x11, t.toNat, on.toNat] → on = 1#8 →
      t = 19#8 →
    Makes (.resetMaster t on pec) s [.resp, .pch, .sap, .reg Adr.PCH_STATUS] (fun e =>
      e.resp = .bytes [] ∧ e.pch = { s.dev.pch with pe := .held, pipe := [] } ∧ e.reg Adr.PCH_STATUS = s.dev.fieldSet PCH_STATUS.SAFE_RUN 0
      ∧ (∀ p : SapIx, e.sapAt p = { s.dev.sapAt p with pe := (e.sapAt p).pe }) ∧ (∀ p : SapIx, 2 ≤ p.val → e.sapAt p = s.dev.sapAt p) ∧ ∀ p, p < 2 → ∀ x ∈ (e.sapAt p).pe, x = 0))
  ∧ (∀ (s : State) (t on : Byte) (pec : Option Byte), s.dev.pch.up = true → PecGood s.dev pec [0x11, t.toNat, on.toNat] → on = 0#8 →
      t = 19#8 → s.dev.pch.pe = .held →
    Makes (.resetMaster t on pec) s [.resp, .pch, .reg Adr.PCH_FL_STATUS] (fun e =>
      e.resp = .bytes [] ∧ e.pch = { s.dev.pch with pe := .reload } ∧ e.reg Adr.PCH_FL_STATUS = s.dev.fieldSet PCH_FL_STATUS.LOCKED 1))
  ∧ (∀ (s : State) (t on : Byte) (pec : Option Byte), s.dev.pch.up = true → PecGood s.dev pec [0x11, t.toNat, on.toNat] → on = 0#8 →
      t = 19#8 → s.dev.pch.pe ≠ .held →
    Makes (.resetMaster t on pec) s [.resp] (fun e =>
      e.resp = .bytes []))
  ∧ (∀ (s : State) (t on : Byte) (pec : Option Byte), s.dev.pch.up = true → PecGood s.dev pec [0x11, t.toNat, on.toNat] → on = 1#8 →
      s.dev.chipOn = true → t = 22#8 → s.dev.linkHeld 22 = false →
    Makes (.resetMaster t on pec) s (.resp :: .clk :: .fab :: .dmc :: .tsk :: .regs .tsk :: .pairs :: bankParts) (fun e =>
      e.resp = .bytes [] ∧ e.clk = { s.dev.clk with link := s.dev.clk.link ++ [22] } ∧ Dropped s.dev e 22 ∧ e.tsk = TskState.reset ∧ ArmsReset s.dev e [33] ∧ RangeReset s.dev e Blk.tsk.lo Blk.tsk.hi))
  ∧ (∀ (s : State) (t on : Byte) (pec : Option Byte), s.dev.pch.up = true → PecGood s.dev pec [0x11, t.toNat, on.toNat] → on = 1#8 →
      s.dev.chipOn = true → t = 23#8 → s.dev.linkHeld 23 = false →
    Makes (.resetMaster t on pec) s (.resp :: .clk :: .fab :: .dmc :: .ecc :: [.reg Adr.ECC_SCRUB_CTRL, .reg Adr.ECC_STATUS]) (fun e =>
      e.resp = .bytes [] ∧ e.clk = { s.dev.clk with link := s.dev.clk.link ++ [23] } ∧ Dropped s.dev e 23 ∧ e.ecc = { s.dev.ecc with scrub := 0, since := s.dev.now } ∧ e.reg Adr.ECC_SCRUB_CTRL = s.dev.fieldSet ECC_SCRUB_CTRL.EN 0 ∧ e.reg Adr.ECC_STATUS = s.dev.fieldSet ECC_STATUS.SCRUB_RUNNING 0))
  ∧ (∀ (s : State) (t on : Byte) (pec : Option Byte), s.dev.pch.up = true → PecGood s.dev pec [0x11, t.toNat, on.toNat] → on = 1#8 →
      s.dev.chipOn = true → t = 25#8 → s.dev.linkHeld 25 = false →
    Makes (.resetMaster t on pec) s (.resp :: .clk :: [.fab, .dmc]) (fun e =>
      e.resp = .bytes [] ∧ e.clk = { s.dev.clk with link := s.dev.clk.link ++ [25] } ∧ e.dmc.slotEnd = s.dev.dmc.slotEnd
      ∧ (∀ c : ChanIx, e.dmcAt c = { s.dev.dmcAt c with patrol := 0, wait := (s.dev.dmcAt c).wait.filter (fun q => q.master ≠ 25) }) ∧ e.fab.held = s.dev.fab.held.filter (fun q => q.master ≠ 25)
      ∧ e.fab.outs = (s.dev.fab.outs.filter (fun x => !(x.master == 25 && x.ans.isNone && (List.range 8).any (fun c => x.target == 8 + c && (s.dev.dmcAt c).wait.any (fun q => q.master == 25 && q.id == x.id))))).map
          (fun x => if x.master = 25 then { x with stale := true } else x)))
  ∧ (∀ (s : State) (t on : Byte) (pec : Option Byte), s.dev.pch.up = true → PecGood s.dev pec [0x11, t.toNat, on.toNat] → on = 1#8 →
      s.dev.chipOn = true → t = 26#8 → s.dev.linkHeld 26 = false →
    Makes (.resetMaster t on pec) s (.resp :: .clk :: .fab :: .dmc :: .hall :: .regs .hall :: .pairs :: bankParts) (fun e =>
      e.resp = .bytes [] ∧ e.clk = { s.dev.clk with link := s.dev.clk.link ++ [26] } ∧ Dropped s.dev e 26 ∧ e.hall = HallState.reset ∧ ArmsReset s.dev e [32] ∧ RangeReset s.dev e Blk.hall.lo Blk.hall.hi))
  ∧ (∀ (s : State) (t on : Byte) (pec : Option Byte), s.dev.pch.up = true → PecGood s.dev pec [0x11, t.toNat, on.toNat] → on = 1#8 →
      s.dev.chipOn = true → t = 27#8 → s.dev.linkHeld 27 = false →
    Makes (.resetMaster t on pec) s (.resp :: .clk :: .fab :: .dmc :: .gang :: .lortis :: .regs .gang :: .pairs :: bankParts) (fun e =>
      e.resp = .bytes [] ∧ e.clk = { s.dev.clk with link := s.dev.clk.link ++ [27] } ∧ Dropped s.dev e 27 ∧ e.gang = GangState.reset ∧ e.lortis = [] ∧ ArmsReset s.dev e [48] ∧ RangeReset s.dev e Blk.gang.lo Blk.gang.hi))
  ∧ (∀ (s : State) (t on : Byte) (pec : Option Byte), s.dev.pch.up = true → PecGood s.dev pec [0x11, t.toNat, on.toNat] → on = 1#8 →
      s.dev.chipOn = true → t.toNat ∈ [22, 23, 25, 26, 27] → s.dev.linkHeld t.toNat = true →
    Makes (.resetMaster t on pec) s [.resp] (fun e =>
      e.resp = .bytes []))
  ∧ (∀ (s : State) (t on : Byte) (pec : Option Byte), s.dev.pch.up = true → PecGood s.dev pec [0x11, t.toNat, on.toNat] → on = 0#8 →
      s.dev.chipOn = true → t.toNat ∈ [22, 23, 25, 26, 27] →
    Makes (.resetMaster t on pec) s [.resp, .clk, .reg (Adr.FAB_MSTR_STATUS t.toNat)] (fun e =>
      e.resp = .bytes [] ∧ e.clk = { s.dev.clk with link := s.dev.clk.link.filter (fun k => k ≠ t.toNat) } ∧ e.reg (Adr.FAB_MSTR_STATUS t.toNat) = s.dev.fieldSet (FAB_MSTR_STATUS.IN_RESET t.toNat) 0))
  ∧ (∀ (s : State) (t on : Byte) (pec : Option Byte), s.dev.pch.up = true → PecGood s.dev pec [0x11, t.toNat, on.toNat] →
      (s.dev.chipOn = false ∧ t ≠ 19#8) ∨ 28 ≤ t.toNat →
    Makes (.resetMaster t on pec) s [.resp] (fun e =>
      e.resp = .bytes []))
end

