-- ==== Sys2Proof/Laws/Maps.lean ====
section
/-! SUPPORT. Sys2Proof/Laws/Maps.lean: the laws of sparse maps: a read after a write, and the canonical form. -/
namespace Sys2Proof.Machine

variable {α : Type}

@[simp] theorem sget_nil (f : Nat → α) (k : Nat) : sget f [] k = f k := rfl

theorem sget_serase_same (f : Nat → α) (m : List (Nat × α)) (k : Nat) : sget f (serase m k) k = f k := by
  induction m with
  | nil => rfl
  | cons e t ih =>
    obtain ⟨j, v⟩ := e
    by_cases h : j = k <;> simp [serase, sget, h, ih]

theorem sget_serase_other (f : Nat → α) (m : List (Nat × α)) {j k : Nat} (h : j ≠ k) :
    sget f (serase m k) j = sget f m j := by
  induction m with
  | nil => rfl
  | cons e t ih =>
    obtain ⟨i, v⟩ := e
    by_cases hk : i = k
    · have : i ≠ j := fun e => h (e ▸ hk)
      simp [serase, sget, hk, ih, h.symm]
    · by_cases hj : i = j <;> simp_all [serase, sget]

theorem sget_sput_same (f : Nat → α) (m : List (Nat × α)) (k : Nat) (v : α) : sget f (sput m k v) k = v := by
  induction m with
  | nil => simp [sput, sget]
  | cons e t ih =>
    obtain ⟨j, w⟩ := e
    simp only [sput]
    split
    · simp [sget]
    · split
      · simp [sget]
      · simp_all [sget]

theorem sget_sput_other (f : Nat → α) (m : List (Nat × α)) {j k : Nat} (v : α) (h : j ≠ k) :
    sget f (sput m k v) j = sget f m j := by
  induction m with
  | nil => simp [sput, sget, h.symm]
  | cons e t ih =>
    obtain ⟨i, w⟩ := e
    simp only [sput]
    split
    · simp [sget, h.symm]
    · split
      · next hi => subst hi; simp [sget, h.symm]
      · by_cases hj : i = j <;> simp_all [sget]

/-- A key reads what was written to it last. -/
@[simp] theorem sget_sset_same [DecidableEq α] (f : Nat → α) (m : List (Nat × α)) (k : Nat) (v : α) :
    sget f (sset f m k v) k = v := by
  unfold sset
  split
  · next h => rw [sget_serase_same, h]
  · exact sget_sput_same f m k v

/-- A write leaves every other key as it was. -/
theorem sget_sset_other [DecidableEq α] (f : Nat → α) (m : List (Nat × α)) {j k : Nat} (v : α) (h : j ≠ k) :
    sget f (sset f m k v) j = sget f m j := by
  unfold sset
  split
  · exact sget_serase_other f m h
  · exact sget_sput_other f m v h

theorem sget_sset [DecidableEq α] (f : Nat → α) (m : List (Nat × α)) (j k : Nat) (v : α) :
    sget f (sset f m k v) j = if j = k then v else sget f m j := by
  split
  · next h => subst h; simp
  · next h => exact sget_sset_other f m v h

/-! ### The canonical form -/

/-- The bound under which every key of a map lies: `lo` below the first key. -/
def above (lo : Option Nat) (k : Nat) : Bool :=
  match lo with
  | none => true
  | some b => decide (b < k)

theorem swf_cons [DecidableEq α] (f : Nat → α) (lo : Option Nat) (k : Nat) (v : α) (t : List (Nat × α)) :
    swf f lo ((k, v) :: t) = true ↔ above lo k = true ∧ v ≠ f k ∧ swf f (some k) t = true := by
  cases lo <;> simp [swf, above, and_assoc]

theorem above_of_some {lo : Option Nat} {b k : Nat} (h : above lo b = true) (hk : b < k) : above lo k = true := by
  cases lo <;> simp_all [above]; omega

theorem swf_weaken [DecidableEq α] (f : Nat → α) {lo : Option Nat} {b : Nat} {m : List (Nat × α)}
    (h : swf f (some b) m = true) (hb : above lo b = true) : swf f lo m = true := by
  cases m with
  | nil => rfl
  | cons e t =>
    obtain ⟨k, v⟩ := e
    rw [swf_cons] at h ⊢
    exact ⟨above_of_some hb (by simpa [above] using h.1), h.2⟩

theorem swf_serase [DecidableEq α] (f : Nat → α) (m : List (Nat × α)) (k : Nat) :
    ∀ lo, swf f lo m = true → swf f lo (serase m k) = true := by
  induction m with
  | nil => intro _ _; rfl
  | cons e t ih =>
    obtain ⟨j, v⟩ := e
    intro lo h
    rw [swf_cons] at h
    simp only [serase]
    split
    · exact swf_weaken f (ih _ h.2.2) h.1
    · rw [swf_cons]; exact ⟨h.1, h.2.1, ih _ h.2.2⟩

theorem swf_sput [DecidableEq α] (f : Nat → α) (m : List (Nat × α)) (k : Nat) (v : α) (hv : v ≠ f k) :
    ∀ lo, swf f lo m = true → above lo k = true → swf f lo (sput m k v) = true := by
  induction m with
  | nil => intro lo _ hk; simp only [sput]; rw [swf_cons]; exact ⟨hk, hv, rfl⟩
  | cons e t ih =>
    obtain ⟨j, w⟩ := e
    intro lo h hk
    have h0 := h
    rw [swf_cons] at h
    simp only [sput]
    split
    · next hlt =>
      rw [swf_cons]
      refine ⟨hk, hv, ?_⟩
      rw [swf_cons]
      exact ⟨by simpa [above] using hlt, h.2⟩
    · split
      · next he => subst he; rw [swf_cons]; exact ⟨h.1, hv, h.2.2⟩
      · rw [swf_cons]; exact ⟨h.1, h.2.1, ih _ h.2.2 (by simp [above]; omega)⟩

/-- A write keeps the canonical form. -/
theorem swf_sset [DecidableEq α] (f : Nat → α) (m : List (Nat × α)) (k : Nat) (v : α)
    (h : swf f none m = true) : swf f none (sset f m k v) = true := by
  unfold sset
  split
  · exact swf_serase f m k _ h
  · next hv => exact swf_sput f m k v hv _ h rfl

/-- Canonical maps that read alike are equal. -/
theorem sget_below [DecidableEq α] (f : Nat → α) (m : List (Nat × α)) (b k : Nat)
    (h : swf f (some b) m = true) (hk : k ≤ b) : sget f m k = f k := by
  induction m generalizing b with
  | nil => rfl
  | cons e t ih =>
    obtain ⟨j, v⟩ := e
    rw [swf_cons] at h
    have hj : b < j := by simpa [above] using h.1
    have : j ≠ k := by omega
    simp [sget, this]
    exact ih j h.2.2 (by omega)

end Sys2Proof.Machine
end

