-- ==== Sys2Proof/Laws/State.lean ====
section
/-! SUPPORT. Sys2Proof/Laws/State.lean: what each update of the device leaves as it was, field by field. -/
namespace Sys2Proof.Machine.Dev

/-! ### setReg -/

@[simp] theorem setReg_act (d : Dev) (a : Nat) (v : Word) : (d.setReg a v).act = d.act := by simp only [setReg]
@[simp] theorem setReg_act1 (d : Dev) (a : Nat) (v : Word) : (d.setReg a v).act1 = d.act1 := by simp only [setReg]
@[simp] theorem setReg_act2 (d : Dev) (a : Nat) (v : Word) : (d.setReg a v).act2 = d.act2 := by simp only [setReg]
@[simp] theorem setReg_latch (d : Dev) (a : Nat) (v : Word) : (d.setReg a v).latch = d.latch := by simp only [setReg]
@[simp] theorem setReg_hbuf (d : Dev) (a : Nat) (v : Word) : (d.setReg a v).hbuf = d.hbuf := by simp only [setReg]
@[simp] theorem setReg_mem (d : Dev) (a : Nat) (v : Word) : (d.setReg a v).mem = d.mem := by simp only [setReg]
@[simp] theorem setReg_host (d : Dev) (a : Nat) (v : Word) : (d.setReg a v).host = d.host := by simp only [setReg]
@[simp] theorem setReg_hostBad (d : Dev) (a : Nat) (v : Word) : (d.setReg a v).hostBad = d.hostBad := by simp only [setReg]
@[simp] theorem setReg_msix (d : Dev) (a : Nat) (v : Word) : (d.setReg a v).msix = d.msix := by simp only [setReg]
@[simp] theorem setReg_resp (d : Dev) (a : Nat) (v : Word) : (d.setReg a v).resp = d.resp := by simp only [setReg]
@[simp] theorem setReg_fresh (d : Dev) (a : Nat) (v : Word) : (d.setReg a v).fresh = d.fresh := by simp only [setReg]
@[simp] theorem setReg_now (d : Dev) (a : Nat) (v : Word) : (d.setReg a v).now = d.now := by simp only [setReg]
@[simp] theorem setReg_lnd (d : Dev) (a : Nat) (v : Word) : (d.setReg a v).lnd = d.lnd := by simp only [setReg]
@[simp] theorem setReg_eng (d : Dev) (a : Nat) (v : Word) : (d.setReg a v).eng = d.eng := by simp only [setReg]
@[simp] theorem setReg_ring (d : Dev) (a : Nat) (v : Word) : (d.setReg a v).ring = d.ring := by simp only [setReg]
@[simp] theorem setReg_asnCopy (d : Dev) (a : Nat) (v : Word) : (d.setReg a v).asnCopy = d.asnCopy := by simp only [setReg]
@[simp] theorem setReg_evc (d : Dev) (a : Nat) (v : Word) : (d.setReg a v).evc = d.evc := by simp only [setReg]
@[simp] theorem setReg_porch (d : Dev) (a : Nat) (v : Word) : (d.setReg a v).porch = d.porch := by simp only [setReg]
@[simp] theorem setReg_porchSeq (d : Dev) (a : Nat) (v : Word) : (d.setReg a v).porchSeq = d.porchSeq := by simp only [setReg]
@[simp] theorem setReg_xlt (d : Dev) (a : Nat) (v : Word) : (d.setReg a v).xlt = d.xlt := by simp only [setReg]
@[simp] theorem setReg_ecc (d : Dev) (a : Nat) (v : Word) : (d.setReg a v).ecc = d.ecc := by simp only [setReg]
@[simp] theorem setReg_fab (d : Dev) (a : Nat) (v : Word) : (d.setReg a v).fab = d.fab := by simp only [setReg]
@[simp] theorem setReg_tsk (d : Dev) (a : Nat) (v : Word) : (d.setReg a v).tsk = d.tsk := by simp only [setReg]
@[simp] theorem setReg_hall (d : Dev) (a : Nat) (v : Word) : (d.setReg a v).hall = d.hall := by simp only [setReg]
@[simp] theorem setReg_gang (d : Dev) (a : Nat) (v : Word) : (d.setReg a v).gang = d.gang := by simp only [setReg]
@[simp] theorem setReg_tbs (d : Dev) (a : Nat) (v : Word) : (d.setReg a v).tbs = d.tbs := by simp only [setReg]
@[simp] theorem setReg_mac (d : Dev) (a : Nat) (v : Word) : (d.setReg a v).mac = d.mac := by simp only [setReg]
@[simp] theorem setReg_fe (d : Dev) (a : Nat) (v : Word) : (d.setReg a v).fe = d.fe := by simp only [setReg]
@[simp] theorem setReg_lortis (d : Dev) (a : Nat) (v : Word) : (d.setReg a v).lortis = d.lortis := by simp only [setReg]
@[simp] theorem setReg_sap (d : Dev) (a : Nat) (v : Word) : (d.setReg a v).sap = d.sap := by simp only [setReg]
@[simp] theorem setReg_mix (d : Dev) (a : Nat) (v : Word) : (d.setReg a v).mix = d.mix := by simp only [setReg]
@[simp] theorem setReg_och (d : Dev) (a : Nat) (v : Word) : (d.setReg a v).och = d.och := by simp only [setReg]
@[simp] theorem setReg_dmc (d : Dev) (a : Nat) (v : Word) : (d.setReg a v).dmc = d.dmc := by simp only [setReg]
@[simp] theorem setReg_pch (d : Dev) (a : Nat) (v : Word) : (d.setReg a v).pch = d.pch := by simp only [setReg]
@[simp] theorem setReg_clk (d : Dev) (a : Nat) (v : Word) : (d.setReg a v).clk = d.clk := by simp only [setReg]

/-! ### set -/

@[simp] theorem set_act (d : Dev) (f : Fld) (x : Nat) : (d.set f x).act = d.act := by simp only [set, setReg]
@[simp] theorem set_act1 (d : Dev) (f : Fld) (x : Nat) : (d.set f x).act1 = d.act1 := by simp only [set, setReg]
@[simp] theorem set_act2 (d : Dev) (f : Fld) (x : Nat) : (d.set f x).act2 = d.act2 := by simp only [set, setReg]
@[simp] theorem set_latch (d : Dev) (f : Fld) (x : Nat) : (d.set f x).latch = d.latch := by simp only [set, setReg]
@[simp] theorem set_hbuf (d : Dev) (f : Fld) (x : Nat) : (d.set f x).hbuf = d.hbuf := by simp only [set, setReg]
@[simp] theorem set_mem (d : Dev) (f : Fld) (x : Nat) : (d.set f x).mem = d.mem := by simp only [set, setReg]
@[simp] theorem set_host (d : Dev) (f : Fld) (x : Nat) : (d.set f x).host = d.host := by simp only [set, setReg]
@[simp] theorem set_hostBad (d : Dev) (f : Fld) (x : Nat) : (d.set f x).hostBad = d.hostBad := by simp only [set, setReg]
@[simp] theorem set_msix (d : Dev) (f : Fld) (x : Nat) : (d.set f x).msix = d.msix := by simp only [set, setReg]
@[simp] theorem set_resp (d : Dev) (f : Fld) (x : Nat) : (d.set f x).resp = d.resp := by simp only [set, setReg]
@[simp] theorem set_fresh (d : Dev) (f : Fld) (x : Nat) : (d.set f x).fresh = d.fresh := by simp only [set, setReg]
@[simp] theorem set_now (d : Dev) (f : Fld) (x : Nat) : (d.set f x).now = d.now := by simp only [set, setReg]
@[simp] theorem set_lnd (d : Dev) (f : Fld) (x : Nat) : (d.set f x).lnd = d.lnd := by simp only [set, setReg]
@[simp] theorem set_eng (d : Dev) (f : Fld) (x : Nat) : (d.set f x).eng = d.eng := by simp only [set, setReg]
@[simp] theorem set_ring (d : Dev) (f : Fld) (x : Nat) : (d.set f x).ring = d.ring := by simp only [set, setReg]
@[simp] theorem set_asnCopy (d : Dev) (f : Fld) (x : Nat) : (d.set f x).asnCopy = d.asnCopy := by simp only [set, setReg]
@[simp] theorem set_evc (d : Dev) (f : Fld) (x : Nat) : (d.set f x).evc = d.evc := by simp only [set, setReg]
@[simp] theorem set_porch (d : Dev) (f : Fld) (x : Nat) : (d.set f x).porch = d.porch := by simp only [set, setReg]
@[simp] theorem set_porchSeq (d : Dev) (f : Fld) (x : Nat) : (d.set f x).porchSeq = d.porchSeq := by simp only [set, setReg]
@[simp] theorem set_xlt (d : Dev) (f : Fld) (x : Nat) : (d.set f x).xlt = d.xlt := by simp only [set, setReg]
@[simp] theorem set_ecc (d : Dev) (f : Fld) (x : Nat) : (d.set f x).ecc = d.ecc := by simp only [set, setReg]
@[simp] theorem set_fab (d : Dev) (f : Fld) (x : Nat) : (d.set f x).fab = d.fab := by simp only [set, setReg]
@[simp] theorem set_tsk (d : Dev) (f : Fld) (x : Nat) : (d.set f x).tsk = d.tsk := by simp only [set, setReg]
@[simp] theorem set_hall (d : Dev) (f : Fld) (x : Nat) : (d.set f x).hall = d.hall := by simp only [set, setReg]
@[simp] theorem set_gang (d : Dev) (f : Fld) (x : Nat) : (d.set f x).gang = d.gang := by simp only [set, setReg]
@[simp] theorem set_tbs (d : Dev) (f : Fld) (x : Nat) : (d.set f x).tbs = d.tbs := by simp only [set, setReg]
@[simp] theorem set_mac (d : Dev) (f : Fld) (x : Nat) : (d.set f x).mac = d.mac := by simp only [set, setReg]
@[simp] theorem set_fe (d : Dev) (f : Fld) (x : Nat) : (d.set f x).fe = d.fe := by simp only [set, setReg]
@[simp] theorem set_lortis (d : Dev) (f : Fld) (x : Nat) : (d.set f x).lortis = d.lortis := by simp only [set, setReg]
@[simp] theorem set_sap (d : Dev) (f : Fld) (x : Nat) : (d.set f x).sap = d.sap := by simp only [set, setReg]
@[simp] theorem set_mix (d : Dev) (f : Fld) (x : Nat) : (d.set f x).mix = d.mix := by simp only [set, setReg]
@[simp] theorem set_och (d : Dev) (f : Fld) (x : Nat) : (d.set f x).och = d.och := by simp only [set, setReg]
@[simp] theorem set_dmc (d : Dev) (f : Fld) (x : Nat) : (d.set f x).dmc = d.dmc := by simp only [set, setReg]
@[simp] theorem set_pch (d : Dev) (f : Fld) (x : Nat) : (d.set f x).pch = d.pch := by simp only [set, setReg]
@[simp] theorem set_clk (d : Dev) (f : Fld) (x : Nat) : (d.set f x).clk = d.clk := by simp only [set, setReg]

/-! ### set64 -/

@[simp] theorem set64_act (d : Dev) (a v : Nat) : (d.set64 a v).act = d.act := by simp only [set64, setReg]
@[simp] theorem set64_act1 (d : Dev) (a v : Nat) : (d.set64 a v).act1 = d.act1 := by simp only [set64, setReg]
@[simp] theorem set64_act2 (d : Dev) (a v : Nat) : (d.set64 a v).act2 = d.act2 := by simp only [set64, setReg]
@[simp] theorem set64_latch (d : Dev) (a v : Nat) : (d.set64 a v).latch = d.latch := by simp only [set64, setReg]
@[simp] theorem set64_hbuf (d : Dev) (a v : Nat) : (d.set64 a v).hbuf = d.hbuf := by simp only [set64, setReg]
@[simp] theorem set64_mem (d : Dev) (a v : Nat) : (d.set64 a v).mem = d.mem := by simp only [set64, setReg]
@[simp] theorem set64_host (d : Dev) (a v : Nat) : (d.set64 a v).host = d.host := by simp only [set64, setReg]
@[simp] theorem set64_hostBad (d : Dev) (a v : Nat) : (d.set64 a v).hostBad = d.hostBad := by simp only [set64, setReg]
@[simp] theorem set64_msix (d : Dev) (a v : Nat) : (d.set64 a v).msix = d.msix := by simp only [set64, setReg]
@[simp] theorem set64_resp (d : Dev) (a v : Nat) : (d.set64 a v).resp = d.resp := by simp only [set64, setReg]
@[simp] theorem set64_fresh (d : Dev) (a v : Nat) : (d.set64 a v).fresh = d.fresh := by simp only [set64, setReg]
@[simp] theorem set64_now (d : Dev) (a v : Nat) : (d.set64 a v).now = d.now := by simp only [set64, setReg]
@[simp] theorem set64_lnd (d : Dev) (a v : Nat) : (d.set64 a v).lnd = d.lnd := by simp only [set64, setReg]
@[simp] theorem set64_eng (d : Dev) (a v : Nat) : (d.set64 a v).eng = d.eng := by simp only [set64, setReg]
@[simp] theorem set64_ring (d : Dev) (a v : Nat) : (d.set64 a v).ring = d.ring := by simp only [set64, setReg]
@[simp] theorem set64_asnCopy (d : Dev) (a v : Nat) : (d.set64 a v).asnCopy = d.asnCopy := by simp only [set64, setReg]
@[simp] theorem set64_evc (d : Dev) (a v : Nat) : (d.set64 a v).evc = d.evc := by simp only [set64, setReg]
@[simp] theorem set64_porch (d : Dev) (a v : Nat) : (d.set64 a v).porch = d.porch := by simp only [set64, setReg]
@[simp] theorem set64_porchSeq (d : Dev) (a v : Nat) : (d.set64 a v).porchSeq = d.porchSeq := by simp only [set64, setReg]
@[simp] theorem set64_xlt (d : Dev) (a v : Nat) : (d.set64 a v).xlt = d.xlt := by simp only [set64, setReg]
@[simp] theorem set64_ecc (d : Dev) (a v : Nat) : (d.set64 a v).ecc = d.ecc := by simp only [set64, setReg]
@[simp] theorem set64_fab (d : Dev) (a v : Nat) : (d.set64 a v).fab = d.fab := by simp only [set64, setReg]
@[simp] theorem set64_tsk (d : Dev) (a v : Nat) : (d.set64 a v).tsk = d.tsk := by simp only [set64, setReg]
@[simp] theorem set64_hall (d : Dev) (a v : Nat) : (d.set64 a v).hall = d.hall := by simp only [set64, setReg]
@[simp] theorem set64_gang (d : Dev) (a v : Nat) : (d.set64 a v).gang = d.gang := by simp only [set64, setReg]
@[simp] theorem set64_tbs (d : Dev) (a v : Nat) : (d.set64 a v).tbs = d.tbs := by simp only [set64, setReg]
@[simp] theorem set64_mac (d : Dev) (a v : Nat) : (d.set64 a v).mac = d.mac := by simp only [set64, setReg]
@[simp] theorem set64_fe (d : Dev) (a v : Nat) : (d.set64 a v).fe = d.fe := by simp only [set64, setReg]
@[simp] theorem set64_lortis (d : Dev) (a v : Nat) : (d.set64 a v).lortis = d.lortis := by simp only [set64, setReg]
@[simp] theorem set64_sap (d : Dev) (a v : Nat) : (d.set64 a v).sap = d.sap := by simp only [set64, setReg]
@[simp] theorem set64_mix (d : Dev) (a v : Nat) : (d.set64 a v).mix = d.mix := by simp only [set64, setReg]
@[simp] theorem set64_och (d : Dev) (a v : Nat) : (d.set64 a v).och = d.och := by simp only [set64, setReg]
@[simp] theorem set64_dmc (d : Dev) (a v : Nat) : (d.set64 a v).dmc = d.dmc := by simp only [set64, setReg]
@[simp] theorem set64_pch (d : Dev) (a v : Nat) : (d.set64 a v).pch = d.pch := by simp only [set64, setReg]
@[simp] theorem set64_clk (d : Dev) (a v : Nat) : (d.set64 a v).clk = d.clk := by simp only [set64, setReg]

/-! ### setByte -/

@[simp] theorem setByte_regs (d : Dev) (a : Nat) (b : Byte) : (d.setByte a b).regs = d.regs := by simp only [setByte]
@[simp] theorem setByte_act (d : Dev) (a : Nat) (b : Byte) : (d.setByte a b).act = d.act := by simp only [setByte]
@[simp] theorem setByte_act1 (d : Dev) (a : Nat) (b : Byte) : (d.setByte a b).act1 = d.act1 := by simp only [setByte]
@[simp] theorem setByte_act2 (d : Dev) (a : Nat) (b : Byte) : (d.setByte a b).act2 = d.act2 := by simp only [setByte]
@[simp] theorem setByte_latch (d : Dev) (a : Nat) (b : Byte) : (d.setByte a b).latch = d.latch := by simp only [setByte]
@[simp] theorem setByte_hbuf (d : Dev) (a : Nat) (b : Byte) : (d.setByte a b).hbuf = d.hbuf := by simp only [setByte]
@[simp] theorem setByte_host (d : Dev) (a : Nat) (b : Byte) : (d.setByte a b).host = d.host := by simp only [setByte]
@[simp] theorem setByte_hostBad (d : Dev) (a : Nat) (b : Byte) : (d.setByte a b).hostBad = d.hostBad := by simp only [setByte]
@[simp] theorem setByte_msix (d : Dev) (a : Nat) (b : Byte) : (d.setByte a b).msix = d.msix := by simp only [setByte]
@[simp] theorem setByte_resp (d : Dev) (a : Nat) (b : Byte) : (d.setByte a b).resp = d.resp := by simp only [setByte]
@[simp] theorem setByte_fresh (d : Dev) (a : Nat) (b : Byte) : (d.setByte a b).fresh = d.fresh := by simp only [setByte]
@[simp] theorem setByte_now (d : Dev) (a : Nat) (b : Byte) : (d.setByte a b).now = d.now := by simp only [setByte]
@[simp] theorem setByte_lnd (d : Dev) (a : Nat) (b : Byte) : (d.setByte a b).lnd = d.lnd := by simp only [setByte]
@[simp] theorem setByte_eng (d : Dev) (a : Nat) (b : Byte) : (d.setByte a b).eng = d.eng := by simp only [setByte]
@[simp] theorem setByte_ring (d : Dev) (a : Nat) (b : Byte) : (d.setByte a b).ring = d.ring := by simp only [setByte]
@[simp] theorem setByte_asnCopy (d : Dev) (a : Nat) (b : Byte) : (d.setByte a b).asnCopy = d.asnCopy := by simp only [setByte]
@[simp] theorem setByte_evc (d : Dev) (a : Nat) (b : Byte) : (d.setByte a b).evc = d.evc := by simp only [setByte]
@[simp] theorem setByte_porch (d : Dev) (a : Nat) (b : Byte) : (d.setByte a b).porch = d.porch := by simp only [setByte]
@[simp] theorem setByte_porchSeq (d : Dev) (a : Nat) (b : Byte) : (d.setByte a b).porchSeq = d.porchSeq := by simp only [setByte]
@[simp] theorem setByte_xlt (d : Dev) (a : Nat) (b : Byte) : (d.setByte a b).xlt = d.xlt := by simp only [setByte]
@[simp] theorem setByte_ecc (d : Dev) (a : Nat) (b : Byte) : (d.setByte a b).ecc = d.ecc := by simp only [setByte]
@[simp] theorem setByte_fab (d : Dev) (a : Nat) (b : Byte) : (d.setByte a b).fab = d.fab := by simp only [setByte]
@[simp] theorem setByte_tsk (d : Dev) (a : Nat) (b : Byte) : (d.setByte a b).tsk = d.tsk := by simp only [setByte]
@[simp] theorem setByte_hall (d : Dev) (a : Nat) (b : Byte) : (d.setByte a b).hall = d.hall := by simp only [setByte]
@[simp] theorem setByte_gang (d : Dev) (a : Nat) (b : Byte) : (d.setByte a b).gang = d.gang := by simp only [setByte]
@[simp] theorem setByte_tbs (d : Dev) (a : Nat) (b : Byte) : (d.setByte a b).tbs = d.tbs := by simp only [setByte]
@[simp] theorem setByte_mac (d : Dev) (a : Nat) (b : Byte) : (d.setByte a b).mac = d.mac := by simp only [setByte]
@[simp] theorem setByte_fe (d : Dev) (a : Nat) (b : Byte) : (d.setByte a b).fe = d.fe := by simp only [setByte]
@[simp] theorem setByte_lortis (d : Dev) (a : Nat) (b : Byte) : (d.setByte a b).lortis = d.lortis := by simp only [setByte]
@[simp] theorem setByte_sap (d : Dev) (a : Nat) (b : Byte) : (d.setByte a b).sap = d.sap := by simp only [setByte]
@[simp] theorem setByte_mix (d : Dev) (a : Nat) (b : Byte) : (d.setByte a b).mix = d.mix := by simp only [setByte]
@[simp] theorem setByte_och (d : Dev) (a : Nat) (b : Byte) : (d.setByte a b).och = d.och := by simp only [setByte]
@[simp] theorem setByte_dmc (d : Dev) (a : Nat) (b : Byte) : (d.setByte a b).dmc = d.dmc := by simp only [setByte]
@[simp] theorem setByte_pch (d : Dev) (a : Nat) (b : Byte) : (d.setByte a b).pch = d.pch := by simp only [setByte]
@[simp] theorem setByte_clk (d : Dev) (a : Nat) (b : Byte) : (d.setByte a b).clk = d.clk := by simp only [setByte]

/-! ### setEng -/

@[simp] theorem setEng_regs (d : Dev) (k : Nat) (e : Eng) : (d.setEng k e).regs = d.regs := by simp only [setEng]
@[simp] theorem setEng_act (d : Dev) (k : Nat) (e : Eng) : (d.setEng k e).act = d.act := by simp only [setEng]
@[simp] theorem setEng_act1 (d : Dev) (k : Nat) (e : Eng) : (d.setEng k e).act1 = d.act1 := by simp only [setEng]
@[simp] theorem setEng_act2 (d : Dev) (k : Nat) (e : Eng) : (d.setEng k e).act2 = d.act2 := by simp only [setEng]
@[simp] theorem setEng_latch (d : Dev) (k : Nat) (e : Eng) : (d.setEng k e).latch = d.latch := by simp only [setEng]
@[simp] theorem setEng_hbuf (d : Dev) (k : Nat) (e : Eng) : (d.setEng k e).hbuf = d.hbuf := by simp only [setEng]
@[simp] theorem setEng_mem (d : Dev) (k : Nat) (e : Eng) : (d.setEng k e).mem = d.mem := by simp only [setEng]
@[simp] theorem setEng_host (d : Dev) (k : Nat) (e : Eng) : (d.setEng k e).host = d.host := by simp only [setEng]
@[simp] theorem setEng_hostBad (d : Dev) (k : Nat) (e : Eng) : (d.setEng k e).hostBad = d.hostBad := by simp only [setEng]
@[simp] theorem setEng_msix (d : Dev) (k : Nat) (e : Eng) : (d.setEng k e).msix = d.msix := by simp only [setEng]
@[simp] theorem setEng_resp (d : Dev) (k : Nat) (e : Eng) : (d.setEng k e).resp = d.resp := by simp only [setEng]
@[simp] theorem setEng_fresh (d : Dev) (k : Nat) (e : Eng) : (d.setEng k e).fresh = d.fresh := by simp only [setEng]
@[simp] theorem setEng_now (d : Dev) (k : Nat) (e : Eng) : (d.setEng k e).now = d.now := by simp only [setEng]
@[simp] theorem setEng_lnd (d : Dev) (k : Nat) (e : Eng) : (d.setEng k e).lnd = d.lnd := by simp only [setEng]
@[simp] theorem setEng_ring (d : Dev) (k : Nat) (e : Eng) : (d.setEng k e).ring = d.ring := by simp only [setEng]
@[simp] theorem setEng_asnCopy (d : Dev) (k : Nat) (e : Eng) : (d.setEng k e).asnCopy = d.asnCopy := by simp only [setEng]
@[simp] theorem setEng_evc (d : Dev) (k : Nat) (e : Eng) : (d.setEng k e).evc = d.evc := by simp only [setEng]
@[simp] theorem setEng_porch (d : Dev) (k : Nat) (e : Eng) : (d.setEng k e).porch = d.porch := by simp only [setEng]
@[simp] theorem setEng_porchSeq (d : Dev) (k : Nat) (e : Eng) : (d.setEng k e).porchSeq = d.porchSeq := by simp only [setEng]
@[simp] theorem setEng_xlt (d : Dev) (k : Nat) (e : Eng) : (d.setEng k e).xlt = d.xlt := by simp only [setEng]
@[simp] theorem setEng_ecc (d : Dev) (k : Nat) (e : Eng) : (d.setEng k e).ecc = d.ecc := by simp only [setEng]
@[simp] theorem setEng_fab (d : Dev) (k : Nat) (e : Eng) : (d.setEng k e).fab = d.fab := by simp only [setEng]
@[simp] theorem setEng_tsk (d : Dev) (k : Nat) (e : Eng) : (d.setEng k e).tsk = d.tsk := by simp only [setEng]
@[simp] theorem setEng_hall (d : Dev) (k : Nat) (e : Eng) : (d.setEng k e).hall = d.hall := by simp only [setEng]
@[simp] theorem setEng_gang (d : Dev) (k : Nat) (e : Eng) : (d.setEng k e).gang = d.gang := by simp only [setEng]
@[simp] theorem setEng_tbs (d : Dev) (k : Nat) (e : Eng) : (d.setEng k e).tbs = d.tbs := by simp only [setEng]
@[simp] theorem setEng_mac (d : Dev) (k : Nat) (e : Eng) : (d.setEng k e).mac = d.mac := by simp only [setEng]
@[simp] theorem setEng_fe (d : Dev) (k : Nat) (e : Eng) : (d.setEng k e).fe = d.fe := by simp only [setEng]
@[simp] theorem setEng_lortis (d : Dev) (k : Nat) (e : Eng) : (d.setEng k e).lortis = d.lortis := by simp only [setEng]
@[simp] theorem setEng_sap (d : Dev) (k : Nat) (e : Eng) : (d.setEng k e).sap = d.sap := by simp only [setEng]
@[simp] theorem setEng_mix (d : Dev) (k : Nat) (e : Eng) : (d.setEng k e).mix = d.mix := by simp only [setEng]
@[simp] theorem setEng_och (d : Dev) (k : Nat) (e : Eng) : (d.setEng k e).och = d.och := by simp only [setEng]
@[simp] theorem setEng_dmc (d : Dev) (k : Nat) (e : Eng) : (d.setEng k e).dmc = d.dmc := by simp only [setEng]
@[simp] theorem setEng_pch (d : Dev) (k : Nat) (e : Eng) : (d.setEng k e).pch = d.pch := by simp only [setEng]
@[simp] theorem setEng_clk (d : Dev) (k : Nat) (e : Eng) : (d.setEng k e).clk = d.clk := by simp only [setEng]

/-! ### setCtx -/

@[simp] theorem setCtx_regs (d : Dev) (k c : Nat) (x : Ctx) : (d.setCtx k c x).regs = d.regs := by simp only [setCtx, setEng]
@[simp] theorem setCtx_act (d : Dev) (k c : Nat) (x : Ctx) : (d.setCtx k c x).act = d.act := by simp only [setCtx, setEng]
@[simp] theorem setCtx_act1 (d : Dev) (k c : Nat) (x : Ctx) : (d.setCtx k c x).act1 = d.act1 := by simp only [setCtx, setEng]
@[simp] theorem setCtx_act2 (d : Dev) (k c : Nat) (x : Ctx) : (d.setCtx k c x).act2 = d.act2 := by simp only [setCtx, setEng]
@[simp] theorem setCtx_latch (d : Dev) (k c : Nat) (x : Ctx) : (d.setCtx k c x).latch = d.latch := by simp only [setCtx, setEng]
@[simp] theorem setCtx_hbuf (d : Dev) (k c : Nat) (x : Ctx) : (d.setCtx k c x).hbuf = d.hbuf := by simp only [setCtx, setEng]
@[simp] theorem setCtx_mem (d : Dev) (k c : Nat) (x : Ctx) : (d.setCtx k c x).mem = d.mem := by simp only [setCtx, setEng]
@[simp] theorem setCtx_host (d : Dev) (k c : Nat) (x : Ctx) : (d.setCtx k c x).host = d.host := by simp only [setCtx, setEng]
@[simp] theorem setCtx_hostBad (d : Dev) (k c : Nat) (x : Ctx) : (d.setCtx k c x).hostBad = d.hostBad := by simp only [setCtx, setEng]
@[simp] theorem setCtx_msix (d : Dev) (k c : Nat) (x : Ctx) : (d.setCtx k c x).msix = d.msix := by simp only [setCtx, setEng]
@[simp] theorem setCtx_resp (d : Dev) (k c : Nat) (x : Ctx) : (d.setCtx k c x).resp = d.resp := by simp only [setCtx, setEng]
@[simp] theorem setCtx_fresh (d : Dev) (k c : Nat) (x : Ctx) : (d.setCtx k c x).fresh = d.fresh := by simp only [setCtx, setEng]
@[simp] theorem setCtx_now (d : Dev) (k c : Nat) (x : Ctx) : (d.setCtx k c x).now = d.now := by simp only [setCtx, setEng]
@[simp] theorem setCtx_lnd (d : Dev) (k c : Nat) (x : Ctx) : (d.setCtx k c x).lnd = d.lnd := by simp only [setCtx, setEng]
@[simp] theorem setCtx_ring (d : Dev) (k c : Nat) (x : Ctx) : (d.setCtx k c x).ring = d.ring := by simp only [setCtx, setEng]
@[simp] theorem setCtx_asnCopy (d : Dev) (k c : Nat) (x : Ctx) : (d.setCtx k c x).asnCopy = d.asnCopy := by simp only [setCtx, setEng]
@[simp] theorem setCtx_evc (d : Dev) (k c : Nat) (x : Ctx) : (d.setCtx k c x).evc = d.evc := by simp only [setCtx, setEng]
@[simp] theorem setCtx_porch (d : Dev) (k c : Nat) (x : Ctx) : (d.setCtx k c x).porch = d.porch := by simp only [setCtx, setEng]
@[simp] theorem setCtx_porchSeq (d : Dev) (k c : Nat) (x : Ctx) : (d.setCtx k c x).porchSeq = d.porchSeq := by simp only [setCtx, setEng]
@[simp] theorem setCtx_xlt (d : Dev) (k c : Nat) (x : Ctx) : (d.setCtx k c x).xlt = d.xlt := by simp only [setCtx, setEng]
@[simp] theorem setCtx_ecc (d : Dev) (k c : Nat) (x : Ctx) : (d.setCtx k c x).ecc = d.ecc := by simp only [setCtx, setEng]
@[simp] theorem setCtx_fab (d : Dev) (k c : Nat) (x : Ctx) : (d.setCtx k c x).fab = d.fab := by simp only [setCtx, setEng]
@[simp] theorem setCtx_tsk (d : Dev) (k c : Nat) (x : Ctx) : (d.setCtx k c x).tsk = d.tsk := by simp only [setCtx, setEng]
@[simp] theorem setCtx_hall (d : Dev) (k c : Nat) (x : Ctx) : (d.setCtx k c x).hall = d.hall := by simp only [setCtx, setEng]
@[simp] theorem setCtx_gang (d : Dev) (k c : Nat) (x : Ctx) : (d.setCtx k c x).gang = d.gang := by simp only [setCtx, setEng]
@[simp] theorem setCtx_tbs (d : Dev) (k c : Nat) (x : Ctx) : (d.setCtx k c x).tbs = d.tbs := by simp only [setCtx, setEng]
@[simp] theorem setCtx_mac (d : Dev) (k c : Nat) (x : Ctx) : (d.setCtx k c x).mac = d.mac := by simp only [setCtx, setEng]
@[simp] theorem setCtx_fe (d : Dev) (k c : Nat) (x : Ctx) : (d.setCtx k c x).fe = d.fe := by simp only [setCtx, setEng]
@[simp] theorem setCtx_lortis (d : Dev) (k c : Nat) (x : Ctx) : (d.setCtx k c x).lortis = d.lortis := by simp only [setCtx, setEng]
@[simp] theorem setCtx_sap (d : Dev) (k c : Nat) (x : Ctx) : (d.setCtx k c x).sap = d.sap := by simp only [setCtx, setEng]
@[simp] theorem setCtx_mix (d : Dev) (k c : Nat) (x : Ctx) : (d.setCtx k c x).mix = d.mix := by simp only [setCtx, setEng]
@[simp] theorem setCtx_och (d : Dev) (k c : Nat) (x : Ctx) : (d.setCtx k c x).och = d.och := by simp only [setCtx, setEng]
@[simp] theorem setCtx_dmc (d : Dev) (k c : Nat) (x : Ctx) : (d.setCtx k c x).dmc = d.dmc := by simp only [setCtx, setEng]
@[simp] theorem setCtx_pch (d : Dev) (k c : Nat) (x : Ctx) : (d.setCtx k c x).pch = d.pch := by simp only [setCtx, setEng]
@[simp] theorem setCtx_clk (d : Dev) (k c : Nat) (x : Ctx) : (d.setCtx k c x).clk = d.clk := by simp only [setCtx, setEng]

/-! ### setRing -/

@[simp] theorem setRing_regs (d : Dev) (r : Nat) (x : Ring) : (d.setRing r x).regs = d.regs := by simp only [setRing]
@[simp] theorem setRing_act (d : Dev) (r : Nat) (x : Ring) : (d.setRing r x).act = d.act := by simp only [setRing]
@[simp] theorem setRing_act1 (d : Dev) (r : Nat) (x : Ring) : (d.setRing r x).act1 = d.act1 := by simp only [setRing]
@[simp] theorem setRing_act2 (d : Dev) (r : Nat) (x : Ring) : (d.setRing r x).act2 = d.act2 := by simp only [setRing]
@[simp] theorem setRing_latch (d : Dev) (r : Nat) (x : Ring) : (d.setRing r x).latch = d.latch := by simp only [setRing]
@[simp] theorem setRing_hbuf (d : Dev) (r : Nat) (x : Ring) : (d.setRing r x).hbuf = d.hbuf := by simp only [setRing]
@[simp] theorem setRing_mem (d : Dev) (r : Nat) (x : Ring) : (d.setRing r x).mem = d.mem := by simp only [setRing]
@[simp] theorem setRing_host (d : Dev) (r : Nat) (x : Ring) : (d.setRing r x).host = d.host := by simp only [setRing]
@[simp] theorem setRing_hostBad (d : Dev) (r : Nat) (x : Ring) : (d.setRing r x).hostBad = d.hostBad := by simp only [setRing]
@[simp] theorem setRing_msix (d : Dev) (r : Nat) (x : Ring) : (d.setRing r x).msix = d.msix := by simp only [setRing]
@[simp] theorem setRing_resp (d : Dev) (r : Nat) (x : Ring) : (d.setRing r x).resp = d.resp := by simp only [setRing]
@[simp] theorem setRing_fresh (d : Dev) (r : Nat) (x : Ring) : (d.setRing r x).fresh = d.fresh := by simp only [setRing]
@[simp] theorem setRing_now (d : Dev) (r : Nat) (x : Ring) : (d.setRing r x).now = d.now := by simp only [setRing]
@[simp] theorem setRing_lnd (d : Dev) (r : Nat) (x : Ring) : (d.setRing r x).lnd = d.lnd := by simp only [setRing]
@[simp] theorem setRing_eng (d : Dev) (r : Nat) (x : Ring) : (d.setRing r x).eng = d.eng := by simp only [setRing]
@[simp] theorem setRing_asnCopy (d : Dev) (r : Nat) (x : Ring) : (d.setRing r x).asnCopy = d.asnCopy := by simp only [setRing]
@[simp] theorem setRing_evc (d : Dev) (r : Nat) (x : Ring) : (d.setRing r x).evc = d.evc := by simp only [setRing]
@[simp] theorem setRing_porch (d : Dev) (r : Nat) (x : Ring) : (d.setRing r x).porch = d.porch := by simp only [setRing]
@[simp] theorem setRing_porchSeq (d : Dev) (r : Nat) (x : Ring) : (d.setRing r x).porchSeq = d.porchSeq := by simp only [setRing]
@[simp] theorem setRing_xlt (d : Dev) (r : Nat) (x : Ring) : (d.setRing r x).xlt = d.xlt := by simp only [setRing]
@[simp] theorem setRing_ecc (d : Dev) (r : Nat) (x : Ring) : (d.setRing r x).ecc = d.ecc := by simp only [setRing]
@[simp] theorem setRing_fab (d : Dev) (r : Nat) (x : Ring) : (d.setRing r x).fab = d.fab := by simp only [setRing]
@[simp] theorem setRing_tsk (d : Dev) (r : Nat) (x : Ring) : (d.setRing r x).tsk = d.tsk := by simp only [setRing]
@[simp] theorem setRing_hall (d : Dev) (r : Nat) (x : Ring) : (d.setRing r x).hall = d.hall := by simp only [setRing]
@[simp] theorem setRing_gang (d : Dev) (r : Nat) (x : Ring) : (d.setRing r x).gang = d.gang := by simp only [setRing]
@[simp] theorem setRing_tbs (d : Dev) (r : Nat) (x : Ring) : (d.setRing r x).tbs = d.tbs := by simp only [setRing]
@[simp] theorem setRing_mac (d : Dev) (r : Nat) (x : Ring) : (d.setRing r x).mac = d.mac := by simp only [setRing]
@[simp] theorem setRing_fe (d : Dev) (r : Nat) (x : Ring) : (d.setRing r x).fe = d.fe := by simp only [setRing]
@[simp] theorem setRing_lortis (d : Dev) (r : Nat) (x : Ring) : (d.setRing r x).lortis = d.lortis := by simp only [setRing]
@[simp] theorem setRing_sap (d : Dev) (r : Nat) (x : Ring) : (d.setRing r x).sap = d.sap := by simp only [setRing]
@[simp] theorem setRing_mix (d : Dev) (r : Nat) (x : Ring) : (d.setRing r x).mix = d.mix := by simp only [setRing]
@[simp] theorem setRing_och (d : Dev) (r : Nat) (x : Ring) : (d.setRing r x).och = d.och := by simp only [setRing]
@[simp] theorem setRing_dmc (d : Dev) (r : Nat) (x : Ring) : (d.setRing r x).dmc = d.dmc := by simp only [setRing]
@[simp] theorem setRing_pch (d : Dev) (r : Nat) (x : Ring) : (d.setRing r x).pch = d.pch := by simp only [setRing]
@[simp] theorem setRing_clk (d : Dev) (r : Nat) (x : Ring) : (d.setRing r x).clk = d.clk := by simp only [setRing]

/-! ### setMac -/

@[simp] theorem setMac_regs (d : Dev) (p : Nat) (x : MacState) : (d.setMac p x).regs = d.regs := by simp only [setMac]
@[simp] theorem setMac_act (d : Dev) (p : Nat) (x : MacState) : (d.setMac p x).act = d.act := by simp only [setMac]
@[simp] theorem setMac_act1 (d : Dev) (p : Nat) (x : MacState) : (d.setMac p x).act1 = d.act1 := by simp only [setMac]
@[simp] theorem setMac_act2 (d : Dev) (p : Nat) (x : MacState) : (d.setMac p x).act2 = d.act2 := by simp only [setMac]
@[simp] theorem setMac_latch (d : Dev) (p : Nat) (x : MacState) : (d.setMac p x).latch = d.latch := by simp only [setMac]
@[simp] theorem setMac_hbuf (d : Dev) (p : Nat) (x : MacState) : (d.setMac p x).hbuf = d.hbuf := by simp only [setMac]
@[simp] theorem setMac_mem (d : Dev) (p : Nat) (x : MacState) : (d.setMac p x).mem = d.mem := by simp only [setMac]
@[simp] theorem setMac_host (d : Dev) (p : Nat) (x : MacState) : (d.setMac p x).host = d.host := by simp only [setMac]
@[simp] theorem setMac_hostBad (d : Dev) (p : Nat) (x : MacState) : (d.setMac p x).hostBad = d.hostBad := by simp only [setMac]
@[simp] theorem setMac_msix (d : Dev) (p : Nat) (x : MacState) : (d.setMac p x).msix = d.msix := by simp only [setMac]
@[simp] theorem setMac_resp (d : Dev) (p : Nat) (x : MacState) : (d.setMac p x).resp = d.resp := by simp only [setMac]
@[simp] theorem setMac_fresh (d : Dev) (p : Nat) (x : MacState) : (d.setMac p x).fresh = d.fresh := by simp only [setMac]
@[simp] theorem setMac_now (d : Dev) (p : Nat) (x : MacState) : (d.setMac p x).now = d.now := by simp only [setMac]
@[simp] theorem setMac_lnd (d : Dev) (p : Nat) (x : MacState) : (d.setMac p x).lnd = d.lnd := by simp only [setMac]
@[simp] theorem setMac_eng (d : Dev) (p : Nat) (x : MacState) : (d.setMac p x).eng = d.eng := by simp only [setMac]
@[simp] theorem setMac_ring (d : Dev) (p : Nat) (x : MacState) : (d.setMac p x).ring = d.ring := by simp only [setMac]
@[simp] theorem setMac_asnCopy (d : Dev) (p : Nat) (x : MacState) : (d.setMac p x).asnCopy = d.asnCopy := by simp only [setMac]
@[simp] theorem setMac_evc (d : Dev) (p : Nat) (x : MacState) : (d.setMac p x).evc = d.evc := by simp only [setMac]
@[simp] theorem setMac_porch (d : Dev) (p : Nat) (x : MacState) : (d.setMac p x).porch = d.porch := by simp only [setMac]
@[simp] theorem setMac_porchSeq (d : Dev) (p : Nat) (x : MacState) : (d.setMac p x).porchSeq = d.porchSeq := by simp only [setMac]
@[simp] theorem setMac_xlt (d : Dev) (p : Nat) (x : MacState) : (d.setMac p x).xlt = d.xlt := by simp only [setMac]
@[simp] theorem setMac_ecc (d : Dev) (p : Nat) (x : MacState) : (d.setMac p x).ecc = d.ecc := by simp only [setMac]
@[simp] theorem setMac_fab (d : Dev) (p : Nat) (x : MacState) : (d.setMac p x).fab = d.fab := by simp only [setMac]
@[simp] theorem setMac_tsk (d : Dev) (p : Nat) (x : MacState) : (d.setMac p x).tsk = d.tsk := by simp only [setMac]
@[simp] theorem setMac_hall (d : Dev) (p : Nat) (x : MacState) : (d.setMac p x).hall = d.hall := by simp only [setMac]
@[simp] theorem setMac_gang (d : Dev) (p : Nat) (x : MacState) : (d.setMac p x).gang = d.gang := by simp only [setMac]
@[simp] theorem setMac_tbs (d : Dev) (p : Nat) (x : MacState) : (d.setMac p x).tbs = d.tbs := by simp only [setMac]
@[simp] theorem setMac_fe (d : Dev) (p : Nat) (x : MacState) : (d.setMac p x).fe = d.fe := by simp only [setMac]
@[simp] theorem setMac_lortis (d : Dev) (p : Nat) (x : MacState) : (d.setMac p x).lortis = d.lortis := by simp only [setMac]
@[simp] theorem setMac_sap (d : Dev) (p : Nat) (x : MacState) : (d.setMac p x).sap = d.sap := by simp only [setMac]
@[simp] theorem setMac_mix (d : Dev) (p : Nat) (x : MacState) : (d.setMac p x).mix = d.mix := by simp only [setMac]
@[simp] theorem setMac_och (d : Dev) (p : Nat) (x : MacState) : (d.setMac p x).och = d.och := by simp only [setMac]
@[simp] theorem setMac_dmc (d : Dev) (p : Nat) (x : MacState) : (d.setMac p x).dmc = d.dmc := by simp only [setMac]
@[simp] theorem setMac_pch (d : Dev) (p : Nat) (x : MacState) : (d.setMac p x).pch = d.pch := by simp only [setMac]
@[simp] theorem setMac_clk (d : Dev) (p : Nat) (x : MacState) : (d.setMac p x).clk = d.clk := by simp only [setMac]

/-! ### setSap -/

@[simp] theorem setSap_regs (d : Dev) (p : Nat) (x : SapState) : (d.setSap p x).regs = d.regs := by simp only [setSap]
@[simp] theorem setSap_act (d : Dev) (p : Nat) (x : SapState) : (d.setSap p x).act = d.act := by simp only [setSap]
@[simp] theorem setSap_act1 (d : Dev) (p : Nat) (x : SapState) : (d.setSap p x).act1 = d.act1 := by simp only [setSap]
@[simp] theorem setSap_act2 (d : Dev) (p : Nat) (x : SapState) : (d.setSap p x).act2 = d.act2 := by simp only [setSap]
@[simp] theorem setSap_latch (d : Dev) (p : Nat) (x : SapState) : (d.setSap p x).latch = d.latch := by simp only [setSap]
@[simp] theorem setSap_hbuf (d : Dev) (p : Nat) (x : SapState) : (d.setSap p x).hbuf = d.hbuf := by simp only [setSap]
@[simp] theorem setSap_mem (d : Dev) (p : Nat) (x : SapState) : (d.setSap p x).mem = d.mem := by simp only [setSap]
@[simp] theorem setSap_host (d : Dev) (p : Nat) (x : SapState) : (d.setSap p x).host = d.host := by simp only [setSap]
@[simp] theorem setSap_hostBad (d : Dev) (p : Nat) (x : SapState) : (d.setSap p x).hostBad = d.hostBad := by simp only [setSap]
@[simp] theorem setSap_msix (d : Dev) (p : Nat) (x : SapState) : (d.setSap p x).msix = d.msix := by simp only [setSap]
@[simp] theorem setSap_resp (d : Dev) (p : Nat) (x : SapState) : (d.setSap p x).resp = d.resp := by simp only [setSap]
@[simp] theorem setSap_fresh (d : Dev) (p : Nat) (x : SapState) : (d.setSap p x).fresh = d.fresh := by simp only [setSap]
@[simp] theorem setSap_now (d : Dev) (p : Nat) (x : SapState) : (d.setSap p x).now = d.now := by simp only [setSap]
@[simp] theorem setSap_lnd (d : Dev) (p : Nat) (x : SapState) : (d.setSap p x).lnd = d.lnd := by simp only [setSap]
@[simp] theorem setSap_eng (d : Dev) (p : Nat) (x : SapState) : (d.setSap p x).eng = d.eng := by simp only [setSap]
@[simp] theorem setSap_ring (d : Dev) (p : Nat) (x : SapState) : (d.setSap p x).ring = d.ring := by simp only [setSap]
@[simp] theorem setSap_asnCopy (d : Dev) (p : Nat) (x : SapState) : (d.setSap p x).asnCopy = d.asnCopy := by simp only [setSap]
@[simp] theorem setSap_evc (d : Dev) (p : Nat) (x : SapState) : (d.setSap p x).evc = d.evc := by simp only [setSap]
@[simp] theorem setSap_porch (d : Dev) (p : Nat) (x : SapState) : (d.setSap p x).porch = d.porch := by simp only [setSap]
@[simp] theorem setSap_porchSeq (d : Dev) (p : Nat) (x : SapState) : (d.setSap p x).porchSeq = d.porchSeq := by simp only [setSap]
@[simp] theorem setSap_xlt (d : Dev) (p : Nat) (x : SapState) : (d.setSap p x).xlt = d.xlt := by simp only [setSap]
@[simp] theorem setSap_ecc (d : Dev) (p : Nat) (x : SapState) : (d.setSap p x).ecc = d.ecc := by simp only [setSap]
@[simp] theorem setSap_fab (d : Dev) (p : Nat) (x : SapState) : (d.setSap p x).fab = d.fab := by simp only [setSap]
@[simp] theorem setSap_tsk (d : Dev) (p : Nat) (x : SapState) : (d.setSap p x).tsk = d.tsk := by simp only [setSap]
@[simp] theorem setSap_hall (d : Dev) (p : Nat) (x : SapState) : (d.setSap p x).hall = d.hall := by simp only [setSap]
@[simp] theorem setSap_gang (d : Dev) (p : Nat) (x : SapState) : (d.setSap p x).gang = d.gang := by simp only [setSap]
@[simp] theorem setSap_tbs (d : Dev) (p : Nat) (x : SapState) : (d.setSap p x).tbs = d.tbs := by simp only [setSap]
@[simp] theorem setSap_mac (d : Dev) (p : Nat) (x : SapState) : (d.setSap p x).mac = d.mac := by simp only [setSap]
@[simp] theorem setSap_fe (d : Dev) (p : Nat) (x : SapState) : (d.setSap p x).fe = d.fe := by simp only [setSap]
@[simp] theorem setSap_lortis (d : Dev) (p : Nat) (x : SapState) : (d.setSap p x).lortis = d.lortis := by simp only [setSap]
@[simp] theorem setSap_mix (d : Dev) (p : Nat) (x : SapState) : (d.setSap p x).mix = d.mix := by simp only [setSap]
@[simp] theorem setSap_och (d : Dev) (p : Nat) (x : SapState) : (d.setSap p x).och = d.och := by simp only [setSap]
@[simp] theorem setSap_dmc (d : Dev) (p : Nat) (x : SapState) : (d.setSap p x).dmc = d.dmc := by simp only [setSap]
@[simp] theorem setSap_pch (d : Dev) (p : Nat) (x : SapState) : (d.setSap p x).pch = d.pch := by simp only [setSap]
@[simp] theorem setSap_clk (d : Dev) (p : Nat) (x : SapState) : (d.setSap p x).clk = d.clk := by simp only [setSap]

/-! ### setTb -/

@[simp] theorem setTb_regs (d : Dev) (i : Nat) (x : TimeBase) : (d.setTb i x).regs = d.regs := by simp only [setTb]
@[simp] theorem setTb_act (d : Dev) (i : Nat) (x : TimeBase) : (d.setTb i x).act = d.act := by simp only [setTb]
@[simp] theorem setTb_act1 (d : Dev) (i : Nat) (x : TimeBase) : (d.setTb i x).act1 = d.act1 := by simp only [setTb]
@[simp] theorem setTb_act2 (d : Dev) (i : Nat) (x : TimeBase) : (d.setTb i x).act2 = d.act2 := by simp only [setTb]
@[simp] theorem setTb_latch (d : Dev) (i : Nat) (x : TimeBase) : (d.setTb i x).latch = d.latch := by simp only [setTb]
@[simp] theorem setTb_hbuf (d : Dev) (i : Nat) (x : TimeBase) : (d.setTb i x).hbuf = d.hbuf := by simp only [setTb]
@[simp] theorem setTb_mem (d : Dev) (i : Nat) (x : TimeBase) : (d.setTb i x).mem = d.mem := by simp only [setTb]
@[simp] theorem setTb_host (d : Dev) (i : Nat) (x : TimeBase) : (d.setTb i x).host = d.host := by simp only [setTb]
@[simp] theorem setTb_hostBad (d : Dev) (i : Nat) (x : TimeBase) : (d.setTb i x).hostBad = d.hostBad := by simp only [setTb]
@[simp] theorem setTb_msix (d : Dev) (i : Nat) (x : TimeBase) : (d.setTb i x).msix = d.msix := by simp only [setTb]
@[simp] theorem setTb_resp (d : Dev) (i : Nat) (x : TimeBase) : (d.setTb i x).resp = d.resp := by simp only [setTb]
@[simp] theorem setTb_fresh (d : Dev) (i : Nat) (x : TimeBase) : (d.setTb i x).fresh = d.fresh := by simp only [setTb]
@[simp] theorem setTb_now (d : Dev) (i : Nat) (x : TimeBase) : (d.setTb i x).now = d.now := by simp only [setTb]
@[simp] theorem setTb_lnd (d : Dev) (i : Nat) (x : TimeBase) : (d.setTb i x).lnd = d.lnd := by simp only [setTb]
@[simp] theorem setTb_eng (d : Dev) (i : Nat) (x : TimeBase) : (d.setTb i x).eng = d.eng := by simp only [setTb]
@[simp] theorem setTb_ring (d : Dev) (i : Nat) (x : TimeBase) : (d.setTb i x).ring = d.ring := by simp only [setTb]
@[simp] theorem setTb_asnCopy (d : Dev) (i : Nat) (x : TimeBase) : (d.setTb i x).asnCopy = d.asnCopy := by simp only [setTb]
@[simp] theorem setTb_evc (d : Dev) (i : Nat) (x : TimeBase) : (d.setTb i x).evc = d.evc := by simp only [setTb]
@[simp] theorem setTb_porch (d : Dev) (i : Nat) (x : TimeBase) : (d.setTb i x).porch = d.porch := by simp only [setTb]
@[simp] theorem setTb_porchSeq (d : Dev) (i : Nat) (x : TimeBase) : (d.setTb i x).porchSeq = d.porchSeq := by simp only [setTb]
@[simp] theorem setTb_xlt (d : Dev) (i : Nat) (x : TimeBase) : (d.setTb i x).xlt = d.xlt := by simp only [setTb]
@[simp] theorem setTb_ecc (d : Dev) (i : Nat) (x : TimeBase) : (d.setTb i x).ecc = d.ecc := by simp only [setTb]
@[simp] theorem setTb_fab (d : Dev) (i : Nat) (x : TimeBase) : (d.setTb i x).fab = d.fab := by simp only [setTb]
@[simp] theorem setTb_tsk (d : Dev) (i : Nat) (x : TimeBase) : (d.setTb i x).tsk = d.tsk := by simp only [setTb]
@[simp] theorem setTb_hall (d : Dev) (i : Nat) (x : TimeBase) : (d.setTb i x).hall = d.hall := by simp only [setTb]
@[simp] theorem setTb_gang (d : Dev) (i : Nat) (x : TimeBase) : (d.setTb i x).gang = d.gang := by simp only [setTb]
@[simp] theorem setTb_mac (d : Dev) (i : Nat) (x : TimeBase) : (d.setTb i x).mac = d.mac := by simp only [setTb]
@[simp] theorem setTb_fe (d : Dev) (i : Nat) (x : TimeBase) : (d.setTb i x).fe = d.fe := by simp only [setTb]
@[simp] theorem setTb_lortis (d : Dev) (i : Nat) (x : TimeBase) : (d.setTb i x).lortis = d.lortis := by simp only [setTb]
@[simp] theorem setTb_sap (d : Dev) (i : Nat) (x : TimeBase) : (d.setTb i x).sap = d.sap := by simp only [setTb]
@[simp] theorem setTb_mix (d : Dev) (i : Nat) (x : TimeBase) : (d.setTb i x).mix = d.mix := by simp only [setTb]
@[simp] theorem setTb_och (d : Dev) (i : Nat) (x : TimeBase) : (d.setTb i x).och = d.och := by simp only [setTb]
@[simp] theorem setTb_dmc (d : Dev) (i : Nat) (x : TimeBase) : (d.setTb i x).dmc = d.dmc := by simp only [setTb]
@[simp] theorem setTb_pch (d : Dev) (i : Nat) (x : TimeBase) : (d.setTb i x).pch = d.pch := by simp only [setTb]
@[simp] theorem setTb_clk (d : Dev) (i : Nat) (x : TimeBase) : (d.setTb i x).clk = d.clk := by simp only [setTb]

/-! ### setTsk -/

@[simp] theorem setTsk_regs (d : Dev) (x : TskState) : (d.setTsk x).regs = d.regs := by simp only [setTsk]
@[simp] theorem setTsk_act (d : Dev) (x : TskState) : (d.setTsk x).act = d.act := by simp only [setTsk]
@[simp] theorem setTsk_act1 (d : Dev) (x : TskState) : (d.setTsk x).act1 = d.act1 := by simp only [setTsk]
@[simp] theorem setTsk_act2 (d : Dev) (x : TskState) : (d.setTsk x).act2 = d.act2 := by simp only [setTsk]
@[simp] theorem setTsk_latch (d : Dev) (x : TskState) : (d.setTsk x).latch = d.latch := by simp only [setTsk]
@[simp] theorem setTsk_hbuf (d : Dev) (x : TskState) : (d.setTsk x).hbuf = d.hbuf := by simp only [setTsk]
@[simp] theorem setTsk_mem (d : Dev) (x : TskState) : (d.setTsk x).mem = d.mem := by simp only [setTsk]
@[simp] theorem setTsk_host (d : Dev) (x : TskState) : (d.setTsk x).host = d.host := by simp only [setTsk]
@[simp] theorem setTsk_hostBad (d : Dev) (x : TskState) : (d.setTsk x).hostBad = d.hostBad := by simp only [setTsk]
@[simp] theorem setTsk_msix (d : Dev) (x : TskState) : (d.setTsk x).msix = d.msix := by simp only [setTsk]
@[simp] theorem setTsk_resp (d : Dev) (x : TskState) : (d.setTsk x).resp = d.resp := by simp only [setTsk]
@[simp] theorem setTsk_fresh (d : Dev) (x : TskState) : (d.setTsk x).fresh = d.fresh := by simp only [setTsk]
@[simp] theorem setTsk_now (d : Dev) (x : TskState) : (d.setTsk x).now = d.now := by simp only [setTsk]
@[simp] theorem setTsk_lnd (d : Dev) (x : TskState) : (d.setTsk x).lnd = d.lnd := by simp only [setTsk]
@[simp] theorem setTsk_eng (d : Dev) (x : TskState) : (d.setTsk x).eng = d.eng := by simp only [setTsk]
@[simp] theorem setTsk_ring (d : Dev) (x : TskState) : (d.setTsk x).ring = d.ring := by simp only [setTsk]
@[simp] theorem setTsk_asnCopy (d : Dev) (x : TskState) : (d.setTsk x).asnCopy = d.asnCopy := by simp only [setTsk]
@[simp] theorem setTsk_evc (d : Dev) (x : TskState) : (d.setTsk x).evc = d.evc := by simp only [setTsk]
@[simp] theorem setTsk_porch (d : Dev) (x : TskState) : (d.setTsk x).porch = d.porch := by simp only [setTsk]
@[simp] theorem setTsk_porchSeq (d : Dev) (x : TskState) : (d.setTsk x).porchSeq = d.porchSeq := by simp only [setTsk]
@[simp] theorem setTsk_xlt (d : Dev) (x : TskState) : (d.setTsk x).xlt = d.xlt := by simp only [setTsk]
@[simp] theorem setTsk_ecc (d : Dev) (x : TskState) : (d.setTsk x).ecc = d.ecc := by simp only [setTsk]
@[simp] theorem setTsk_fab (d : Dev) (x : TskState) : (d.setTsk x).fab = d.fab := by simp only [setTsk]
@[simp] theorem setTsk_hall (d : Dev) (x : TskState) : (d.setTsk x).hall = d.hall := by simp only [setTsk]
@[simp] theorem setTsk_gang (d : Dev) (x : TskState) : (d.setTsk x).gang = d.gang := by simp only [setTsk]
@[simp] theorem setTsk_tbs (d : Dev) (x : TskState) : (d.setTsk x).tbs = d.tbs := by simp only [setTsk]
@[simp] theorem setTsk_mac (d : Dev) (x : TskState) : (d.setTsk x).mac = d.mac := by simp only [setTsk]
@[simp] theorem setTsk_fe (d : Dev) (x : TskState) : (d.setTsk x).fe = d.fe := by simp only [setTsk]
@[simp] theorem setTsk_lortis (d : Dev) (x : TskState) : (d.setTsk x).lortis = d.lortis := by simp only [setTsk]
@[simp] theorem setTsk_sap (d : Dev) (x : TskState) : (d.setTsk x).sap = d.sap := by simp only [setTsk]
@[simp] theorem setTsk_mix (d : Dev) (x : TskState) : (d.setTsk x).mix = d.mix := by simp only [setTsk]
@[simp] theorem setTsk_och (d : Dev) (x : TskState) : (d.setTsk x).och = d.och := by simp only [setTsk]
@[simp] theorem setTsk_dmc (d : Dev) (x : TskState) : (d.setTsk x).dmc = d.dmc := by simp only [setTsk]
@[simp] theorem setTsk_pch (d : Dev) (x : TskState) : (d.setTsk x).pch = d.pch := by simp only [setTsk]
@[simp] theorem setTsk_clk (d : Dev) (x : TskState) : (d.setTsk x).clk = d.clk := by simp only [setTsk]

/-! ### setLnd -/

@[simp] theorem setLnd_regs (d : Dev) (x : LndState) : (d.setLnd x).regs = d.regs := by simp only [setLnd]
@[simp] theorem setLnd_act (d : Dev) (x : LndState) : (d.setLnd x).act = d.act := by simp only [setLnd]
@[simp] theorem setLnd_act1 (d : Dev) (x : LndState) : (d.setLnd x).act1 = d.act1 := by simp only [setLnd]
@[simp] theorem setLnd_act2 (d : Dev) (x : LndState) : (d.setLnd x).act2 = d.act2 := by simp only [setLnd]
@[simp] theorem setLnd_latch (d : Dev) (x : LndState) : (d.setLnd x).latch = d.latch := by simp only [setLnd]
@[simp] theorem setLnd_hbuf (d : Dev) (x : LndState) : (d.setLnd x).hbuf = d.hbuf := by simp only [setLnd]
@[simp] theorem setLnd_mem (d : Dev) (x : LndState) : (d.setLnd x).mem = d.mem := by simp only [setLnd]
@[simp] theorem setLnd_host (d : Dev) (x : LndState) : (d.setLnd x).host = d.host := by simp only [setLnd]
@[simp] theorem setLnd_hostBad (d : Dev) (x : LndState) : (d.setLnd x).hostBad = d.hostBad := by simp only [setLnd]
@[simp] theorem setLnd_msix (d : Dev) (x : LndState) : (d.setLnd x).msix = d.msix := by simp only [setLnd]
@[simp] theorem setLnd_resp (d : Dev) (x : LndState) : (d.setLnd x).resp = d.resp := by simp only [setLnd]
@[simp] theorem setLnd_fresh (d : Dev) (x : LndState) : (d.setLnd x).fresh = d.fresh := by simp only [setLnd]
@[simp] theorem setLnd_now (d : Dev) (x : LndState) : (d.setLnd x).now = d.now := by simp only [setLnd]
@[simp] theorem setLnd_eng (d : Dev) (x : LndState) : (d.setLnd x).eng = d.eng := by simp only [setLnd]
@[simp] theorem setLnd_ring (d : Dev) (x : LndState) : (d.setLnd x).ring = d.ring := by simp only [setLnd]
@[simp] theorem setLnd_asnCopy (d : Dev) (x : LndState) : (d.setLnd x).asnCopy = d.asnCopy := by simp only [setLnd]
@[simp] theorem setLnd_evc (d : Dev) (x : LndState) : (d.setLnd x).evc = d.evc := by simp only [setLnd]
@[simp] theorem setLnd_porch (d : Dev) (x : LndState) : (d.setLnd x).porch = d.porch := by simp only [setLnd]
@[simp] theorem setLnd_porchSeq (d : Dev) (x : LndState) : (d.setLnd x).porchSeq = d.porchSeq := by simp only [setLnd]
@[simp] theorem setLnd_xlt (d : Dev) (x : LndState) : (d.setLnd x).xlt = d.xlt := by simp only [setLnd]
@[simp] theorem setLnd_ecc (d : Dev) (x : LndState) : (d.setLnd x).ecc = d.ecc := by simp only [setLnd]
@[simp] theorem setLnd_fab (d : Dev) (x : LndState) : (d.setLnd x).fab = d.fab := by simp only [setLnd]
@[simp] theorem setLnd_tsk (d : Dev) (x : LndState) : (d.setLnd x).tsk = d.tsk := by simp only [setLnd]
@[simp] theorem setLnd_hall (d : Dev) (x : LndState) : (d.setLnd x).hall = d.hall := by simp only [setLnd]
@[simp] theorem setLnd_gang (d : Dev) (x : LndState) : (d.setLnd x).gang = d.gang := by simp only [setLnd]
@[simp] theorem setLnd_tbs (d : Dev) (x : LndState) : (d.setLnd x).tbs = d.tbs := by simp only [setLnd]
@[simp] theorem setLnd_mac (d : Dev) (x : LndState) : (d.setLnd x).mac = d.mac := by simp only [setLnd]
@[simp] theorem setLnd_fe (d : Dev) (x : LndState) : (d.setLnd x).fe = d.fe := by simp only [setLnd]
@[simp] theorem setLnd_lortis (d : Dev) (x : LndState) : (d.setLnd x).lortis = d.lortis := by simp only [setLnd]
@[simp] theorem setLnd_sap (d : Dev) (x : LndState) : (d.setLnd x).sap = d.sap := by simp only [setLnd]
@[simp] theorem setLnd_mix (d : Dev) (x : LndState) : (d.setLnd x).mix = d.mix := by simp only [setLnd]
@[simp] theorem setLnd_och (d : Dev) (x : LndState) : (d.setLnd x).och = d.och := by simp only [setLnd]
@[simp] theorem setLnd_dmc (d : Dev) (x : LndState) : (d.setLnd x).dmc = d.dmc := by simp only [setLnd]
@[simp] theorem setLnd_pch (d : Dev) (x : LndState) : (d.setLnd x).pch = d.pch := by simp only [setLnd]
@[simp] theorem setLnd_clk (d : Dev) (x : LndState) : (d.setLnd x).clk = d.clk := by simp only [setLnd]

/-! ### setPch -/

@[simp] theorem setPch_regs (d : Dev) (x : PchState) : (d.setPch x).regs = d.regs := by simp only [setPch]
@[simp] theorem setPch_act (d : Dev) (x : PchState) : (d.setPch x).act = d.act := by simp only [setPch]
@[simp] theorem setPch_act1 (d : Dev) (x : PchState) : (d.setPch x).act1 = d.act1 := by simp only [setPch]
@[simp] theorem setPch_act2 (d : Dev) (x : PchState) : (d.setPch x).act2 = d.act2 := by simp only [setPch]
@[simp] theorem setPch_latch (d : Dev) (x : PchState) : (d.setPch x).latch = d.latch := by simp only [setPch]
@[simp] theorem setPch_hbuf (d : Dev) (x : PchState) : (d.setPch x).hbuf = d.hbuf := by simp only [setPch]
@[simp] theorem setPch_mem (d : Dev) (x : PchState) : (d.setPch x).mem = d.mem := by simp only [setPch]
@[simp] theorem setPch_host (d : Dev) (x : PchState) : (d.setPch x).host = d.host := by simp only [setPch]
@[simp] theorem setPch_hostBad (d : Dev) (x : PchState) : (d.setPch x).hostBad = d.hostBad := by simp only [setPch]
@[simp] theorem setPch_msix (d : Dev) (x : PchState) : (d.setPch x).msix = d.msix := by simp only [setPch]
@[simp] theorem setPch_resp (d : Dev) (x : PchState) : (d.setPch x).resp = d.resp := by simp only [setPch]
@[simp] theorem setPch_fresh (d : Dev) (x : PchState) : (d.setPch x).fresh = d.fresh := by simp only [setPch]
@[simp] theorem setPch_now (d : Dev) (x : PchState) : (d.setPch x).now = d.now := by simp only [setPch]
@[simp] theorem setPch_lnd (d : Dev) (x : PchState) : (d.setPch x).lnd = d.lnd := by simp only [setPch]
@[simp] theorem setPch_eng (d : Dev) (x : PchState) : (d.setPch x).eng = d.eng := by simp only [setPch]
@[simp] theorem setPch_ring (d : Dev) (x : PchState) : (d.setPch x).ring = d.ring := by simp only [setPch]
@[simp] theorem setPch_asnCopy (d : Dev) (x : PchState) : (d.setPch x).asnCopy = d.asnCopy := by simp only [setPch]
@[simp] theorem setPch_evc (d : Dev) (x : PchState) : (d.setPch x).evc = d.evc := by simp only [setPch]
@[simp] theorem setPch_porch (d : Dev) (x : PchState) : (d.setPch x).porch = d.porch := by simp only [setPch]
@[simp] theorem setPch_porchSeq (d : Dev) (x : PchState) : (d.setPch x).porchSeq = d.porchSeq := by simp only [setPch]
@[simp] theorem setPch_xlt (d : Dev) (x : PchState) : (d.setPch x).xlt = d.xlt := by simp only [setPch]
@[simp] theorem setPch_ecc (d : Dev) (x : PchState) : (d.setPch x).ecc = d.ecc := by simp only [setPch]
@[simp] theorem setPch_fab (d : Dev) (x : PchState) : (d.setPch x).fab = d.fab := by simp only [setPch]
@[simp] theorem setPch_tsk (d : Dev) (x : PchState) : (d.setPch x).tsk = d.tsk := by simp only [setPch]
@[simp] theorem setPch_hall (d : Dev) (x : PchState) : (d.setPch x).hall = d.hall := by simp only [setPch]
@[simp] theorem setPch_gang (d : Dev) (x : PchState) : (d.setPch x).gang = d.gang := by simp only [setPch]
@[simp] theorem setPch_tbs (d : Dev) (x : PchState) : (d.setPch x).tbs = d.tbs := by simp only [setPch]
@[simp] theorem setPch_mac (d : Dev) (x : PchState) : (d.setPch x).mac = d.mac := by simp only [setPch]
@[simp] theorem setPch_fe (d : Dev) (x : PchState) : (d.setPch x).fe = d.fe := by simp only [setPch]
@[simp] theorem setPch_lortis (d : Dev) (x : PchState) : (d.setPch x).lortis = d.lortis := by simp only [setPch]
@[simp] theorem setPch_sap (d : Dev) (x : PchState) : (d.setPch x).sap = d.sap := by simp only [setPch]
@[simp] theorem setPch_mix (d : Dev) (x : PchState) : (d.setPch x).mix = d.mix := by simp only [setPch]
@[simp] theorem setPch_och (d : Dev) (x : PchState) : (d.setPch x).och = d.och := by simp only [setPch]
@[simp] theorem setPch_dmc (d : Dev) (x : PchState) : (d.setPch x).dmc = d.dmc := by simp only [setPch]
@[simp] theorem setPch_clk (d : Dev) (x : PchState) : (d.setPch x).clk = d.clk := by simp only [setPch]

/-! ### setDmc -/

@[simp] theorem setDmc_regs (d : Dev) (c : Nat) (x : DmcChan) : (d.setDmc c x).regs = d.regs := by simp only [setDmc]
@[simp] theorem setDmc_act (d : Dev) (c : Nat) (x : DmcChan) : (d.setDmc c x).act = d.act := by simp only [setDmc]
@[simp] theorem setDmc_act1 (d : Dev) (c : Nat) (x : DmcChan) : (d.setDmc c x).act1 = d.act1 := by simp only [setDmc]
@[simp] theorem setDmc_act2 (d : Dev) (c : Nat) (x : DmcChan) : (d.setDmc c x).act2 = d.act2 := by simp only [setDmc]
@[simp] theorem setDmc_latch (d : Dev) (c : Nat) (x : DmcChan) : (d.setDmc c x).latch = d.latch := by simp only [setDmc]
@[simp] theorem setDmc_hbuf (d : Dev) (c : Nat) (x : DmcChan) : (d.setDmc c x).hbuf = d.hbuf := by simp only [setDmc]
@[simp] theorem setDmc_mem (d : Dev) (c : Nat) (x : DmcChan) : (d.setDmc c x).mem = d.mem := by simp only [setDmc]
@[simp] theorem setDmc_host (d : Dev) (c : Nat) (x : DmcChan) : (d.setDmc c x).host = d.host := by simp only [setDmc]
@[simp] theorem setDmc_hostBad (d : Dev) (c : Nat) (x : DmcChan) : (d.setDmc c x).hostBad = d.hostBad := by simp only [setDmc]
@[simp] theorem setDmc_msix (d : Dev) (c : Nat) (x : DmcChan) : (d.setDmc c x).msix = d.msix := by simp only [setDmc]
@[simp] theorem setDmc_resp (d : Dev) (c : Nat) (x : DmcChan) : (d.setDmc c x).resp = d.resp := by simp only [setDmc]
@[simp] theorem setDmc_fresh (d : Dev) (c : Nat) (x : DmcChan) : (d.setDmc c x).fresh = d.fresh := by simp only [setDmc]
@[simp] theorem setDmc_now (d : Dev) (c : Nat) (x : DmcChan) : (d.setDmc c x).now = d.now := by simp only [setDmc]
@[simp] theorem setDmc_lnd (d : Dev) (c : Nat) (x : DmcChan) : (d.setDmc c x).lnd = d.lnd := by simp only [setDmc]
@[simp] theorem setDmc_eng (d : Dev) (c : Nat) (x : DmcChan) : (d.setDmc c x).eng = d.eng := by simp only [setDmc]
@[simp] theorem setDmc_ring (d : Dev) (c : Nat) (x : DmcChan) : (d.setDmc c x).ring = d.ring := by simp only [setDmc]
@[simp] theorem setDmc_asnCopy (d : Dev) (c : Nat) (x : DmcChan) : (d.setDmc c x).asnCopy = d.asnCopy := by simp only [setDmc]
@[simp] theorem setDmc_evc (d : Dev) (c : Nat) (x : DmcChan) : (d.setDmc c x).evc = d.evc := by simp only [setDmc]
@[simp] theorem setDmc_porch (d : Dev) (c : Nat) (x : DmcChan) : (d.setDmc c x).porch = d.porch := by simp only [setDmc]
@[simp] theorem setDmc_porchSeq (d : Dev) (c : Nat) (x : DmcChan) : (d.setDmc c x).porchSeq = d.porchSeq := by simp only [setDmc]
@[simp] theorem setDmc_xlt (d : Dev) (c : Nat) (x : DmcChan) : (d.setDmc c x).xlt = d.xlt := by simp only [setDmc]
@[simp] theorem setDmc_ecc (d : Dev) (c : Nat) (x : DmcChan) : (d.setDmc c x).ecc = d.ecc := by simp only [setDmc]
@[simp] theorem setDmc_fab (d : Dev) (c : Nat) (x : DmcChan) : (d.setDmc c x).fab = d.fab := by simp only [setDmc]
@[simp] theorem setDmc_tsk (d : Dev) (c : Nat) (x : DmcChan) : (d.setDmc c x).tsk = d.tsk := by simp only [setDmc]
@[simp] theorem setDmc_hall (d : Dev) (c : Nat) (x : DmcChan) : (d.setDmc c x).hall = d.hall := by simp only [setDmc]
@[simp] theorem setDmc_gang (d : Dev) (c : Nat) (x : DmcChan) : (d.setDmc c x).gang = d.gang := by simp only [setDmc]
@[simp] theorem setDmc_tbs (d : Dev) (c : Nat) (x : DmcChan) : (d.setDmc c x).tbs = d.tbs := by simp only [setDmc]
@[simp] theorem setDmc_mac (d : Dev) (c : Nat) (x : DmcChan) : (d.setDmc c x).mac = d.mac := by simp only [setDmc]
@[simp] theorem setDmc_fe (d : Dev) (c : Nat) (x : DmcChan) : (d.setDmc c x).fe = d.fe := by simp only [setDmc]
@[simp] theorem setDmc_lortis (d : Dev) (c : Nat) (x : DmcChan) : (d.setDmc c x).lortis = d.lortis := by simp only [setDmc]
@[simp] theorem setDmc_sap (d : Dev) (c : Nat) (x : DmcChan) : (d.setDmc c x).sap = d.sap := by simp only [setDmc]
@[simp] theorem setDmc_mix (d : Dev) (c : Nat) (x : DmcChan) : (d.setDmc c x).mix = d.mix := by simp only [setDmc]
@[simp] theorem setDmc_och (d : Dev) (c : Nat) (x : DmcChan) : (d.setDmc c x).och = d.och := by simp only [setDmc]
@[simp] theorem setDmc_pch (d : Dev) (c : Nat) (x : DmcChan) : (d.setDmc c x).pch = d.pch := by simp only [setDmc]
@[simp] theorem setDmc_clk (d : Dev) (c : Nat) (x : DmcChan) : (d.setDmc c x).clk = d.clk := by simp only [setDmc]

/-! ### porchPut -/

@[simp] theorem porchPut_regs (d : Dev) (r : EvRec) : (d.porchPut r).regs = d.regs := by simp only [porchPut]
@[simp] theorem porchPut_act (d : Dev) (r : EvRec) : (d.porchPut r).act = d.act := by simp only [porchPut]
@[simp] theorem porchPut_act1 (d : Dev) (r : EvRec) : (d.porchPut r).act1 = d.act1 := by simp only [porchPut]
@[simp] theorem porchPut_act2 (d : Dev) (r : EvRec) : (d.porchPut r).act2 = d.act2 := by simp only [porchPut]
@[simp] theorem porchPut_latch (d : Dev) (r : EvRec) : (d.porchPut r).latch = d.latch := by simp only [porchPut]
@[simp] theorem porchPut_hbuf (d : Dev) (r : EvRec) : (d.porchPut r).hbuf = d.hbuf := by simp only [porchPut]
@[simp] theorem porchPut_mem (d : Dev) (r : EvRec) : (d.porchPut r).mem = d.mem := by simp only [porchPut]
@[simp] theorem porchPut_host (d : Dev) (r : EvRec) : (d.porchPut r).host = d.host := by simp only [porchPut]
@[simp] theorem porchPut_hostBad (d : Dev) (r : EvRec) : (d.porchPut r).hostBad = d.hostBad := by simp only [porchPut]
@[simp] theorem porchPut_msix (d : Dev) (r : EvRec) : (d.porchPut r).msix = d.msix := by simp only [porchPut]
@[simp] theorem porchPut_resp (d : Dev) (r : EvRec) : (d.porchPut r).resp = d.resp := by simp only [porchPut]
@[simp] theorem porchPut_fresh (d : Dev) (r : EvRec) : (d.porchPut r).fresh = d.fresh := by simp only [porchPut]
@[simp] theorem porchPut_now (d : Dev) (r : EvRec) : (d.porchPut r).now = d.now := by simp only [porchPut]
@[simp] theorem porchPut_lnd (d : Dev) (r : EvRec) : (d.porchPut r).lnd = d.lnd := by simp only [porchPut]
@[simp] theorem porchPut_eng (d : Dev) (r : EvRec) : (d.porchPut r).eng = d.eng := by simp only [porchPut]
@[simp] theorem porchPut_ring (d : Dev) (r : EvRec) : (d.porchPut r).ring = d.ring := by simp only [porchPut]
@[simp] theorem porchPut_asnCopy (d : Dev) (r : EvRec) : (d.porchPut r).asnCopy = d.asnCopy := by simp only [porchPut]
@[simp] theorem porchPut_evc (d : Dev) (r : EvRec) : (d.porchPut r).evc = d.evc := by simp only [porchPut]
@[simp] theorem porchPut_xlt (d : Dev) (r : EvRec) : (d.porchPut r).xlt = d.xlt := by simp only [porchPut]
@[simp] theorem porchPut_ecc (d : Dev) (r : EvRec) : (d.porchPut r).ecc = d.ecc := by simp only [porchPut]
@[simp] theorem porchPut_fab (d : Dev) (r : EvRec) : (d.porchPut r).fab = d.fab := by simp only [porchPut]
@[simp] theorem porchPut_tsk (d : Dev) (r : EvRec) : (d.porchPut r).tsk = d.tsk := by simp only [porchPut]
@[simp] theorem porchPut_hall (d : Dev) (r : EvRec) : (d.porchPut r).hall = d.hall := by simp only [porchPut]
@[simp] theorem porchPut_gang (d : Dev) (r : EvRec) : (d.porchPut r).gang = d.gang := by simp only [porchPut]
@[simp] theorem porchPut_tbs (d : Dev) (r : EvRec) : (d.porchPut r).tbs = d.tbs := by simp only [porchPut]
@[simp] theorem porchPut_mac (d : Dev) (r : EvRec) : (d.porchPut r).mac = d.mac := by simp only [porchPut]
@[simp] theorem porchPut_fe (d : Dev) (r : EvRec) : (d.porchPut r).fe = d.fe := by simp only [porchPut]
@[simp] theorem porchPut_lortis (d : Dev) (r : EvRec) : (d.porchPut r).lortis = d.lortis := by simp only [porchPut]
@[simp] theorem porchPut_sap (d : Dev) (r : EvRec) : (d.porchPut r).sap = d.sap := by simp only [porchPut]
@[simp] theorem porchPut_mix (d : Dev) (r : EvRec) : (d.porchPut r).mix = d.mix := by simp only [porchPut]
@[simp] theorem porchPut_och (d : Dev) (r : EvRec) : (d.porchPut r).och = d.och := by simp only [porchPut]
@[simp] theorem porchPut_dmc (d : Dev) (r : EvRec) : (d.porchPut r).dmc = d.dmc := by simp only [porchPut]
@[simp] theorem porchPut_pch (d : Dev) (r : EvRec) : (d.porchPut r).pch = d.pch := by simp only [porchPut]
@[simp] theorem porchPut_clk (d : Dev) (r : EvRec) : (d.porchPut r).clk = d.clk := by simp only [porchPut]

/-! ### porchTrim -/

@[simp] theorem porchTrim_regs (d : Dev) : (d.porchTrim).regs = d.regs := by simp only [porchTrim]
@[simp] theorem porchTrim_act (d : Dev) : (d.porchTrim).act = d.act := by simp only [porchTrim]
@[simp] theorem porchTrim_act1 (d : Dev) : (d.porchTrim).act1 = d.act1 := by simp only [porchTrim]
@[simp] theorem porchTrim_act2 (d : Dev) : (d.porchTrim).act2 = d.act2 := by simp only [porchTrim]
@[simp] theorem porchTrim_latch (d : Dev) : (d.porchTrim).latch = d.latch := by simp only [porchTrim]
@[simp] theorem porchTrim_hbuf (d : Dev) : (d.porchTrim).hbuf = d.hbuf := by simp only [porchTrim]
@[simp] theorem porchTrim_mem (d : Dev) : (d.porchTrim).mem = d.mem := by simp only [porchTrim]
@[simp] theorem porchTrim_host (d : Dev) : (d.porchTrim).host = d.host := by simp only [porchTrim]
@[simp] theorem porchTrim_hostBad (d : Dev) : (d.porchTrim).hostBad = d.hostBad := by simp only [porchTrim]
@[simp] theorem porchTrim_msix (d : Dev) : (d.porchTrim).msix = d.msix := by simp only [porchTrim]
@[simp] theorem porchTrim_resp (d : Dev) : (d.porchTrim).resp = d.resp := by simp only [porchTrim]
@[simp] theorem porchTrim_fresh (d : Dev) : (d.porchTrim).fresh = d.fresh := by simp only [porchTrim]
@[simp] theorem porchTrim_now (d : Dev) : (d.porchTrim).now = d.now := by simp only [porchTrim]
@[simp] theorem porchTrim_lnd (d : Dev) : (d.porchTrim).lnd = d.lnd := by simp only [porchTrim]
@[simp] theorem porchTrim_eng (d : Dev) : (d.porchTrim).eng = d.eng := by simp only [porchTrim]
@[simp] theorem porchTrim_ring (d : Dev) : (d.porchTrim).ring = d.ring := by simp only [porchTrim]
@[simp] theorem porchTrim_asnCopy (d : Dev) : (d.porchTrim).asnCopy = d.asnCopy := by simp only [porchTrim]
@[simp] theorem porchTrim_evc (d : Dev) : (d.porchTrim).evc = d.evc := by simp only [porchTrim]
@[simp] theorem porchTrim_porchSeq (d : Dev) : (d.porchTrim).porchSeq = d.porchSeq := by simp only [porchTrim]
@[simp] theorem porchTrim_xlt (d : Dev) : (d.porchTrim).xlt = d.xlt := by simp only [porchTrim]
@[simp] theorem porchTrim_ecc (d : Dev) : (d.porchTrim).ecc = d.ecc := by simp only [porchTrim]
@[simp] theorem porchTrim_fab (d : Dev) : (d.porchTrim).fab = d.fab := by simp only [porchTrim]
@[simp] theorem porchTrim_tsk (d : Dev) : (d.porchTrim).tsk = d.tsk := by simp only [porchTrim]
@[simp] theorem porchTrim_hall (d : Dev) : (d.porchTrim).hall = d.hall := by simp only [porchTrim]
@[simp] theorem porchTrim_gang (d : Dev) : (d.porchTrim).gang = d.gang := by simp only [porchTrim]
@[simp] theorem porchTrim_tbs (d : Dev) : (d.porchTrim).tbs = d.tbs := by simp only [porchTrim]
@[simp] theorem porchTrim_mac (d : Dev) : (d.porchTrim).mac = d.mac := by simp only [porchTrim]
@[simp] theorem porchTrim_fe (d : Dev) : (d.porchTrim).fe = d.fe := by simp only [porchTrim]
@[simp] theorem porchTrim_lortis (d : Dev) : (d.porchTrim).lortis = d.lortis := by simp only [porchTrim]
@[simp] theorem porchTrim_sap (d : Dev) : (d.porchTrim).sap = d.sap := by simp only [porchTrim]
@[simp] theorem porchTrim_mix (d : Dev) : (d.porchTrim).mix = d.mix := by simp only [porchTrim]
@[simp] theorem porchTrim_och (d : Dev) : (d.porchTrim).och = d.och := by simp only [porchTrim]
@[simp] theorem porchTrim_dmc (d : Dev) : (d.porchTrim).dmc = d.dmc := by simp only [porchTrim]
@[simp] theorem porchTrim_pch (d : Dev) : (d.porchTrim).pch = d.pch := by simp only [porchTrim]
@[simp] theorem porchTrim_clk (d : Dev) : (d.porchTrim).clk = d.clk := by simp only [porchTrim]

end Sys2Proof.Machine.Dev
end

