-- ==== Sys2Proof/Laws/Registers.lean ====
section
/-! SUPPORT. Sys2Proof/Laws/Registers.lean: the laws of register words and of their fields. -/
namespace Sys2Proof.Machine

/-! ### Bit fields -/

theorem bitsOf_testBit (v lo w i : Nat) : (bitsOf v lo w).testBit i = (decide (i < w) && v.testBit (lo + i)) := by
  simp [bitsOf, Nat.testBit_mod_two_pow, Nat.testBit_div_two_pow, Nat.add_comm]

/-- A field inside the low `m` bits is one of the value cut to `m` bits. -/
theorem bitsOf_mod (v lo w m : Nat) (h : lo + w ≤ m) : bitsOf (v % 2 ^ m) lo w = bitsOf v lo w := by
  apply Nat.eq_of_testBit_eq
  intro i
  simp only [bitsOf_testBit, Nat.testBit_mod_two_pow]
  by_cases hi : i < w
  · have : lo + i < m := by omega
    simp [hi, this]
  · simp [hi]

theorem withBits_eq (v lo w x : Nat) :
    withBits v lo w x = v % 2 ^ lo + 2 ^ lo * (x % 2 ^ w + 2 ^ w * (v / 2 ^ (lo + w))) := by
  simp only [withBits, Nat.pow_add, Nat.mul_add]
  rw [Nat.mul_assoc]
  omega

theorem withBits_div (v lo w x : Nat) : withBits v lo w x / 2 ^ lo = x % 2 ^ w + 2 ^ w * (v / 2 ^ (lo + w)) := by
  rw [withBits_eq, Nat.add_mul_div_left _ _ (Nat.two_pow_pos lo), Nat.div_eq_of_lt (Nat.mod_lt _ (Nat.two_pow_pos lo))]
  omega

theorem withBits_mod (v lo w x : Nat) : withBits v lo w x % 2 ^ lo = v % 2 ^ lo := by
  rw [withBits_eq, Nat.add_mul_mod_self_left, Nat.mod_mod]

theorem withBits_high (v lo w x : Nat) : withBits v lo w x / 2 ^ (lo + w) = v / 2 ^ (lo + w) := by
  rw [Nat.pow_add, ← Nat.div_div_eq_div_mul, withBits_div, Nat.add_mul_div_left _ _ (Nat.two_pow_pos w),
    Nat.div_eq_of_lt (Nat.mod_lt _ (Nat.two_pow_pos w)), ← Nat.pow_add]
  omega

/-- The field that was put. -/
theorem bitsOf_withBits_same (v lo w x : Nat) : bitsOf (withBits v lo w x) lo w = x % 2 ^ w := by
  rw [bitsOf, withBits_div, Nat.add_mul_mod_self_left, Nat.mod_mod]

/-- A field below. -/
theorem bitsOf_withBits_below (v lo w x l n : Nat) (h : l + n ≤ lo) : bitsOf (withBits v lo w x) l n = bitsOf v l n := by
  rw [← bitsOf_mod _ l n lo h, withBits_mod, bitsOf_mod _ l n lo h]

/-- A field above. -/
theorem bitsOf_withBits_above (v lo w x l n : Nat) (h : lo + w ≤ l) : bitsOf (withBits v lo w x) l n = bitsOf v l n := by
  obtain ⟨k, rfl⟩ : ∃ k, l = lo + w + k := ⟨l - (lo + w), by omega⟩
  simp only [bitsOf]
  rw [Nat.pow_add, ← Nat.div_div_eq_div_mul, withBits_high, Nat.div_div_eq_div_mul]

theorem bitsOf_lt (v lo w : Nat) : bitsOf v lo w < 2 ^ w := Nat.mod_lt _ (Nat.two_pow_pos w)

/-! ### Vectors -/

theorem vat_vput_same {α : Type} {n : Nat} (v : Vector α (n + 1)) {i : Nat} (x : α) (h : i < n + 1) : vat (vput v i x) i = x := by
  simp [vat, vput, h]

theorem vat_vput_other {α : Type} {n : Nat} (v : Vector α (n + 1)) {i j : Nat} (x : α) (hi : i < n + 1) (h : i ≠ j) :
    vat (vput v j x) i = vat v i := by
  by_cases hj : j < n + 1 <;> simp [vat, vput, hi, hj, Vector.getElem_set, Ne.symm h]

/-- Two fields of one register that share no bit, or fields of two registers. -/
def Fld.apart (f g : Fld) : Bool := f.a != g.a || decide (f.lo + f.w ≤ g.lo) || decide (g.lo + g.w ≤ f.lo)

namespace Dev

/-! ### Register words -/

@[simp] theorem reg_setReg_same (d : Dev) (a : Nat) (v : Word) : (d.setReg a v).reg a = v := by
  simp [reg, setReg]

theorem reg_setReg_other (d : Dev) {a b : Nat} (v : Word) (h : b ≠ a) : (d.setReg a v).reg b = d.reg b := by
  simp [reg, setReg, sget_sset_other _ _ _ h]

theorem reg_setReg (d : Dev) (a b : Nat) (v : Word) : (d.setReg a v).reg b = if b = a then v else d.reg b := by
  simp [reg, setReg, sget_sset]

theorem reg_set_other (d : Dev) (f : Fld) (x : Nat) {b : Nat} (h : b ≠ f.a) : (d.set f x).reg b = d.reg b := by
  simp [set, reg_setReg_other _ _ h]

theorem reg_set64_other (d : Dev) (a v : Nat) {b : Nat} (h : b ≠ a) (h4 : b ≠ a + 4) : (d.set64 a v).reg b = d.reg b := by
  simp [set64, reg_setReg_other _ _ h, reg_setReg_other _ _ h4]

/-! ### Fields -/

/-- A field reads what was written to it last. -/
theorem get_set_same (d : Dev) (f : Fld) (x : Nat) (h : f.lo + f.w ≤ 32) : (d.set f x).get f = x % 2 ^ f.w := by
  simp only [get, set, reg_setReg_same, BitVec.toNat_ofNat]
  rw [bitsOf_mod _ _ _ _ h, bitsOf_withBits_same]

/-- A write of a field leaves every other field as it was. -/
theorem get_set_other (d : Dev) (f g : Fld) (x : Nat) (h : f.apart g = true) (hg : g.lo + g.w ≤ 32) :
    (d.set f x).get g = d.get g := by
  by_cases ha : f.a = g.a
  · simp only [get, set, ha, reg_setReg_same, BitVec.toNat_ofNat]
    rw [bitsOf_mod _ _ _ _ hg]
    simp [Fld.apart, ha] at h
    rcases h with h | h
    · exact bitsOf_withBits_above _ _ _ _ _ _ h
    · exact bitsOf_withBits_below _ _ _ _ _ _ h
  · simp [get, set, reg_setReg_other _ _ (Ne.symm ha)]

theorem get_setReg_other (d : Dev) (f : Fld) {a : Nat} (v : Word) (h : f.a ≠ a) : (d.setReg a v).get f = d.get f := by
  simp [get, reg_setReg_other _ _ h]

/-- A 64-bit value reads what was written to it last. -/
theorem get64_set64_same (d : Dev) (a v : Nat) : (d.set64 a v).get64 a = v % 2 ^ 64 := by
  simp only [get64, set64, reg_setReg_same, BitVec.toNat_ofNat, reg_setReg_other _ _ (show a ≠ a + 4 by omega)]
  omega

theorem get64_set64_other (d : Dev) (a b v : Nat) (h : b + 4 < a ∨ a + 4 < b) : (d.set64 a v).get64 b = d.get64 b := by
  simp only [get64]
  rw [reg_set64_other, reg_set64_other] <;> omega

end Dev
end Sys2Proof.Machine
end

