-- ==== Sys2Proof/Laws/Frame.lean ====
section
/-! SUPPORT. Sys2Proof/Laws/Frame.lean: the laws of frames: they compose, what each update of the device changes, and what a frame says of a register, a field and a ring. -/
namespace Sys2Proof.Machine

theorem Part.same_refl (l : List Part) (p : Part) (d : Dev) : p.same l d d := by cases p <;> simp [Part.same]

theorem Part.same_trans {l : List Part} {p : Part} {d e f : Dev} (h : p.same l d e) (g : p.same l e f) : p.same l d f := by
  cases p with
  | reg a => trivial
  | regs b => intro a i hb ha hi; rw [g a i hb ha hi, h a i hb ha hi]
  | mem => intro a; rw [g a, h a]
  | ring => intro r hr hn; rw [g r hr hn, h r hr hn]
  | act => exact ⟨g.1.trans h.1, g.2.1.trans h.2.1, g.2.2.trans h.2.2⟩
  | pairs => exact ⟨g.1.trans h.1, g.2.trans h.2⟩
  | porch => exact ⟨g.1.trans h.1, g.2.trans h.2⟩
  | _ => exact Eq.trans g h

/-- A block holds no address of another. -/
theorem Blk.holds_unique {b c : Blk} {a : Nat} (hb : b.holds a) (hc : c.holds a) : b = c := by
  cases b <;> cases c <;> first | rfl | (exfalso; simp [Blk.holds, Blk.lo, Blk.hi] at hb hc; omega)

/-! Addresses of a block, given as a base and an offset. -/

theorem Blk.holds_lnd (a b : Nat) (h : 0 ≤ a + b ∧ a + b < 0x10000) : Blk.lnd.holds (a + b) := ⟨h.1, h.2, fun x => Blk.noConfusion x.1⟩
theorem Blk.holds_clk (a b : Nat) (h : 0x10000 ≤ a + b ∧ a + b < 0x20000) : Blk.clk.holds (a + b) := ⟨h.1, h.2, fun x => Blk.noConfusion x.1⟩
theorem Blk.holds_rst (a b : Nat) (h : 0x20000 ≤ a + b ∧ a + b < 0x30000) : Blk.rst.holds (a + b) := ⟨h.1, h.2, fun x => Blk.noConfusion x.1⟩
theorem Blk.holds_evc (a b : Nat) (h : 0x30000 ≤ a + b ∧ a + b < 0x40000) : Blk.evc.holds (a + b) := ⟨h.1, h.2, fun x => Blk.noConfusion x.1⟩
theorem Blk.holds_pmc (a b : Nat) (h : 0x40000 ≤ a + b ∧ a + b < 0x50000) : Blk.pmc.holds (a + b) := ⟨h.1, h.2, fun x => Blk.noConfusion x.1⟩
theorem Blk.holds_tsk (a b : Nat) (h : 0x50000 ≤ a + b ∧ a + b < 0x60000) : Blk.tsk.holds (a + b) := ⟨h.1, h.2, fun x => Blk.noConfusion x.1⟩
theorem Blk.holds_hif (a b : Nat) (h : 0x60000 ≤ a + b ∧ a + b < 0x70000) : Blk.hif.holds (a + b) := ⟨h.1, h.2, fun x => Blk.noConfusion x.1⟩
theorem Blk.holds_xlt (a b : Nat) (h : 0x70000 ≤ a + b ∧ a + b < 0x80000) : Blk.xlt.holds (a + b) := ⟨h.1, h.2, fun x => Blk.noConfusion x.1⟩
theorem Blk.holds_ecc (a b : Nat) (h : 0x80000 ≤ a + b ∧ a + b < 0x90000) : Blk.ecc.holds (a + b) := ⟨h.1, h.2, fun x => Blk.noConfusion x.1⟩
theorem Blk.holds_dmc (a b : Nat) (h : 0x90000 ≤ a + b ∧ a + b < 0xC0000 ∧ ¬(0xA0000 ≤ a + b ∧ a + b < 0xB0000)) :
    Blk.dmc.holds (a + b) := ⟨h.1, h.2.1, fun x => h.2.2 x.2⟩
theorem Blk.holds_fab (a b : Nat) (h : 0xA0000 ≤ a + b ∧ a + b < 0xB0000) : Blk.fab.holds (a + b) := ⟨h.1, h.2, fun x => Blk.noConfusion x.1⟩
theorem Blk.holds_mac (a b : Nat) (h : 0x100000 ≤ a + b ∧ a + b < 0x140000) : Blk.mac.holds (a + b) := ⟨h.1, h.2, fun x => Blk.noConfusion x.1⟩
theorem Blk.holds_tb (a b : Nat) (h : 0x140000 ≤ a + b ∧ a + b < 0x150000) : Blk.tb.holds (a + b) := ⟨h.1, h.2, fun x => Blk.noConfusion x.1⟩
theorem Blk.holds_fe (a b : Nat) (h : 0x150000 ≤ a + b ∧ a + b < 0x160000) : Blk.fe.holds (a + b) := ⟨h.1, h.2, fun x => Blk.noConfusion x.1⟩
theorem Blk.holds_sap (a b : Nat) (h : 0x160000 ≤ a + b ∧ a + b < 0x168000) : Blk.sap.holds (a + b) := ⟨h.1, h.2, fun x => Blk.noConfusion x.1⟩
theorem Blk.holds_mix (a b : Nat) (h : 0x170000 ≤ a + b ∧ a + b < 0x180000) : Blk.mix.holds (a + b) := ⟨h.1, h.2, fun x => Blk.noConfusion x.1⟩
theorem Blk.holds_pch (a b : Nat) (h : 0x180000 ≤ a + b ∧ a + b < 0x190000) : Blk.pch.holds (a + b) := ⟨h.1, h.2, fun x => Blk.noConfusion x.1⟩
theorem Blk.holds_gang (a b : Nat) (h : 0x1D0000 ≤ a + b ∧ a + b < 0x1E0000) : Blk.gang.holds (a + b) := ⟨h.1, h.2, fun x => Blk.noConfusion x.1⟩
theorem Blk.holds_och (a b : Nat) (h : 0x1E0000 ≤ a + b ∧ a + b < 0x1F0000) : Blk.och.holds (a + b) := ⟨h.1, h.2, fun x => Blk.noConfusion x.1⟩
theorem Blk.holds_hall (a b : Nat) (h : 0x1F0000 ≤ a + b ∧ a + b < 0x200000) : Blk.hall.holds (a + b) := ⟨h.1, h.2, fun x => Blk.noConfusion x.1⟩
theorem Blk.holds_eng (a b : Nat) (h : 0x200000 ≤ a + b ∧ a + b < 0x310000) : Blk.eng.holds (a + b) := ⟨h.1, h.2, fun x => Blk.noConfusion x.1⟩

/-- The registers that events change lie in EVC, PMC, HIF and XLT. -/
theorem evBit_place {a i : Nat} (h : evBit a i) : (0x30000 ≤ a ∧ a < 0x50000) ∨ (0x60000 ≤ a ∧ a < 0x80000) := by
  simp only [evBit, Adr.EVC_STATUS, Adr.EVC_OVF_CNT, Adr.EVC_PEND, Adr.EVC_LEVEL, Adr.PMC_STATUS, Adr.PMC_WRAP, Adr.PMC_CNT_LO,
    Adr.HIF_MSIX_PBA, Adr.HIF_RING_DEV_IDX, Adr.HIF_RING_STATUS, Adr.HIF_STATUS, Adr.HIF_EVFAULT_ADDR_LO, Adr.XLT_FAULT_CNT,
    Adr.XLT_CTX_FSEQ] at h
  rcases h with h | h | h | h | h | h | h | h | h | h | h | h | ⟨⟨c, hc, h⟩, -⟩ <;> omega

/-- A block whose registers no event changes. -/
def Blk.quiet (b : Blk) : Bool := b != .evc && b != .pmc && b != .hif && b != .xlt

/-- Events change no register of a block but EVC, PMC, HIF and XLT. -/
theorem not_evBit {k : Blk} {a : Nat} (i : Nat) (h : k.holds a) (hk : k.quiet = true) : ¬ evBit a i := by
  intro he
  have := evBit_place he
  cases k <;> first | contradiction | (simp only [Blk.holds, Blk.lo, Blk.hi] at h; omega)

/-- The bits of a word outside the field that is put. -/
theorem withBits_testBit (v lo w x i : Nat) (h : i < lo ∨ lo + w ≤ i) : (withBits v lo w x).testBit i = v.testBit i := by
  rcases h with h | h
  · have h1 : bitsOf (withBits v lo w x) i 1 = bitsOf v i 1 := bitsOf_withBits_below v lo w x i 1 (by omega)
    have h2 : (bitsOf (withBits v lo w x) i 1).testBit 0 = (bitsOf v i 1).testBit 0 := by rw [h1]
    simpa only [bitsOf_testBit, Nat.add_zero, Nat.zero_lt_one, decide_true, Bool.true_and] using h2
  · have h1 : bitsOf (withBits v lo w x) i 1 = bitsOf v i 1 := bitsOf_withBits_above v lo w x i 1 h
    have h2 : (bitsOf (withBits v lo w x) i 1).testBit 0 = (bitsOf v i 1).testBit 0 := by rw [h1]
    simpa only [bitsOf_testBit, Nat.add_zero, Nat.zero_lt_one, decide_true, Bool.true_and] using h2

/-- A field's write leaves the other bits of its register. -/
theorem Dev.set_bit (d : Dev) (f : Fld) (x i : Nat) (h : i < f.lo ∨ f.lo + f.w ≤ i) :
    ((d.set f x).reg f.a).getLsbD i = (d.reg f.a).getLsbD i := by
  simp only [Dev.set, Dev.reg_setReg_same, BitVec.getLsbD_ofNat, withBits_testBit _ _ _ _ _ h]
  by_cases hi : i < 32
  · simp [hi, BitVec.getLsbD]
  · simp [hi, BitVec.getLsbD_of_ge _ _ (Nat.le_of_not_lt hi)]

namespace Only
variable {l m : List Part} {d e f : Dev}

theorem refl (l : List Part) (d : Dev) : Only l d d := fun p _ => p.same_refl l d

theorem trans (h : Only l d e) (g : Only l e f) : Only l d f := fun p hp => Part.same_trans (h p hp) (g p hp)

theorem mono (h : Only l d e) (g : ∀ p, p ∈ l → p ∈ m) : Only m d e := by
  intro p hp
  have := h p (fun hl => hp (g p hl))
  cases p with
  | regs b => exact fun a i hb ha hi => this a i hb (fun hl => ha (g _ hl)) hi
  | _ => exact this

theorem left (h : Only l d e) : Only (l ++ m) d e := h.mono (fun _ hp => List.mem_append_left _ hp)

theorem ite {c : Prop} [Decidable c] {a b : Dev} (ha : Only l d a) (hb : Only l d b) : Only l d (if c then a else b) := by
  split <;> assumption

/-! ### Updates -/

/-- A write of a register whose changed bits the frame does not hold fixed. -/
theorem setBits {a : Nat} (v : Word)
    (k : ∀ b i, Blk.holds b a → Part.regs b ∉ l → Part.reg a ∉ l → ¬ evBit a i → v.getLsbD i = (e.reg a).getLsbD i)
    (h : Only l d e) : Only l d (e.setReg a v) := by
  refine h.trans ?_
  intro p hp
  cases p with
  | regs c =>
    intro x i hx hr hi
    by_cases hxa : x = a
    · subst hxa
      rw [Dev.reg_setReg_same]
      exact k c i hx hp hr hi
    · rw [Dev.reg_setReg_other _ _ hxa]
  | _ => simp [Part.same, Dev.setReg, Dev.byteAt, Dev.ringAt]

/-- A register that the frame names. -/
theorem setAt {a : Nat} (v : Word) (ha : Part.reg a ∈ l) (h : Only l d e) : Only l d (e.setReg a v) :=
  h.setBits v (fun _ _ _ _ hr _ => absurd ha hr)

theorem setFld {f : Fld} (x : Nat) (ha : Part.reg f.a ∈ l) (h : Only l d e) : Only l d (e.set f x) := h.setAt _ ha

theorem set64At {a : Nat} (v : Nat) (ha : Part.reg a ∈ l) (ha4 : Part.reg (a + 4) ∈ l) (h : Only l d e) : Only l d (e.set64 a v) :=
  (h.setAt _ ha).setAt _ ha4

theorem bumpAt {a : Nat} (ha : Part.reg a ∈ l) (h : Only l d e) : Only l d (e.bump a) := by
  rw [Dev.bump, Dev.bumpBy]
  exact ite h (h.setAt _ ha)

theorem bumpByAt {a : Nat} (n : Nat) (ha : Part.reg a ∈ l) (h : Only l d e) : Only l d (e.bumpBy a n) := by
  rw [Dev.bumpBy]
  exact ite h (h.setAt _ ha)

theorem setReg {b : Blk} {a : Nat} (v : Word) (ha : b.holds a) (hb : Part.regs b ∈ l) (h : Only l d e) : Only l d (e.setReg a v) :=
  h.setBits v (fun _ _ hc hl _ _ => absurd (Blk.holds_unique ha hc ▸ hb) hl)

theorem set {b : Blk} {f : Fld} (x : Nat) (ha : b.holds f.a) (hb : Part.regs b ∈ l) (h : Only l d e) : Only l d (e.set f x) :=
  h.setReg _ ha hb

theorem set64 {b : Blk} {a : Nat} (v : Nat) (ha : b.holds a) (ha4 : b.holds (a + 4)) (hb : Part.regs b ∈ l) (h : Only l d e) :
    Only l d (e.set64 a v) := (h.setReg _ ha hb).setReg _ ha4 hb

theorem bumpBy {b : Blk} {a : Nat} (n : Nat) (ha : b.holds a) (hb : Part.regs b ∈ l) (h : Only l d e) : Only l d (e.bumpBy a n) := by
  rw [Dev.bumpBy]
  exact ite h (h.setReg _ ha hb)

theorem bump {b : Blk} {a : Nat} (ha : b.holds a) (hb : Part.regs b ∈ l) (h : Only l d e) : Only l d (e.bump a) := h.bumpBy 1 ha hb

/-- A register of which an event can change every bit. -/
theorem setEv {a : Nat} (v : Word) (ha : ∀ i, evBit a i) (h : Only l d e) : Only l d (e.setReg a v) :=
  h.setBits v (fun _ i _ _ _ hi => absurd (ha i) hi)

/-- A field of which an event can change every bit. -/
theorem setEvField {f : Fld} (x : Nat) (ha : ∀ i, f.lo ≤ i → i < f.lo + f.w → evBit f.a i) (h : Only l d e) : Only l d (e.set f x) := by
  refine h.setBits _ (fun b i _ _ _ hi => ?_)
  have := Dev.set_bit e f x i (by
    by_cases h1 : i < f.lo
    · exact .inl h1
    · by_cases h2 : i < f.lo + f.w
      · exact absurd (ha i (by omega) h2) hi
      · exact .inr (by omega))
  rwa [Dev.set, Dev.reg_setReg_same] at this

theorem set64Ev {a : Nat} (v : Nat) (ha : ∀ i, evBit a i) (ha4 : ∀ i, evBit (a + 4) i) (h : Only l d e) : Only l d (e.set64 a v) :=
  (h.setEv _ ha).setEv _ ha4

theorem bumpEv {a : Nat} (ha : ∀ i, evBit a i) (h : Only l d e) : Only l d (e.bump a) := by
  rw [Dev.bump, Dev.bumpBy]
  exact ite h (h.setEv _ ha)

/-! ### What a frame says -/

/-- A field outside the frame's parts that no event changes. -/
theorem get_eq {b : Blk} {f : Fld} (h : Only l d e) (hl : Part.regs b ∉ l) (hr : Part.reg f.a ∉ l) (hb : b.holds f.a)
    (hi : ∀ i, f.lo ≤ i → i < f.lo + f.w → ¬ evBit f.a i) : e.get f = d.get f := by
  apply Nat.eq_of_testBit_eq
  intro i
  simp only [Dev.get, bitsOf_testBit]
  by_cases hw : i < f.w
  · have := h _ hl f.a (f.lo + i) hb hr (hi _ (by omega) (by omega))
    simp only [BitVec.getLsbD] at this
    simp [hw, this]
  · simp [hw]

theorem on_eq {b : Blk} {f : Fld} (h : Only l d e) (hl : Part.regs b ∉ l) (hr : Part.reg f.a ∉ l) (hb : b.holds f.a)
    (hi : ∀ i, f.lo ≤ i → i < f.lo + f.w → ¬ evBit f.a i) : e.on f = d.on f := by
  rw [Dev.on, Dev.on, get_eq h hl hr hb hi]

/-- A register outside the frame's parts that no event changes. -/
theorem reg_eq {b : Blk} {a : Nat} (h : Only l d e) (hl : Part.regs b ∉ l) (hr : Part.reg a ∉ l) (hb : b.holds a) (hi : ∀ i, ¬ evBit a i) :
    e.reg a = d.reg a := by
  apply BitVec.eq_of_getLsbD_eq
  intro i _
  exact h _ hl a i hb hr (hi i)

/-! What the events at the end of a command leave: every register, and field, that no event changes. -/

theorem evReg {b : Blk} {a : Nat} (h : Only events d e) (hb : b.holds a) (hi : ∀ i, ¬ evBit a i) : e.reg a = d.reg a :=
  h.reg_eq (b := b) (by simp [events]) (by simp [events]) hb hi

theorem evGet {b : Blk} {f : Fld} (h : Only events d e) (hb : b.holds f.a) (hi : ∀ i, f.lo ≤ i → i < f.lo + f.w → ¬ evBit f.a i) :
    e.get f = d.get f := h.get_eq (b := b) (by simp [events]) (by simp [events]) hb hi

/-- A register of a block that events do not touch. -/
theorem evRegOf {b : Blk} {a : Nat} (h : Only events d e) (hb : b.holds a)
    (hk : b.quiet = true) : e.reg a = d.reg a := h.evReg hb (fun i => not_evBit i hb hk)

/-- A field of a block that events do not touch. -/
theorem evGetOf {b : Blk} {f : Fld} (h : Only events d e) (hb : b.holds f.a)
    (hk : b.quiet = true) : e.get f = d.get f := h.evGet hb (fun i _ _ => not_evBit i hb hk)

theorem evOnOf {b : Blk} {f : Fld} (h : Only events d e) (hb : b.holds f.a)
    (hk : b.quiet = true) : e.on f = d.on f := by rw [Dev.on, Dev.on, h.evGetOf hb hk]

theorem evGet64Of {b : Blk} {a : Nat} (h : Only events d e) (hb : b.holds a) (hb4 : b.holds (a + 4))
    (hk : b.quiet = true) : e.get64 a = d.get64 a := by
  rw [Dev.get64, Dev.get64, h.evRegOf hb hk, h.evRegOf hb4 hk]

end Only
end Sys2Proof.Machine
end

