-- ==== Sys2Proof/Laws/Events.lean ====
section
/-! SUPPORT. Sys2Proof/Laws/Events.lean: what an occurrence of an event changes, and what the end of a command changes. -/
namespace Sys2Proof.Machine

/-- The parts that events change are among `l`. -/
def EvIn (l : List Part) : Prop := ∀ p, p ∈ events → p ∈ l

theorem EvIn.append (l : List Part) : EvIn (l ++ events) := fun _ h => List.mem_append_right _ h

theorem EvIn.self : EvIn events := fun _ h => h

/-! ### The registers that events change -/

theorem ev_pend {n i : Nat} (h : n < 8) : evBit (Adr.EVC_PEND n) i := by
  refine .inr (.inr (.inl ⟨?_, ?_⟩)) <;> simp only [Adr.EVC_PEND, Adr.EVC_LEVEL] <;> omega
theorem ev_level {n i : Nat} (h : n < 8) : evBit (Adr.EVC_LEVEL n) i := by
  refine .inr (.inr (.inl ⟨?_, ?_⟩)) <;> simp only [Adr.EVC_PEND, Adr.EVC_LEVEL] <;> omega
theorem ev_wrap {n i : Nat} (h : n < 12) : evBit (Adr.PMC_WRAP n) i := by
  refine .inr (.inr (.inr (.inr (.inl ⟨?_, ?_⟩)))) <;> simp only [Adr.PMC_WRAP] <;> omega
theorem ev_cnt {n i : Nat} (h : n < 384) : evBit (Adr.PMC_CNT_LO n) i := by
  refine .inr (.inr (.inr (.inr (.inr (.inl ⟨?_, ?_⟩))))) <;> simp only [Adr.PMC_CNT_LO] <;> omega
theorem ev_cnt4 {n i : Nat} (h : n < 384) : evBit (Adr.PMC_CNT_LO n + 4) i := by
  refine .inr (.inr (.inr (.inr (.inr (.inl ⟨?_, ?_⟩))))) <;> simp only [Adr.PMC_CNT_LO] <;> omega
theorem ev_pba {n i : Nat} (h : n < 64) : evBit (Adr.HIF_MSIX_PBA n) i := by
  refine .inr (.inr (.inr (.inr (.inr (.inr (.inl ⟨?_, ?_⟩)))))) <;> simp only [Adr.HIF_MSIX_PBA] <;> omega
theorem ev_dev {i : Nat} : evBit (Adr.HIF_RING_DEV_IDX 20) i := by simp [evBit]
theorem ev_addr {i : Nat} : evBit Adr.HIF_EVFAULT_ADDR_LO i := by simp [evBit]
theorem ev_addr4 {i : Nat} : evBit (Adr.HIF_EVFAULT_ADDR_LO + 4) i := by simp [evBit]
theorem ev_info {i : Nat} : evBit Adr.HIF_EVFAULT_INFO i := by
  simp [evBit, Adr.HIF_EVFAULT_ADDR_LO, Adr.HIF_EVFAULT_INFO]
theorem ev_faults {i : Nat} : evBit Adr.XLT_FAULT_CNT i := by simp [evBit]
theorem ev_ovf {i : Nat} : evBit Adr.EVC_OVF_CNT i := by simp [evBit]
theorem ev_fseq {c i : Nat} (h : c < 16) (hi : i < 16) : evBit (Adr.XLT_CTX_FSEQ c) i := by
  simp only [evBit]
  have : (∃ k, k < 16 ∧ Adr.XLT_CTX_FSEQ c = Adr.XLT_CTX_FSEQ k) ∧ i < 16 := ⟨⟨c, h, rfl⟩, hi⟩
  simp only [this, or_true, and_self]

namespace Only
variable {l : List Part} {d e : Dev}

theorem porchPut (g : EvIn l) (h : Only l d e) (r : EvRec) : Only l d (e.porchPut r) := by
  intro p hp
  have := h p hp
  have hq : p ≠ .porch := fun c => hp (c ▸ g _ (by decide))
  rw [Dev.porchPut]
  cases p <;> first | exact absurd rfl hq | exact this

theorem porchTrim (g : EvIn l) (h : Only l d e) : Only l d e.porchTrim := by
  intro p hp
  have := h p hp
  have hq : p ≠ .porch := fun c => hp (c ▸ g _ (by decide))
  rw [Dev.porchTrim]
  cases p <;> first | exact absurd rfl hq | exact this

theorem evc (g : EvIn l) (h : Only l d e) (x : EvcState) : Only l d { e with evc := x } := by
  intro p hp
  have := h p hp
  have hq : p ≠ .evc := fun c => hp (c ▸ g _ (by decide))
  cases p <;> first | exact absurd rfl hq | exact this

theorem msix (g : EvIn l) (h : Only l d e) (x : List (Nat × Word)) : Only l d { e with msix := x } := by
  intro p hp
  have := h p hp
  have hq : p ≠ .msix := fun c => hp (c ▸ g _ (by decide))
  cases p <;> first | exact absurd rfl hq | exact this

theorem hostMem (g : EvIn l) (h : Only l d e) (x : List (Nat × Byte)) : Only l d { e with host := x } := by
  intro p hp
  have := h p hp
  have hq : p ≠ .host := fun c => hp (c ▸ g _ (by decide))
  cases p <;> first | exact absurd rfl hq | exact this

theorem freshTo (g : EvIn l) (h : Only l d e) (x : Nat) : Only l d { e with fresh := x } := by
  intro p hp
  have := h p hp
  have hq : p ≠ .fresh := fun c => hp (c ▸ g _ (by decide))
  cases p <;> first | exact absurd rfl hq | exact this

theorem xltTo (g : EvIn l) (h : Only l d e) (x : XltState) : Only l d { e with xlt := x } := by
  intro p hp
  have := h p hp
  have hq : p ≠ .xlt := fun c => hp (c ▸ g _ (by decide))
  cases p <;> first | exact absurd rfl hq | exact this

theorem evRing (g : EvIn l) (h : Only l d e) (x : Ring) : Only l d (e.setRing 20 x) := by
  intro p hp
  have := h p hp
  have hq : p ≠ .evRing := fun c => hp (c ▸ g _ (by decide))
  cases p with
  | evRing => exact absurd rfl hq
  | ring =>
    intro r hr hn
    rw [← this r hr hn]
    exact vat_vput_other _ _ hr hn
  | _ => exact this

/-- Performance counter `n` counts. -/
theorem pmc (g : EvIn l) (h : Only l d e) {n : Nat} (w : Nat) (hn : n < 384) : Only l d (e.pmc n w) := by
  rw [Dev.pmc]
  by_cases hw : w = 0
  · simpa [hw] using h
  · rw [if_neg hw]
    generalize (e.get64 (Adr.PMC_CNT_LO n) + if bitOf (e.reg (Adr.PMC_MODE (n / 32))).toNat (n % 32) then w else 1) = c
    have h1 := h.set64Ev (a := Adr.PMC_CNT_LO n) (c % 2 ^ 48) (fun _ => ev_cnt hn) (fun _ => ev_cnt4 hn)
    dsimp only
    refine ite (evc g (setEvField _ ?_ (setEv _ (fun _ => ev_wrap ?_) h1)) _) h1
    · intro i h1 h2
      have : i = 0 := by simp only [PMC_STATUS.WRAP] at h1 h2; omega
      subst this
      simp [evBit]
    · omega

/-- An MSI-X message is sent, or its pending bit set. -/
theorem msixSend (g : EvIn l) (h : Only l d e) {v : Nat} (hv : v < 2048) : Only l d (e.msixSend v) := by
  rw [Dev.msixSend]
  split
  · exact setEv _ (fun _ => ev_pba (by omega)) h
  · exact msix g (pmc g h 1 (by decide)) _

/-- A source occurs. -/
theorem occurBy (g : EvIn l) (h : Only l d e) (ring : Bool) (n b x : Nat) : Only l d (e.occurBy ring n b x) := by
  rw [Dev.occurBy]
  split
  · exact h
  · next hc =>
    have hn : n < 256 := by
      simp [isReservedSource] at hc
      omega
    have hv : bitsOf (e.reg (Adr.EVC_SRC_CFG n)).toNat 8 6 < 2048 := Nat.lt_trans (bitsOf_lt _ _ _) (by decide)
    have h1 := setEv (a := Adr.EVC_PEND (n / 32))
      (e.reg (Adr.EVC_PEND (n / 32)) ||| BitVec.ofNat 32 (2 ^ (n % 32))) (fun _ => ev_pend (by omega)) h
    dsimp only
    repeat' first
      | with_reducible refine ite ?_ ?_
      | with_reducible refine porchPut g ?_ _
      | with_reducible refine msixSend g ?_ hv
      | with_reducible exact h1
      | with_reducible refine evc g ?_ _

theorem occur (g : EvIn l) (h : Only l d e) (n b x : Nat) : Only l d (e.occur n b x) := h.occurBy g _ _ _ _

/-- A source pulses. -/
theorem raise (g : EvIn l) (h : Only l d e) (n x : Nat) : Only l d (e.raise n x) := h.occurBy g _ _ _ _

/-- A level source takes its state. -/
theorem level (g : EvIn l) (h : Only l d e) {n : Nat} (b : Bool) (x : Nat) (hn : n < 256) : Only l d (e.level n b x) := by
  rw [Dev.level]
  split
  · exact h
  · exact occurBy g (setEv _ (fun _ => ev_level (by omega)) h) _ _ _ _

/-! ### Translations and records in the event ring -/

theorem takeFree (g : EvIn l) (h : Only l d e) : Only l d e.takeFree.2 := freshTo g h _

theorem setHost (g : EvIn l) (x : List Byte) : ∀ (e : Dev) (a : Nat), Only l d e → Only l d (e.setHost a x) := by
  induction x with
  | nil => intro e a h; exact h
  | cons b t ih => intro e a h; exact ih _ _ (hostMem g h _)

/-- A translation counts, and may add to the cache. -/
theorem translate (g : EvIn l) (h : Only l d e) (c a : Nat) (w : Bool) : Only l d (e.translate c a w).1 := by
  have h1 := pmc g h (n := 16 * 19 + 6) 1 (by omega)
  have h2 := pmc g h1 (n := 16 * 19 + 7) 1 (by omega)
  rw [Dev.translate]
  generalize e.pmc (16 * 19 + 6) 1 = e1 at h1 h2 ⊢
  generalize e1.pmc (16 * 19 + 7) 1 = e2 at h2 ⊢
  split
  · exact h1
  split
  · exact h1
  split
  · exact h1
  cases e1.xlt.cache.find? (fun e => e.ctx == c && e.page == a / 4096) with
  | some x => exact h1
  | none =>
    dsimp only
    cases e2.xltWalk c a with
    | error k => exact h2
    | ok x => exact xltTo g h2 _

/-- A failed translation of the event ring suspends it. -/
theorem evFault (g : EvIn l) (h : Only l d e) {c : Nat} (hc : c < 16) (k : AccKind) (a : Nat) (w : Bool) (n : Nat) :
    Only l d (e.xltFault 20 k c a w n) := by
  have hs : ∀ i, (HIF_RING_STATUS.STATE 20).lo ≤ i → i < (HIF_RING_STATUS.STATE 20).lo + (HIF_RING_STATUS.STATE 20).w →
      evBit (HIF_RING_STATUS.STATE 20).a i := by
    intro i _ h2
    have : i < 3 := h2
    simp only [evBit, this, and_self, true_or, or_true]
  have hf : ∀ i, (XLT_CTX_FSEQ.FSEQ c).lo ≤ i → i < (XLT_CTX_FSEQ.FSEQ c).lo + (XLT_CTX_FSEQ.FSEQ c).w →
      evBit (XLT_CTX_FSEQ.FSEQ c).a i := fun i _ h2 => ev_fseq hc (by simpa using h2)
  have he : ∀ i, HIF_STATUS.EVRING_FAULT.lo ≤ i → i < HIF_STATUS.EVRING_FAULT.lo + HIF_STATUS.EVRING_FAULT.w →
      evBit HIF_STATUS.EVRING_FAULT.a i := by
    intro i h1 h2
    have : i = HIF_STATUS.EVRING_FAULT.lo := by simp only [HIF_STATUS.EVRING_FAULT] at h1 h2 ⊢; omega
    subst this
    simp [evBit]
  have hp : 16 * 19 + 8 < 384 := by omega
  rw [Dev.xltFault, if_pos rfl]
  simp only [Dev.occurOff]
  repeat' first
    | with_reducible exact h
    | with_reducible refine raise g ?_ _ _
    | with_reducible refine occurBy g ?_ _ _ _ _
    | with_reducible refine evRing g ?_ _
    | with_reducible refine pmc g ?_ _ hp
    | with_reducible refine setEvField _ hs ?_
    | with_reducible refine setEvField _ hf ?_
    | with_reducible refine setEvField _ he ?_
    | with_reducible refine setEv _ (fun _ => ev_info) ?_
    | with_reducible refine set64Ev _ (fun _ => ev_addr) (fun _ => ev_addr4) ?_
    | with_reducible refine bumpEv (fun _ => ev_faults) ?_

theorem evXlt (g : EvIn l) (h : Only l d e) (k : AccKind) (a : Nat) (w : Bool) : Only l d (e.ringXlt 20 k a w).1 := by
  have h1 := translate g h (e.get (HIF_RING_CFG.CTX 20)) a w
  have hc : e.get (HIF_RING_CFG.CTX 20) < 16 := bitsOf_lt _ _ _
  rw [Dev.ringXlt]
  generalize e.translate (e.get (HIF_RING_CFG.CTX 20)) a w = z at h1 ⊢
  obtain ⟨d1, x⟩ := z
  cases x with
  | ok x => exact h1
  | error k => exact evFault g h1 hc _ _ _ _

theorem evIrq (g : EvIn l) (h : Only l d e) : Only l d (e.ringIrq 20) := by
  have hv : e.get (HIF_RING_CFG.VEC 20) < 2048 := Nat.lt_of_lt_of_le (bitsOf_lt _ _ 6) (by decide)
  rw [Dev.ringIrq]
  repeat' first
    | with_reducible refine ite ?_ ?_
    | with_reducible refine evRing g ?_ _
    | with_reducible refine msixSend g ?_ hv
    | with_reducible exact h

/-- A record is written into the event ring. -/
theorem evNow (g : EvIn l) (h : Only l d e) (x : List Byte) : Only l d (e.postNow 20 x none true).1 := by
  have h1 := evXlt g h .record (e.entryAddr 20 (e.devIdx 20)) true
  rw [Dev.postNow]
  have hn : 16 * 19 + 4 < 384 := by omega
  generalize e.ringXlt 20 .record (e.entryAddr 20 (e.devIdx 20)) true = z at h1 ⊢
  obtain ⟨d1, p⟩ := z
  replace h1 : Only l d d1 := h1
  cases p with
  | none => exact h1
  | some p =>
    dsimp only
    rw [if_pos rfl]
    refine evIrq g (pmc g (evRing g ?_ _) _ hn)
    exact setEv _ (fun _ => ev_dev) (setHost g _ _ _ h1)

theorem evPost (g : EvIn l) (h : Only l d e) (r : EvRec) : Only l d (e.evPost r) := by
  have h1 := evNow g (evRing g h { e.ringAt 20 with seq := (e.ringAt 20).seq + 1 }) (Dev.evBytes ((e.ringAt 20).seq + 1) r)
  rw [Dev.evPost]
  dsimp only
  dsimp only at h1
  generalize Dev.postNow _ 20 (Dev.evBytes ((e.ringAt 20).seq + 1) r) none true = z at h1 ⊢
  obtain ⟨d1, b⟩ := z
  cases b with
  | true => exact h1
  | false => exact evRing g h1 _

theorem setWaits (g : EvIn l) (h : Only l d e) (x : List EvRec) : Only l d (e.setWaits x) := by
  refine setEvField _ ?_ (evc g h _)
  intro i h1 h2
  have : i = 0 := by simp only [EVC_STATUS.WAITING] at h1 h2; omega
  subst this
  simp [evBit]

theorem evWait (g : EvIn l) (h : Only l d e) (r : EvRec) : Only l d (e.evWait r) := by
  rw [Dev.evWait]
  dsimp only
  split
  · exact bumpEv (fun _ => ev_ovf) (evc g (setWaits g h _) _)
  · split
    · exact setWaits g h _
    · exact raise g (evc g (setWaits g h _) _) _ _

theorem evHand (g : EvIn l) (h : Only l d e) (r : EvRec) : Only l d (e.evHand r) := by
  rw [Dev.evHand]
  repeat' first
    | with_reducible refine ite ?_ ?_
    | with_reducible exact h
    | with_reducible exact evPost g h r
    | with_reducible exact evWait g h r

theorem settleBy (g : EvIn l) : ∀ (n : Nat) (e : Dev), Only l d e → Only l d (e.settleBy n) := by
  intro n
  induction n with
  | zero => intro e h; exact h
  | succ n ih =>
    intro e h
    rw [Dev.settleBy]
    split
    · exact ih _ (evHand g (evc g h _) _)
    · split
      · exact h
      · exact ih _ (raise g (evc g h _) _ _)

/-- The end of a command changes only the parts of events. -/
theorem settle (g : EvIn l) (h : Only l d e) : Only l d e.settle := porchTrim g (settleBy g _ _ h)

/-- The end of a command, by itself. -/
theorem ofSettle (d : Dev) : Only events d d.settle := settle EvIn.self (refl _ d)

end Only
end Sys2Proof.Machine
end

