-- ==== Sys2Proof/Laws/Complete.lean ====
section
/-! SUPPORT. Sys2Proof/Laws/Complete.lean: how a command completes, and the laws of register accesses. -/
namespace Sys2Proof.Machine

/-- A command whose operation changes only the parts of `l` and those of events completes; what holds of every device that differs from
the operation's result by events alone holds after it. -/
theorem makes {c : Instr} {s : State} {l : List Part} {P : Dev → Prop} (f : Dev → Dev) (hc : exec c s = fire s f)
    (ho : Only (l ++ events) s.dev (f s.dev)) (hp : ∀ e, Only events (f s.dev) e → P e) : Makes c s l P :=
  ⟨after s f, hc, rfl, Only.settle (EvIn.append l) ho, hp _ (Only.ofSettle _)⟩

/-! ### Fields of a register -/

/-- The fields lie inside 32 bits and share none. -/
def fieldsOk : List FSpec → Bool
  | [] => true
  | f :: t => decide (f.lo + f.w ≤ 32) && t.all (fun g => decide (f.lo + f.w ≤ g.lo ∨ g.lo + g.w ≤ f.lo)) && fieldsOk t

set_option maxRecDepth 20000 in
theorem regs_fieldsOk (b : Blk) : (b.regs.all (fun r => fieldsOk r.fields)) = true := by
  cases b <;> decide

theorem specIn_mem {o i : Nat} {r : RegSpec} : ∀ l, specIn l o = some (r, i) → r ∈ l := by
  intro l
  induction l with
  | nil => intro h; exact absurd h (by simp [specIn])
  | cons x t ih =>
    intro h
    rw [specIn] at h
    split at h
    · simp at h
      exact h.1 ▸ List.mem_cons_self ..
    · split at h
      · simp at h
        exact h.1 ▸ List.mem_cons_self ..
      · exact List.mem_cons_of_mem _ (ih h)

theorem regAt_place {a : Nat} {f : Found} (h : regAt a = some f) : placeOf a = some f.pl := by
  rw [regAt] at h
  cases hp : placeOf a with
  | none => simp [hp] at h
  | some p =>
    simp only [hp] at h
    split at h
    · cases hs : specIn p.blk.regs p.off with
      | none => simp [hs] at h
      | some x =>
        obtain ⟨r, i⟩ := x
        simp [hs] at h
        simp [← h]
    · simp at h

theorem regAt_spec {a : Nat} {f : Found} (h : regAt a = some f) : f.spec ∈ f.pl.blk.regs := by
  rw [regAt] at h
  cases hp : placeOf a with
  | none => simp [hp] at h
  | some p =>
    simp only [hp] at h
    split at h
    · cases hs : specIn p.blk.regs p.off with
      | none => simp [hs] at h
      | some x =>
        obtain ⟨r, i⟩ := x
        simp [hs] at h
        have := specIn_mem _ hs
        simpa [← h] using this
    · simp at h

theorem regAt_fieldsOk {a : Nat} {f : Found} (h : regAt a = some f) : fieldsOk f.spec.fields = true :=
  List.all_eq_true.mp (regs_fieldsOk f.pl.blk) _ (regAt_spec h)

/-- What the access code makes of a field fits the field. -/
theorem Acc.written_lt (x : Acc) {w o y : Nat} (ho : o < 2 ^ w) (hy : y < 2 ^ w) : x.written w o y < 2 ^ w := by
  cases x <;> simp only [Acc.written] <;> first | exact ho | exact hy | skip
  · exact Nat.lt_of_le_of_lt (Nat.and_le_left) ho
  · exact Nat.or_lt_two_pow ho hy

/-- One field that takes the write. -/
theorem evalField_takes {d : Dev} {f : Found} {g : FSpec} (x : Nat) (e : FieldEval) (ht : Takes d f g = true) :
    (evalField (d.fieldStopped f) d.armed f.i f.pl.u x e g).locked = e.locked
    ∧ (evalField (d.fieldStopped f) d.armed f.i f.pl.u x e g).banks = e.banks
    ∧ bitsOf (evalField (d.fieldStopped f) d.armed f.i f.pl.u x e g).v g.lo g.w
        = g.acc.written g.w (bitsOf e.v g.lo g.w) (bitsOf x g.lo g.w)
    ∧ ∀ lo w, (g.lo + g.w ≤ lo ∨ lo + w ≤ g.lo) →
        bitsOf (evalField (d.fieldStopped f) d.armed f.i f.pl.u x e g).v lo w = bitsOf e.v lo w := by
  have hlt := g.acc.written_lt (bitsOf_lt e.v g.lo g.w) (bitsOf_lt x g.lo g.w)
  rw [evalField]
  generalize g.acc.written g.w (bitsOf e.v g.lo g.w) (bitsOf x g.lo g.w) = n at hlt ⊢
  dsimp only
  by_cases h : n = bitsOf e.v g.lo g.w
  · rw [if_pos h]
    exact ⟨rfl, rfl, h.symm, fun _ _ _ => rfl⟩
  · rw [if_neg h]
    have key : bitsOf (withBits e.v g.lo g.w n) g.lo g.w = n
        ∧ ∀ lo w, (g.lo + g.w ≤ lo ∨ lo + w ≤ g.lo) → bitsOf (withBits e.v g.lo g.w n) lo w = bitsOf e.v lo w := by
      refine ⟨by rw [bitsOf_withBits_same, Nat.mod_eq_of_lt hlt], ?_⟩
      rintro lo w (hl | hl)
      · exact bitsOf_withBits_above _ _ _ _ _ _ hl
      · exact bitsOf_withBits_below _ _ _ _ _ _ hl
    cases he : g.eff with
    | now => exact ⟨rfl, rfl, key⟩
    | stopped =>
      have : d.fieldStopped f g = true := by simpa [Takes, he] using ht
      simp only [this, if_true]
      exact ⟨trivial, trivial, key⟩
    | landing b i u =>
      dsimp only
      cases hb : g.bank f.i f.pl.u with
      | none => exact ⟨rfl, rfl, key⟩
      | some k =>
        have : d.armed k = false := by simpa [Takes, he, hb] using ht
        simp only [this]
        exact ⟨rfl, rfl, key⟩

/-- The fields of a register that all take the write. -/
theorem evalFields_takes {d : Dev} {f : Found} (x : Nat) : ∀ (l : List FSpec) (e : FieldEval), fieldsOk l = true →
    (∀ g ∈ l, Takes d f g = true) →
    (l.foldl (evalField (d.fieldStopped f) d.armed f.i f.pl.u x) e).locked = e.locked
    ∧ (l.foldl (evalField (d.fieldStopped f) d.armed f.i f.pl.u x) e).banks = e.banks
    ∧ (∀ g ∈ l, bitsOf (l.foldl (evalField (d.fieldStopped f) d.armed f.i f.pl.u x) e).v g.lo g.w
        = g.acc.written g.w (bitsOf e.v g.lo g.w) (bitsOf x g.lo g.w))
    ∧ ∀ lo w, (∀ g ∈ l, g.lo + g.w ≤ lo ∨ lo + w ≤ g.lo) →
        bitsOf (l.foldl (evalField (d.fieldStopped f) d.armed f.i f.pl.u x) e).v lo w = bitsOf e.v lo w := by
  intro l
  induction l with
  | nil => intro e _ _; exact ⟨rfl, rfl, by simp, fun _ _ _ => rfl⟩
  | cons g t ih =>
    intro e hok ht
    simp only [fieldsOk, Bool.and_eq_true, decide_eq_true_eq, List.all_eq_true] at hok
    obtain ⟨⟨_, hd⟩, hok⟩ := hok
    obtain ⟨s1, s2, s3, s4⟩ := evalField_takes x e (ht g (List.mem_cons_self ..))
    obtain ⟨r1, r2, r3, r4⟩ := ih (evalField (d.fieldStopped f) d.armed f.i f.pl.u x e g) hok
      (fun k hk => ht k (List.mem_cons_of_mem _ hk))
    rw [List.foldl_cons]
    refine ⟨r1.trans s1, r2.trans s2, ?_, ?_⟩
    · intro k hk
      rcases List.mem_cons.mp hk with rfl | hk
      · rw [r4 _ _ (fun k' hk' => (hd k' hk').symm)]
        exact s3
      · rw [r3 k hk, s4 _ _ (hd k hk)]
    · intro lo w hl
      rw [r4 lo w (fun k hk => hl k (List.mem_cons_of_mem _ hk)), s4 lo w (hl g (List.mem_cons_self ..))]

/-- The word after a write that every field takes. -/
theorem Dev.evalWord_takes {d : Dev} {f : Found} {a : Nat} (x : Nat) (hf : regAt a = some f)
    (ht : ∀ g ∈ f.spec.fields, Takes d f g = true) :
    (d.evalWord f a x).locked = false ∧ (d.evalWord f a x).banks = []
    ∧ ∀ g ∈ f.spec.fields, bitsOf (d.evalWord f a x).v g.lo g.w
        = g.acc.written g.w (bitsOf (d.reg a).toNat g.lo g.w) (bitsOf x g.lo g.w) := by
  obtain ⟨h1, h2, h3, -⟩ := evalFields_takes (d := d) (f := f) x f.spec.fields ⟨(d.reg a).toNat, false, []⟩ (regAt_fieldsOk hf) ht
  exact ⟨h1, h2, h3⟩

/-- A write that every field takes. -/
theorem Dev.writeWord_takes {d : Dev} {f : Found} {a : Nat} (x : Nat) (hf : regAt a = some f)
    (ht : ∀ g ∈ f.spec.fields, Takes d f g = true) :
    d.writeWord f a x = (d.setReg a (BitVec.ofNat 32 (d.evalWord f a x).v), false) := by
  obtain ⟨h1, h2, -⟩ := Dev.evalWord_takes x hf ht
  rw [Dev.writeWord]
  simp [h1, h2, Dev.notes, Dev.shadowBusy]

theorem fieldsOk_le {l : List FSpec} (h : fieldsOk l = true) : ∀ g ∈ l, g.lo + g.w ≤ 32 := by
  induction l with
  | nil => intro g hg; cases hg
  | cons f t ih =>
    simp only [fieldsOk, Bool.and_eq_true, decide_eq_true_eq] at h
    intro g hg
    rcases List.mem_cons.mp hg with rfl | hg
    · exact h.1.1
    · exact ih h.2 g hg

/-- What the fields hold after it. -/
theorem holds_writeWord {d : Dev} {f : Found} {a : Nat} (v : Word) (hf : regAt a = some f)
    (ht : ∀ g ∈ f.spec.fields, Takes d f g = true) : Holds d (d.writeWord f a v.toNat).1 f a v := by
  rw [Dev.writeWord_takes _ hf ht]
  intro g hg
  rw [Dev.reg_setReg_same, BitVec.toNat_ofNat, bitsOf_mod _ _ _ _ (fieldsOk_le (regAt_fieldsOk hf) g hg)]
  exact (Dev.evalWord_takes v.toNat hf ht).2.2 g hg

/-! ### Register accesses -/

/-- A served write. -/
theorem Dev.regCmd_write {d : Dev} {m : Master} {a : Nat} {f : Found} (v : Word) (h : Served d m) (hf : regAt a = some f)
    (ha : a % 4 = 0) : d.regCmd m a (some v) = { (d.regWrite m a v).1 with resp := .okay 0 } := by
  obtain ⟨h1, h2, h3, h4⟩ := h
  have hc : d.chipOn = true := by
    simp only [Dev.chipRuns, Bool.and_eq_true] at h2
    exact h2.1
  rw [Dev.regCmd]
  simp only [Dev.inFabric, h2, h3, h4, hc, regAt_place hf, ha, Nat.not_le_of_lt h1]
  simp

/-- A served read. -/
theorem Dev.regCmd_read {d : Dev} {m : Master} {a : Nat} {f : Found} (h : Served d m) (hf : regAt a = some f)
    (ha : a % 4 = 0) : d.regCmd m a none = { (d.regRead a).1 with resp := .okay (d.regRead a).2.toNat } := by
  obtain ⟨h1, h2, h3, h4⟩ := h
  have hc : d.chipOn = true := by
    simp only [Dev.chipRuns, Bool.and_eq_true] at h2
    exact h2.1
  rw [Dev.regCmd]
  simp only [Dev.inFabric, h2, h3, h4, hc, regAt_place hf, ha, Nat.not_le_of_lt h1]
  simp

/-- A master with the privilege that a block asks for. -/
theorem Dev.unprivileged_none {d : Dev} {f : Found} {m : Master} (h : f.pl.blk.guarded = true → m.priv = true) :
    d.unprivileged f m = none := by
  rw [Dev.unprivileged]
  cases hb : f.pl.blk <;> simp_all [Blk.guarded]

/-- No rule of its own stands in the way of a write to a register that has none. -/
theorem Dev.toneGuard_plain {d : Dev} {f : Found} {m : Master} {a x : Nat} (h : f.special = false) : d.toneGuard f m a x = false := by
  rw [Dev.toneGuard]
  by_cases hb : f.pl.blk = .mix
  · simp [Found.special, hb] at h
    simp [hb]
    intro _ _
    refine ⟨fun h1 h2 => ?_, fun h1 => ?_⟩
    · omega
    · omega
  · have : (f.pl.blk == Blk.mix) = false := by simpa using hb
    simp [this]

theorem Dev.ownWrite_plain {d : Dev} {f : Found} {m : Master} {a : Nat} {v : Word} (h : f.special = false) : d.ownWrite f a m v = none := by
  rw [Dev.ownWrite]
  cases hb : f.pl.blk <;> simp [Found.special, hb] at h ⊢ <;> (try omega)
  rw [if_neg h.2.2.1, if_neg h.2.2.2]

theorem Dev.afterWrite_plain {d0 d : Dev} {f : Found} {m : Master} {x : Nat} (h : f.special = false) : Dev.afterWrite d0 d f m x = d := by
  rw [Dev.afterWrite]
  cases hb : f.pl.blk <;> simp [Found.special, hb] at h ⊢ <;>
    (try simp only [lndHook, clkHook, evcHook, pmcHook, tskHook, hifHook, eccHook, dmcHook, macHook, tbHook, feHook, sapHook, mixHook, pchHook]) <;>
    (try split) <;> (first | rfl | omega | (intro h1; omega) | (exfalso; omega))

/-- A write of a register that has no rule of its own. -/
theorem Dev.regWrite_plain {d : Dev} {m : Master} {a : Nat} {f : Found} (v : Word) (hf : regAt a = some f) (hw : Writes d m f) :
    d.regWrite m a v = d.plainWrite f m a v := by
  obtain ⟨h1, h2, -⟩ := hw
  rw [Dev.regWrite]
  simp only [hf, Dev.unprivileged_none h2, Dev.toneGuard_plain h1, Dev.ownWrite_plain h1]
  rfl

/-- A read of a register that has no rule of its own (R5, R7). -/
theorem Dev.popBefore_plain {d : Dev} {f : Found} (h : f.special = false) : d.popBefore f = d := by
  rw [Dev.popBefore]
  split <;> first | rfl | simp_all [Found.special]

theorem Dev.shown_plain {d : Dev} {f : Found} (h : f.special = false) : d.shown f = none := by
  rw [Dev.shown]
  split <;> first | rfl | simp_all [Found.special]

theorem Dev.wordRead_plain {d : Dev} {f : Found} (a : Nat) (h : f.special = false) :
    d.wordRead f a = (d.reg a).toNat &&& readMask f.spec.fields := by
  rw [Dev.wordRead, Dev.shown_plain h]
  rfl

theorem Found.not_eng {f : Found} (h : f.special = false) : f.pl.blk ≠ .eng := by
  intro hb
  simp [Found.special, hb] at h

theorem Dev.regRead_plain {d : Dev} {a : Nat} {f : Found} (hf : regAt a = some f) (hu : ¬(0x48000 ≤ a ∧ a < 0x49000))
    (h : f.special = false) :
    d.regRead a = match f.spec.half with
      | .word => (if clearMask f.spec.fields = 0 then d
          else d.setReg a (d.reg a &&& ~~~(BitVec.ofNat 32 (clearMask f.spec.fields))), BitVec.ofNat 32 ((d.reg a).toNat &&& readMask f.spec.fields))
      | .low => ({ d with latch := sset (fun _ => (0 : Word)) d.latch a (BitVec.ofNat 32 (d.highRead a)) },
          BitVec.ofNat 32 ((d.reg a).toNat &&& readMask f.spec.fields))
      | .high => (d, sget (fun _ => (0 : Word)) d.latch (a - 4)) := by
  have hb := f.not_eng h
  have ht : ¬(f.pl.blk = .tb ∧ f.spec.off = 0x118) := by
    rintro ⟨h1, h2⟩
    simp [Found.special, h1, h2] at h
  rw [Dev.regRead, Dev.userPage, if_neg hu]
  simp only [hf, hb, false_and, if_false, Dev.popBefore_plain h, Dev.wordRead_plain a h]
  cases f.spec.half <;> simp [ht]

/-! ### Where a register lies -/

theorem placeIn_row {a : Nat} {p : Place} : ∀ l, placeIn l a = some p →
    ∃ r ∈ l, r.blk = p.blk ∧ r.base ≤ a ∧ a / r.step < r.base / r.step + r.copies ∧ a % r.step < r.span := by
  intro l
  induction l with
  | nil => intro h; simp [placeIn] at h
  | cons x t ih =>
    intro h
    rw [placeIn] at h
    split at h
    · next hc =>
      simp at h
      exact ⟨x, List.mem_cons_self .., by rw [← h], hc⟩
    · obtain ⟨r, h1, h2⟩ := ih h
      exact ⟨r, List.mem_cons_of_mem _ h1, h2⟩

/-- A register lies in its block. -/
theorem placeOf_holds {a : Nat} {p : Place} (h : placeOf a = some p) : p.blk.holds a := by
  obtain ⟨r, hr, hb, h1, h2, h3⟩ := placeIn_row _ h
  rw [← hb]
  clear h hb
  simp only [blkRanges, List.mem_cons, List.not_mem_nil, or_false] at hr
  rcases hr with rfl | rfl | rfl | rfl | rfl | rfl | rfl | rfl | rfl | rfl | rfl | rfl | rfl | rfl | rfl | rfl | rfl | rfl | rfl | rfl | rfl | rfl <;>
    (simp only [Blk.holds, Blk.lo, Blk.hi, reduceCtorEq, false_and, true_and, not_false_eq_true, and_true] at h1 h2 h3 ⊢; omega)

theorem regAt_holds {a : Nat} {f : Found} (h : regAt a = some f) : f.pl.blk.holds a := placeOf_holds (regAt_place h)

/-! ### Frames of register accesses -/

namespace Only
variable {l : List Part} {d e : Dev}

theorem lndTo (hr : Part.lnd ∈ l) (h : Only l d e) (x : LndState) : Only l d (e.setLnd x) := by
  intro p hp
  have := h p hp
  have hq : p ≠ .lnd := fun c => hp (c ▸ hr)
  rw [Dev.setLnd]
  cases p <;> first | exact absurd rfl hq | exact this

theorem respTo (hr : Part.resp ∈ l) (h : Only l d e) (x : Resp) : Only l d { e with resp := x } := by
  intro p hp
  have := h p hp
  have hq : p ≠ .resp := fun c => hp (c ▸ hr)
  cases p <;> first | exact absurd rfl hq | exact this

theorem latchTo (hr : Part.pairs ∈ l) (h : Only l d e) (x : List (Nat × Word)) : Only l d { e with latch := x } := by
  intro p hp
  have := h p hp
  have hq : p ≠ .pairs := fun c => hp (c ▸ hr)
  cases p <;> first | exact absurd rfl hq | exact this

theorem hbufTo (hr : Part.pairs ∈ l) (h : Only l d e) (x : List (Nat × Word)) : Only l d { e with hbuf := x } := by
  intro p hp
  have := h p hp
  have hq : p ≠ .pairs := fun c => hp (c ▸ hr)
  cases p <;> first | exact absurd rfl hq | exact this

end Only
end Sys2Proof.Machine
end

