-- ==== Sys2Proof/Laws/Reads.lean ====
section
/-! SUPPORT. Sys2Proof/Laws/Reads.lean: what events and counts leave of a register and of the parts that they do not touch. -/
namespace Sys2Proof.Machine

namespace Dev
variable {d : Dev} {k : Blk} {a : Nat} {f : Fld}

theorem only_raise (d : Dev) (n x : Nat) : Only events d (d.raise n x) := Only.raise EvIn.self (Only.refl _ _) _ _
theorem only_occur (d : Dev) (n b x : Nat) : Only events d (d.occur n b x) := Only.occur EvIn.self (Only.refl _ _) _ _ _
theorem only_level (d : Dev) {n : Nat} (b : Bool) (x : Nat) (hn : n < 256) : Only events d (d.level n b x) :=
  Only.level EvIn.self (Only.refl _ _) _ _ hn
theorem only_pmc (d : Dev) {n : Nat} (w : Nat) (hn : n < 384) : Only events d (d.pmc n w) := Only.pmc EvIn.self (Only.refl _ _) _ hn

theorem reg_raise (n x : Nat) (hb : k.holds a) (hk : k.quiet = true) : (d.raise n x).reg a = d.reg a := (only_raise d n x).evRegOf hb hk
theorem reg_level {n : Nat} (b : Bool) (x : Nat) (hn : n < 256) (hb : k.holds a) (hk : k.quiet = true) : (d.level n b x).reg a = d.reg a :=
  (only_level d b x hn).evRegOf hb hk
theorem reg_pmc {n : Nat} (w : Nat) (hn : n < 384) (hb : k.holds a) (hk : k.quiet = true) : (d.pmc n w).reg a = d.reg a :=
  (only_pmc d w hn).evRegOf hb hk

theorem get_raise (n x : Nat) (hb : k.holds f.a) (hk : k.quiet = true) : (d.raise n x).get f = d.get f := (only_raise d n x).evGetOf hb hk
theorem get_level {n : Nat} (b : Bool) (x : Nat) (hn : n < 256) (hb : k.holds f.a) (hk : k.quiet = true) : (d.level n b x).get f = d.get f :=
  (only_level d b x hn).evGetOf hb hk
theorem get_pmc {n : Nat} (w : Nat) (hn : n < 384) (hb : k.holds f.a) (hk : k.quiet = true) : (d.pmc n w).get f = d.get f :=
  (only_pmc d w hn).evGetOf hb hk

theorem get64_raise (n x : Nat) (hb : k.holds a) (hb4 : k.holds (a + 4)) (hk : k.quiet = true) : (d.raise n x).get64 a = d.get64 a :=
  (only_raise d n x).evGet64Of hb hb4 hk
theorem get64_level {n : Nat} (b : Bool) (x : Nat) (hn : n < 256) (hb : k.holds a) (hb4 : k.holds (a + 4)) (hk : k.quiet = true) :
    (d.level n b x).get64 a = d.get64 a := (only_level d b x hn).evGet64Of hb hb4 hk
theorem get64_pmc {n : Nat} (w : Nat) (hn : n < 384) (hb : k.holds a) (hb4 : k.holds (a + 4)) (hk : k.quiet = true) :
    (d.pmc n w).get64 a = d.get64 a := (only_pmc d w hn).evGet64Of hb hb4 hk

end Dev
end Sys2Proof.Machine
end

