-- ==== Sys2Proof/Laws/Rows.lean ====
section
/-! SUPPORT. Sys2Proof/Laws/Rows.lean: the writes and reads of the registers that the rows of the command table name. -/
namespace Sys2Proof.Machine

/-- The register at an address: its block and copy, its offset, its index, its half. -/
def regIs (a : Nat) (b : Blk) (u off i : Nat) (h : Half) : Bool :=
  match regAt a with
  | some f => f.pl.blk == b && f.pl.u == u && f.spec.off == off && f.i == i && f.spec.half == h
  | none => false

theorem regIs_spec {a : Nat} {b : Blk} {u off i : Nat} {h : Half} (hr : regIs a b u off i h = true) :
    ∃ f, regAt a = some f ∧ f.pl.blk = b ∧ f.pl.u = u ∧ f.spec.off = off ∧ f.i = i ∧ f.spec.half = h := by
  rw [regIs] at hr
  cases hf : regAt a with
  | none => simp [hf] at hr
  | some f =>
    simp [hf] at hr
    exact ⟨f, rfl, hr.1.1.1.1, hr.1.1.1.2, hr.1.1.2, hr.1.2, hr.2⟩

/-- The word that a write leaves in a register all of whose fields take it. -/
def newWord (d : Dev) (a : Nat) (v : Word) : Word :=
  match regAt a with
  | some f => BitVec.ofNat 32 (d.evalWord f a v.toNat).v
  | none => d.reg a

/-- A device whose register holds the written word. -/
theorem wrote_newWord {d e : Dev} {a : Nat} (v : Word) (ho : Open d a) (he : e.reg a = newWord d a v) : Wrote d e a v := by
  intro f hf
  have := holds_writeWord v hf (ho f hf)
  rw [Dev.writeWord_takes _ hf (ho f hf)] at this
  intro g hg
  have := this g hg
  rw [Dev.reg_setReg_same] at this
  rw [he, newWord, hf]
  exact this

/-- A served write of a row's register: the fields take it, then the register's effect follows. -/
theorem row_write {d : Dev} {m : Master} {a : Nat} {b : Blk} {u off i : Nat} (v : Word) (hs : Served d m) (ha : a % 4 = 0)
    (hr : regIs a b u off i .word = true) (hp : b.guarded = true → m.priv = true) (ho : Open d a)
    (hn : ∀ f : Found, f.pl.blk = b → f.pl.u = u → f.spec.off = off → f.i = i → d.toneGuard f m a v.toNat = false ∧ d.ownWrite f a m v = none) :
    ∃ f : Found, f.pl.blk = b ∧ f.pl.u = u ∧ f.spec.off = off ∧ f.i = i ∧
      d.regCmd m a (some v) = { Dev.afterWrite d (d.setReg a (newWord d a v)) f m v.toNat with resp := .okay 0 } := by
  obtain ⟨f, hf, h1, h2, h3, h4, h5⟩ := regIs_spec hr
  refine ⟨f, h1, h2, h3, h4, ?_⟩
  obtain ⟨n1, n2⟩ := hn f h1 h2 h3 h4
  rw [Dev.regCmd_write v hs hf ha, Dev.regWrite]
  simp only [hf, Dev.unprivileged_none (h1 ▸ hp), n1, n2]
  rw [Dev.plainWrite]
  simp only [h5, Dev.writeWord_takes v.toNat hf (ho f hf)]
  simp [newWord, hf]

end Sys2Proof.Machine
end

