-- ==== Sys2Proof/WellFormed.lean ====
section
/-! DEFINITION. Sys2Proof/WellFormed.lean: which commands have the form of their row: masters, lengths, registers and bits that the row names. The types of the operands bound the indices. -/
namespace Sys2Proof

/-- The masters of R488. -/
def Master.ok (m : Master) : Bool := decide (m.num < 28)

/-- Host addresses have 64 bits. -/
def HostUpd.ok (u : HostUpd) : Bool := u.cells.all (fun c => decide (c.1 < 2 ^ 64))

/-- A write of RST_CTRL that sets WARM. -/
def WarmWhy.ok : WarmWhy → Bool
  | .rstCtrl m v => m.ok && v.getLsbD 0
  | .chipPg => true
  | .fatal => true

/-- A register that is no half of a pair. -/
def isWord (a : Nat) : Bool := (Machine.regAt a).any (fun f => f.spec.half == .word)
/-- The low half of a pair (R5). -/
def isLow (a : Nat) : Bool := (Machine.regAt a).any (fun f => f.spec.half == .low)
/-- The high half of a pair (R5). -/
def isHigh (a : Nat) : Bool := (Machine.regAt a).any (fun f => f.spec.half == .high)
/-- A register with a field that a read clears (R7, R601). -/
def isCleared (a : Nat) : Bool := (Machine.regAt a).any (fun f => f.spec.fields.any (fun x => x.acc == .rc))

/-- A host access to a window: a write of at least one byte and a read of none, or a read of at least one byte. -/
def barOk (o : Nat) (l : Option (List Byte)) (n : Nat) : Bool :=
  decide (o < 2 ^ 32) && (match l with
    | some x => decide (0 < x.length) && n == 0
    | none => decide (0 < n))

/-- The form that a command's row asks for. -/
def Instr.wf : Instr → Bool
  | .registerWrite m a _ => m.ok && isWord a
  | .readLoLatch m a => m.ok && isLow a
  | .writeHiBuffer m a _ => m.ok && isHigh a
  | .writeLoCommit m a _ => m.ok && isLow a
  | .rcCounterRead m a => m.ok && isCleared a
  | .lndRun m v => m.ok && v.getLsbD 0
  | .freezePoint _ => true
  | .landing _ => true
  | .lndArm m _ => m.ok
  | .lndDisarm m _ => m.ok
  | .preemptSwitch _ _ => true
  | .nop _ _ => true
  | .vadd _ _ => true
  | .vadds _ _ => true
  | .vsub _ _ => true
  | .vsubs _ _ => true
  | .vmulq _ _ => true
  | .vand _ _ => true
  | .vor _ _ => true
  | .vxor _ _ => true
  | .vandn _ _ => true
  | .vshl _ _ => true
  | .vshr _ _ => true
  | .vsra _ _ => true
  | .vshls _ _ => true
  | .vmin _ _ => true
  | .vmax _ _ => true
  | .vabs _ _ => true
  | .vneg _ _ => true
  | .vsat _ _ => true
  | .vcvt _ _ => true
  | .vsel _ _ => true
  | .vcmp _ _ => true
  | .vmov _ _ => true
  | .vbcast _ _ => true
  | .vswz _ _ => true
  | .vmac _ _ => true
  | .vmac2 _ _ => true
  | .vcmac _ _ => true
  | .vcmul _ _ => true
  | .bfly4 _ _ => true
  | .vacs _ _ => true
  | .aclr _ _ => true
  | .amov _ _ => true
  | .aadd _ _ => true
  | .aaddv _ _ => true
  | .narw _ _ => true
  | .add _ _ => true
  | .sub _ _ => true
  | .and _ _ => true
  | .or _ _ => true
  | .xor _ _ => true
  | .sll _ _ => true
  | .srl _ _ => true
  | .sra _ _ => true
  | .mul _ _ => true
  | .mulh _ _ => true
  | .slt _ _ => true
  | .sltu _ _ => true
  | .seq _ _ => true
  | .addi _ _ => true
  | .li _ _ => true
  | .shi _ _ => true
  | .cset _ _ => true
  | .cget _ _ => true
  | .cadd _ _ => true
  | .kset _ _ => true
  | .kget _ _ => true
  | .vext _ _ => true
  | .vins _ _ => true
  | .vcls _ _ => true
  | .dget _ _ => true
  | .dclr _ _ => true
  | .ld _ _ => true
  | .st _ _ => true
  | .vld _ _ => true
  | .vst _ _ => true
  | .pstepLoad _ _ => true
  | .pstepLoadDone _ _ => true
  | .pstepWait _ _ => true
  | .gather _ _ => true
  | .hsend _ _ => true
  | .hallInputPass _ => true
  | .tapmove _ _ => true
  | .smac _ _ => true
  | .nars _ _ => true
  | .sdma _ _ => true
  | .streamEntryDone _ _ => true
  | .swait _ _ => true
  | .fenceRoom _ _ => true
  | .fenceStream _ _ => true
  | .barrier _ _ => true
  | .br _ _ => true
  | .bcond _ _ => true
  | .jal _ _ => true
  | .jr _ _ => true
  | .rep _ _ => true
  | .waitwork _ _ => true
  | .tdone _ _ => true
  | .tdoneCommit _ _ => true
  | .getp _ _ => true
  | .mflg _ _ => true
  | .fclr _ _ => true
  | .icinv _ _ => true
  | .cycleLimit _ _ _ => true
  | .icacheParity _ line => decide (line < 131072)
  | .engEnable m _ v => m.ok && v.getLsbD 0
  | .engHalt m _ v => m.ok && v.getLsbD 1
  | .engineHalted _ => true
  | .engResume m _ v => m.ok && v.getLsbD 2
  | .engIcinv m _ v => m.ok && v.getLsbD 3
  | .selftestEnd _ _ _ _ => true
  | .engInject m _ _ => m.ok
  | .engDbgDataAccess m _ _ => m.ok
  | .ochRaiseLateJob m _ => m.ok
  | .ochRaiseLateSwitch m _ => m.ok
  | .ochRaiseFirSat m _ => m.ok
  | .ochRaiseBiquadSat m _ => m.ok
  | .ochRaiseLimit m _ => m.ok
  | .filterPrepare _ => true
  | .taskValidSet m _ l => m.ok && l.length == 64
  | .taskValidClear m _ => m.ok
  | .taskFaultReport _ _ => true
  | .engineFaultReport _ => true
  | .addSpare m v => m.ok && v.getLsbD 13
  | .unshed m v => m.ok && v.getLsbD 21
  | .doorbellWrite u _ _ => u.ok
  | .descriptorFetch u _ => u.ok
  | .commandAccept _ => true
  | .hifNop _ => true
  | .shadowWrite _ => true
  | .disarm _ => true
  | .copyIn u _ _ => u.ok
  | .copyOut u _ _ => u.ok
  | .fence _ => true
  | .hifBarrier _ => true
  | .xltInval _ => true
  | .waitPeriod _ => true
  | .fwCommandPresent _ => true
  | .fwDone m _ => m.ok
  | .completionPost u _ => u.ok
  | .readHost u _ _ => u.ok
  | .writeHost u _ _ => u.ok
  | .bulkAbort m _ v => m.ok && v.getLsbD 2
  | .ringEnable m _ v => m.ok && v.getLsbD 0 && !v.getLsbD 1
  | .ringResume m _ v => m.ok && v.getLsbD 0 && v.getLsbD 1
  | .ringStop m _ v => m.ok && !v.getLsbD 0
  | .ringDrainEnd _ => true
  | .xltResume u _ _ => u.ok
  | .xltResumeAbort u _ _ => u.ok
  | .xltInv m v => m.ok && v.getLsbD 5 && !v.getLsbD 4
  | .xltInvAll m v => m.ok && v.getLsbD 5 && v.getLsbD 4
  | .xltCtxValid m _ v => m.ok && v.getLsbD 0
  | .bar0Access o l n => barOk o l n
  | .bar4Access o l n => barOk o l n
  | .pcieLinkUp width speed => decide (width < 32) && decide (speed < 8)
  | .captureBlockWrite u _ => u.ok
  | .frameTxDescriptor u _ => u.ok
  | .frameRxDeliver u _ => u.ok
  | .portStart m _ v => m.ok && v.getLsbD 0
  | .portStop m _ v => m.ok && !v.getLsbD 0
  | .portStopped _ => true
  | .cntClr m _ v => m.ok && v.getLsbD 1
  | .linkUp _ => true
  | .linkDown _ _ => true
  | .anComplete _ _ _ _ _ => true
  | .macFrameReceive _ l _ _ _ _ => decide (4 ≤ l.length)
  | .filterValidSet m _ _ _ => m.ok
  | .txFrameStart _ => true
  | .txFrameDone _ => true
  | .launchTimeReached _ _ => true
  | .tbIncrCommit m _ _ => m.ok
  | .tbOffsetAdd m _ _ => m.ok
  | .tbLoad m _ v => m.ok && v.getLsbD 1
  | .tbTimeRead m _ => m.ok
  | .tsqPop m _ => m.ok
  | .ptpTxSubmit m _ _ => m.ok
  | .timeOutEdge _ => true
  | .timeInCapture _ _ => true
  | .tinPop m _ => m.ok
  | .legTimeout _ _ => true
  | .mediaPacketSend _ => true
  | .sapStart m _ v => m.ok && v.getLsbD 0
  | .sapSilentStartEnd _ => true
  | .sapStop m _ v => m.ok && !v.getLsbD 0
  | .sapStopped _ => true
  | .sapPortFrame _ rx => rx.length == 64
  | .mixOutrdy m _ => m.ok
  | .fabricRequest m _ a _ _ _ _ _ _ => m.ok && decide (a < 2 ^ 40)
  | .fabricResponse _ _ _ => true
  | .fillGo m v => m.ok && v.getLsbD 0
  | .eccLogPop m => m.ok
  | .eccInjectArm m v => m.ok && v.getLsbD 31
  | .pantrySelftestEnd _ _ => true
  | .dmcInit m _ v => m.ok && v.getLsbD 0 && !v.getLsbD 1
  | .dmcInitKeep m _ v => m.ok && v.getLsbD 0 && v.getLsbD 1
  | .dmcPowerupDone _ => true
  | .dmcFill m _ v => m.ok && v.getLsbD 2
  | .dmcEnable m _ v => m.ok && v.getLsbD 3
  | .dmcFence m _ v => m.ok && v.getLsbD 4
  | .dmcUnfence m _ v => m.ok && !v.getLsbD 4
  | .dmcSrefEnter m _ v => m.ok && v.getLsbD 5
  | .dmcSrefExit m _ v => m.ok && !v.getLsbD 5
  | .dramRequest _ => true
  | .resetBusyClear _ => true
  | .coldReset _ => true
  | .warmReset why => why.ok
  | .engBlockReset m v => m.ok && v.toNat % 2 ^ 17 != 0
  | .scBlockReset m v => m.ok && v.toNat % 2 ^ 2 != 0
  | .macBlockReset m v => m.ok && v.toNat % 2 ^ 4 != 0
  | .dmcBlockReset m v => m.ok && v.toNat % 2 ^ 8 != 0
  | .sapBlockReset m v => m.ok && v.toNat % 2 ^ 8 != 0
  | .hifBlockReset m v => m.ok && v.getLsbD 0
  | .feBlockReset m v => m.ok && v.getLsbD 1
  | .mixBlockReset m v => m.ok && v.getLsbD 2
  | .blockResetRelease m _ _ => m.ok
  | .porchResetExit _ _ _ _ => true
  | .hbootGo m v => m.ok && v.getLsbD 0
  | .safeFrame _ => true
  | .peFault _ _ => true
  | .pchForceSafe m v => m.ok && v.getLsbD 0
  | .safeReload m v => m.ok && v.getLsbD 1
  | .stbyEnter m v => m.ok && v.getLsbD 2
  | .pchThermClear m v => m.ok && v.getLsbD 3
  | .watchdogKick m _ _ => m.ok
  | .getAsn _ => true
  | .readReg _ => true
  | .forceSafe _ => true
  | .resetMaster _ _ _ => true
  | .warmResetCmd _ => true
  | .wake _ => true
  | .thermClear _ => true
  | .eventRingFlush u => u.ok
  | .swtrig m _ => m.ok
  | .counterWrap _ _ => true
  | .pmcCntClear m _ _ => m.ok
  | .pmcClrGrp m _ => m.ok
  | .msixModExpiry _ => true
  | .pauseExpiry _ _ => true
  | .xoffRefresh _ => true
  | .concealHoldEnd _ => true
  | .concealRampEnd _ => true
  | .concealResumeEnd _ => true
  | .sapRateMeasure _ _ => true
  | .sapClockLoss _ => true
  | .asrcLock _ => true
  | .gainStepTimeout _ => true
  | .ceWriteback _ => true
  | .scrubLine _ => true
  | .rowSpareDone _ => true
  | .dmcFillDone _ => true
  | .refreshDue _ _ => true
  | .refreshRepay _ => true
  | .mr4Poll _ _ _ _ _ => true
  | .wck2ckLeveling m _ v => m.ok && v.getLsbD 24 && v.toNat % 8 == 1
  | .readDqCalibration m _ v => m.ok && v.getLsbD 24 && v.toNat % 8 == 2
  | .writeReadCompare m _ v => m.ok && v.getLsbD 24 && v.toNat % 8 == 3
  | .caBusTraining m _ v => m.ok && v.getLsbD 24 && v.toNat % 8 == 4
  | .trainingOpDone _ _ => true
  | .slotReq m _ v => m.ok && v.getLsbD 25
  | .trainingSlotOpen _ => true
  | .commit m _ v => m.ok && v.getLsbD 26
  | .trnEnd m _ v => m.ok && v.getLsbD 27
  | .slotOverrun _ => true
  | .patrolScrub _ _ => true
  | .powerDownEntry _ _ => true
  | .targetTimeout _ => true
  | .fabRejoin m _ => m.ok
  | .staleResponseAbsorb _ _ _ => true
  | .xtalRetry m v => m.ok && v.getLsbD 0
  | .measGo m v => m.ok && v.getLsbD 1
  | .measDone khz => decide (khz < 2 ^ 32)
  | .netPllUnlock _ => true
  | .watchdogExpiry _ => true
  | .thermalSample t => t.length == 8
  | .otpProgram m _ => m.ok
  | .flashRead m v => m.ok && v.getLsbD 8 && v.toNat % 4 == 0
  | .flashProgram m v => m.ok && v.getLsbD 8 && v.toNat % 4 == 1
  | .flashErase4k m v => m.ok && v.getLsbD 8 && v.toNat % 4 == 2
  | .flashErase64k m v => m.ok && v.getLsbD 8 && v.toNat % 4 == 3
  | .flashOpDone _ => true
  | .netPllLock _ => true
  | .wdCoreResetRelease _ => true
  | .porchScrubLine _ => true
  | .lndCounterLoad => true
  | .mpllLock => true
  | .mpllUnlock => true
  | .taskDispatch => true
  | .hallBlockComplete => true
  | .taskComplete => true
  | .takeoverComplete => true
  | .taskBComplete => true
  | .lortisPartialSend => true
  | .lortisFrameReceive => true
  | .digestCompare => true
  | .xltInvDone => true
  | .pcieLinkDown => true
  | .pcieFlr => true
  | .pcieHotReset => true
  | .pciePerst => true
  | .mediaPacketReceive => true
  | .fillDone => true
  | .xtalFail => true
  | .rootPllLock => true
  | .pciePllUnlock => true
  | .chipResetExit => true
  | .chipPgRise => true
  | .peRestart => true
  | .standbyWake => true
  | .getId => true
  | .getStatus => true
  | .getTemp => true
  | .getEvent => true
  | .alertResponse => true
  | .smbSclTimeout => true
  | .xtalOkReturn => true
  | .pciePllLock => true
  | .pciePerstNRise => true

end Sys2Proof
end

section
/-! SUPPORT. What a served write does to a register that has no rule of its own (R5, R7, R8). -/
namespace Sys2Proof.Machine
open Dev

/-! ### What the end of a command leaves -/

namespace Only
variable {d e : Dev}

theorem evResp (h : Only events d e) : e.resp = d.resp := h .resp (by decide)
theorem evLatch (h : Only events d e) : e.latch = d.latch := (h .pairs (by decide)).1
theorem evHbuf (h : Only events d e) : e.hbuf = d.hbuf := (h .pairs (by decide)).2

/-- A register of the map none of whose bits events change. -/
theorem evRegAt {a : Nat} {f : Found} (h : Only events d e) (hf : regAt a = some f) (ha : ∀ i, ¬ evBit a i) : e.reg a = d.reg a :=
  h.evReg (regAt_holds hf) ha

end Only

/-! ### Writes -/

/-- A register that the master writes by its fields' rules takes the write in every field. -/
theorem Writes.isOpen {d : Dev} {m : Master} {a : Nat} {f : Found} (hf : regAt a = some f) (hw : Writes d m f) : Open d a := by
  intro g hg
  obtain rfl : f = g := Option.some.inj (hf.symm.trans hg)
  exact hw.2.2

namespace Dev
variable {d : Dev} {m : Master} {a : Nat} {f g : Found}

/-- The word that a register's fields make of a write, when they all take it. -/
theorem ofNat_evalWord (v : Word) (hf : regAt a = some f) : BitVec.ofNat 32 (d.evalWord f a v.toNat).v = newWord d a v := by
  rw [newWord, hf]

@[simp] theorem heldHigh_holdHigh (x : Word) : (d.holdHigh a x).heldHigh a = x.toNat := by
  simp [heldHigh, holdHigh]

theorem toNat_heldHigh : (BitVec.ofNat 32 (d.heldHigh a)).toNat = d.heldHigh a := by
  simp [heldHigh]

/-- What the fields make of a write does not depend on the buffers of pairs. -/
theorem evalWord_holdHigh (b : Nat) (w : Word) (x : Nat) : (d.holdHigh b w).evalWord f a x = d.evalWord f a x := rfl

/-- A commit of a pair both of whose halves take it (R5). -/
theorem writePair_takes (x y : Nat) (hf : regAt a = some f) (hg : regAt (a + 4) = some g)
    (tf : ∀ k ∈ f.spec.fields, Takes d f k = true) (tg : ∀ k ∈ g.spec.fields, Takes d g k = true) :
    d.writePair f a x y = ((d.setReg a (BitVec.ofNat 32 (d.evalWord f a x).v)).setReg (a + 4)
      (BitVec.ofNat 32 (d.evalWord g (a + 4) y).v), false) := by
  obtain ⟨lockF, bankF, -⟩ := evalWord_takes x hf tf
  obtain ⟨lockG, bankG, -⟩ := evalWord_takes y hg tg
  rw [writePair, hg]
  simp [lockF, bankF, lockG, bankG, notes, shadowBusy]

/-- A served write of a register of its own (R7). -/
theorem regCmd_writeWord (v : Word) (hs : Served d m) (hf : regAt a = some f) (ha : a % 4 = 0) (hh : f.spec.half = .word)
    (hw : Writes d m f) : d.regCmd m a (some v) = { d.setReg a (newWord d a v) with resp := .okay 0 } := by
  obtain ⟨hn, -, ht⟩ := id hw
  rw [regCmd_write v hs hf ha, regWrite_plain v hf hw, plainWrite]
  simp only [hh, writeWord_takes v.toNat hf ht, afterWrite_plain hn, ofNat_evalWord v hf]

/-- A served write of the high half of a pair (R5). -/
theorem regCmd_writeHigh (v : Word) (hs : Served d m) (hg : regAt (a + 4) = some g) (ha : a % 4 = 0) (hh : g.spec.half = .high)
    (hw : Writes d m g) : d.regCmd m (a + 4) (some v) = { d.holdHigh a v with resp := .okay 0 } := by
  rw [regCmd_write v hs hg (by omega), regWrite_plain v hg hw, plainWrite]
  simp only [hh, Dev.wrote, Nat.add_sub_cancel]

/-- A served write of the low half of a pair commits the buffered high half with it (R5). -/
theorem regCmd_writeLow (v : Word) (hs : Served d m) (hf : regAt a = some f) (hg : regAt (a + 4) = some g) (ha : a % 4 = 0)
    (hh : f.spec.half = .low) (hw : Writes d m f) (hwg : Writes d m g) :
    d.regCmd m a (some v) = { ((d.holdHigh a 0).setReg a (newWord d a v)).setReg (a + 4)
      (newWord d (a + 4) (BitVec.ofNat 32 (d.heldHigh a))) with resp := .okay 0 } := by
  obtain ⟨hn, -, tf⟩ := id hw
  obtain ⟨-, -, tg⟩ := hwg
  rw [regCmd_write v hs hf ha, regWrite_plain v hf hw, plainWrite]
  simp only [hh]
  rw [writePair_takes (d := d.holdHigh a 0) _ _ hf hg tf tg]
  simp only [afterWrite_plain hn, evalWord_holdHigh]
  rw [ofNat_evalWord v hf, ← ofNat_evalWord (BitVec.ofNat 32 (d.heldHigh a)) hg, toNat_heldHigh]

end Dev

/-- Settles O7: a register without a rule of its own takes the word by its fields' access codes, a pair with the write of its low half. -/
theorem registerWrites : Obligations.RegisterWrites := by
  unfold Obligations.RegisterWrites
  refine ⟨?_, ?_, ?_⟩
  · intro s m a v f hs hf ha hh hw hev
    refine makes (fun d => d.regCmd m a (some v)) rfl ?_ ?_ <;> rw [regCmd_writeWord v hs hf ha hh hw]
    · exact ((Only.refl _ _).setAt _ (by simp)).respTo (by simp) _
    · intro e he
      exact ⟨he.evResp, wrote_newWord v (hw.isOpen hf) ((he.evRegAt hf hev).trans (reg_setReg_same ..)) f hf⟩
  · intro s m a v g hs hg ha hh hw
    refine makes (fun d => d.regCmd m (a + 4) (some v)) rfl ?_ ?_ <;> rw [regCmd_writeHigh v hs hg ha hh hw]
    · exact ((Only.refl _ _).hbufTo (by simp) _).respTo (by simp) _
    · intro e he
      refine ⟨he.evResp, ?_⟩
      rw [heldHigh, he.evHbuf]
      exact heldHigh_holdHigh v
  · intro s m a v f g hs hf hg ha hh hw hwg hev hev4
    have hne : a ≠ a + 4 := by omega
    refine makes (fun d => d.regCmd m a (some v)) rfl ?_ ?_ <;> rw [regCmd_writeLow v hs hf hg ha hh hw hwg]
    · exact ((((Only.refl _ _).hbufTo (by simp) _).setAt _ (by simp)).setAt _ (by simp)).respTo (by simp) _
    · intro e he
      have low : e.reg a = newWord s.dev a v :=
        (he.evRegAt hf hev).trans ((reg_setReg_other _ _ hne).trans (reg_setReg_same ..))
      have high : e.reg (a + 4) = newWord s.dev (a + 4) (BitVec.ofNat 32 (s.dev.heldHigh a)) :=
        (he.evRegAt hg hev4).trans (reg_setReg_same ..)
      refine ⟨he.evResp, wrote_newWord v (hw.isOpen hf) low f hf, wrote_newWord _ (hwg.isOpen hg) high g hg, ?_⟩
      rw [heldHigh, he.evHbuf]
      exact heldHigh_holdHigh 0

end Sys2Proof.Machine
end

section
/-! SUPPORT. What a served read of a register that has no rule of its own returns, latches and clears (R5, R6, R7, R601). -/
namespace Sys2Proof.Machine
open Dev

/-! ### Masks of fields -/

/-- Bit `i` of a register belongs to the field. -/
def FSpec.covers (f : FSpec) (i : Nat) : Prop := f.lo ≤ i ∧ i < f.lo + f.w

theorem FSpec.mask_testBit (f : FSpec) (i : Nat) : f.mask.testBit i = true ↔ f.covers i := by
  rw [FSpec.mask, Nat.testBit_mul_two_pow, Nat.testBit_two_pow_sub_one]
  simp only [Bool.and_eq_true, decide_eq_true_eq, FSpec.covers]
  omega

theorem getLsbD_mask (f : FSpec) {i : Nat} (hi : i < 32) : (BitVec.ofNat 32 f.mask).getLsbD i = true ↔ f.covers i := by
  simp only [BitVec.getLsbD_ofNat, hi, decide_true, Bool.true_and, f.mask_testBit]

theorem fieldsOk_tail {f : FSpec} {t : List FSpec} (h : fieldsOk (f :: t) = true) : fieldsOk t = true := by
  simp only [fieldsOk, Bool.and_eq_true] at h
  exact h.2

/-- The first field of a register shares no bit with the others. -/
theorem fieldsOk_apart {f g : FSpec} {t : List FSpec} (h : fieldsOk (f :: t) = true) (hg : g ∈ t) {i : Nat} (hf : f.covers i) :
    ¬ g.covers i := by
  simp only [fieldsOk, Bool.and_eq_true, decide_eq_true_eq, List.all_eq_true] at h
  have := h.1.2 g hg
  simp only [FSpec.covers] at hf ⊢
  omega

/-- A bit belongs to one field of a register. -/
theorem fieldsOk_unique {l : List FSpec} (h : fieldsOk l = true) {f g : FSpec} (hf : f ∈ l) (hg : g ∈ l) {i : Nat}
    (cf : f.covers i) (cg : g.covers i) : f = g := by
  induction l with
  | nil => cases hf
  | cons k t ih =>
    rcases List.mem_cons.mp hf with rfl | hft <;> rcases List.mem_cons.mp hg with rfl | hgt
    · rfl
    · exact absurd cg (fieldsOk_apart h hgt cf)
    · exact absurd cf (fieldsOk_apart h hft cg)
    · exact ih (fieldsOk_tail h) hft hgt

theorem fieldsOk_filter (p : FSpec → Bool) {l : List FSpec} (h : fieldsOk l = true) : fieldsOk (l.filter p) = true := by
  induction l with
  | nil => rfl
  | cons f t ih =>
    have ht := ih (fieldsOk_tail h)
    rw [List.filter_cons]
    split
    · simp only [fieldsOk, Bool.and_eq_true, List.all_eq_true] at h ⊢
      exact ⟨⟨h.1.1, fun g hg => h.1.2 g (List.mem_filter.mp hg).1⟩, ht⟩
    · exact ht

theorem readMask_cons (f : FSpec) (t : List FSpec) :
    readMask (f :: t) = (if f.acc = .wo ∨ f.acc = .rsv then 0 else f.mask) + readMask t := by
  rw [readMask]
  cases f.acc <;> rfl

/-- A read returns the bits of the fields that are neither write-only nor reserved (R6, R7). -/
theorem readMask_getLsbD {l : List FSpec} (h : fieldsOk l = true) {i : Nat} (hi : i < 32) :
    (BitVec.ofNat 32 (readMask l)).getLsbD i = true ↔ ∃ g ∈ l, ¬(g.acc = .wo ∨ g.acc = .rsv) ∧ g.covers i := by
  induction l generalizing i with
  | nil => simp [readMask]
  | cons f t ih =>
    have ht {i : Nat} (hi : i < 32) := ih (fieldsOk_tail h) hi
    simp only [readMask_cons, List.mem_cons, exists_eq_or_imp, ← ht hi]
    by_cases hf : f.acc = .wo ∨ f.acc = .rsv
    · simp [hf]
    · have apart : BitVec.ofNat 32 f.mask &&& BitVec.ofNat 32 (readMask t) = 0#32 := by
        refine BitVec.eq_of_getLsbD_eq fun j hj => ?_
        rw [BitVec.getLsbD_zero, Bool.eq_false_iff, Ne, BitVec.getLsbD_and, Bool.and_eq_true, getLsbD_mask f hj, ht hj]
        rintro ⟨cf, g, hg, -, cg⟩
        exact fieldsOk_apart h hg cf cg
      rw [if_neg hf, BitVec.ofNat_add, BitVec.add_eq_or_of_and_eq_zero _ _ apart, BitVec.getLsbD_or, Bool.or_eq_true, getLsbD_mask f hi]
      simp only [hf, not_false_eq_true, true_and]

/-- A read clears the bits of the read-to-clear fields (R7). -/
theorem clearMask_getLsbD {l : List FSpec} (h : fieldsOk l = true) {i : Nat} (hi : i < 32) :
    (BitVec.ofNat 32 (clearMask l)).getLsbD i = true ↔ ∃ g ∈ l, g.acc = .rc ∧ g.covers i := by
  rw [clearMask, readMask_getLsbD (fieldsOk_filter _ h) hi]
  simp only [List.mem_filter, beq_iff_eq]
  constructor
  · rintro ⟨g, ⟨hg, hc⟩, -, cg⟩
    exact ⟨g, hg, hc, cg⟩
  · rintro ⟨g, hg, hc, cg⟩
    exact ⟨g, ⟨hg, hc⟩, by simp [hc], cg⟩

/-- What a read leaves of a field: nothing of a read-to-clear one, the others as they are (R7). -/
theorem bitsOf_clear {l : List FSpec} (h : fieldsOk l = true) {f : FSpec} (hf : f ∈ l) (v : Word) :
    bitsOf (v &&& ~~~(BitVec.ofNat 32 (clearMask l))).toNat f.lo f.w = if f.acc = .rc then 0 else bitsOf v.toNat f.lo f.w := by
  have h32 := fieldsOk_le h f hf
  apply Nat.eq_of_testBit_eq
  intro i
  rw [bitsOf_testBit]
  by_cases hi : i < f.w
  · have cf : f.covers (f.lo + i) := ⟨by omega, by omega⟩
    have key : (BitVec.ofNat 32 (clearMask l)).getLsbD (f.lo + i) = decide (f.acc = .rc) := by
      rw [Bool.eq_iff_iff, clearMask_getLsbD h (by omega), decide_eq_true_eq]
      constructor
      · rintro ⟨g, hg, hc, cg⟩
        rwa [fieldsOk_unique h hf hg cf cg]
      · exact fun hc => ⟨f, hf, hc, cf⟩
    rw [BitVec.testBit_toNat, BitVec.getLsbD_and, BitVec.getLsbD_not, key]
    by_cases hc : f.acc = .rc
    · simp [hc]
    · simp [hc, hi, bitsOf_testBit, BitVec.testBit_toNat, show f.lo + i < 32 by omega]
  · by_cases hc : f.acc = .rc <;> simp [hi, hc, bitsOf_testBit]

/-! ### Reads -/

namespace Dev
variable {d : Dev} {m : Master} {a : Nat} {f g : Found}

/-- What a read returns fits a word. -/
theorem toNat_readable (v : Word) (n : Nat) : (BitVec.ofNat 32 (v.toNat &&& n)).toNat = v.toNat &&& n := by
  rw [BitVec.toNat_ofNat, Nat.mod_eq_of_lt (Nat.lt_of_le_of_lt Nat.and_le_left v.isLt)]

/-- A served read of a register of its own clears its read-to-clear fields (R7). -/
theorem regCmd_readWord (hs : Served d m) (hf : regAt a = some f) (ha : a % 4 = 0) (hh : f.spec.half = .word) (hn : f.special = false)
    (hu : ¬(0x48000 ≤ a ∧ a < 0x49000)) :
    d.regCmd m a none = { (if clearMask f.spec.fields = 0 then d
        else d.setReg a (d.reg a &&& ~~~(BitVec.ofNat 32 (clearMask f.spec.fields)))) with
      resp := .okay ((d.reg a).toNat &&& readMask f.spec.fields) } := by
  rw [regCmd_read hs hf ha, regRead_plain hf hu hn]
  simp only [hh, toNat_readable]

/-- A served read of the low half of a pair latches the high half (R5). -/
theorem regCmd_readLow (hs : Served d m) (hf : regAt a = some f) (hg : regAt (a + 4) = some g) (ha : a % 4 = 0) (hh : f.spec.half = .low)
    (hn : f.special = false) (hng : g.special = false) (hu : ¬(0x48000 ≤ a ∧ a < 0x49000)) :
    d.regCmd m a none = { ({ d with
        latch := sset (fun _ => (0 : Word)) d.latch a (BitVec.ofNat 32 ((d.reg (a + 4)).toNat &&& readMask g.spec.fields)) } : Dev) with
      resp := .okay ((d.reg a).toNat &&& readMask f.spec.fields) } := by
  rw [regCmd_read hs hf ha, regRead_plain hf hu hn, highRead, hg]
  simp only [hh, toNat_readable, wordRead_plain _ hng]

/-- A served read of the high half of a pair returns the latch (R5). -/
theorem regCmd_readHigh (hs : Served d m) (hg : regAt (a + 4) = some g) (ha : a % 4 = 0) (hh : g.spec.half = .high)
    (hn : g.special = false) (hu : ¬(0x48000 ≤ a + 4 ∧ a + 4 < 0x49000)) :
    d.regCmd m (a + 4) none = { d with resp := .okay (sget (fun _ => (0 : Word)) d.latch a).toNat } := by
  rw [regCmd_read hs hg (by omega), regRead_plain hg hu hn]
  simp only [hh, Nat.add_sub_cancel]

/-- The register after the read-to-clear fields are cleared, also where it has none. -/
theorem reg_ite_clear (n : Nat) :
    (if n = 0 then d else d.setReg a (d.reg a &&& ~~~(BitVec.ofNat 32 n))).reg a = d.reg a &&& ~~~(BitVec.ofNat 32 n) := by
  split
  · next h => rw [h, BitVec.not_zero, BitVec.and_allOnes]
  · exact reg_setReg_same ..

end Dev

/-- Settles O8: a read of a low half latches the high half, a read of the high half returns the latch, and any other read clears the
read-to-clear fields. -/
theorem readEffects : Obligations.ReadEffects := by
  unfold Obligations.ReadEffects
  refine ⟨?_, ?_, ?_⟩
  · intro s m a f g hs hf hg ha hh hn hng hu
    refine makes (fun d => d.regCmd m a none) rfl ?_ ?_ <;> rw [regCmd_readLow hs hf hg ha hh hn hng hu]
    · exact ((Only.refl _ _).latchTo (by simp) _).respTo (by simp) _
    · intro e he
      refine ⟨he.evResp, ?_⟩
      rw [he.evLatch, sget_sset_same, toNat_readable]
  · intro s m a g hs hg ha hh hn hu
    refine makes (fun d => d.regCmd m (a + 4) none) rfl ?_ ?_ <;> rw [regCmd_readHigh hs hg ha hh hn hu]
    · exact (Only.refl _ _).respTo (by simp) _
    · exact fun e he => he.evResp
  · intro s m a f hs hf ha hh hn hev hu
    refine makes (fun d => d.regCmd m a none) rfl ?_ ?_ <;> rw [regCmd_readWord hs hf ha hh hn hu]
    · exact (Only.ite (Only.refl _ _) ((Only.refl _ _).setAt _ (by simp))).respTo (by simp) _
    · intro e he
      have hreg : e.reg a = s.dev.reg a &&& ~~~(BitVec.ofNat 32 (clearMask f.spec.fields)) :=
        (he.evRegAt hf hev).trans (reg_ite_clear _)
      refine ⟨he.evResp, fun x hx => ?_⟩
      rw [hreg]
      exact bitsOf_clear (regAt_fieldsOk hf) hx _

end Sys2Proof.Machine
end
